-- ==== Sys2Proof/Word.lean ====
section
/-! DEFINITION. The words the block exchanges with the outside: port bytes and line bytes. -/

namespace Sys2Proof

/-- A byte at the port, or the eight data bits of a byte on a line (R172, R174). -/
abbrev Byte := BitVec 8

/-- A byte as a line receives it: its data bits, its parity bit and its stop bit, each true when high (R174). -/
structure LineByte where
  data : Byte
  parity : Bool
  stop : Bool
deriving DecidableEq, Repr

/-- The two fixture lines. -/
inductive LineId where
  | a
  | b
deriving DecidableEq, Repr

end Sys2Proof
end

