-- ==== Sys2Proof/Config.lean ====
section
/-! DEFINITION. The constants the manual fixes, and the choices it leaves free. -/

namespace Sys2Proof.Config

/-- R122: the contact cap, the effective cap's bound while the SHED contact is ASSERTED. -/
def contactCap : Nat := 600

/-- R172: the identity constant reported by READ FLOOR. -/
def identity : Nat := 0x3216

/-- R102: the override list holds at most 24 records. -/
def overrideRoom : Nat := 24

/-- R114: RAISE and LOWER act in steps of 100. -/
def pressStep : Nat := 100

/-- R25: the quarantine timer's period, 15 minutes, in tenths. -/
def quarantinePeriod : Nat := 15 * 600

/-- R1: a minute is 600 tenths. -/
def minuteTenths : Nat := 600

/-- R1: a second is 10 tenths. -/
def secondTenths : Nat := 10

/-- R121: a tally saturates at this value. -/
def tallyMax : Nat := 4294967295

/-- FREE VALUE (log 4). Where the manual lets several records take one event in either order (R41, R87, R90, R122,
R127), draw number `n` takes record `x` before record `y` when this answers true. It has no body: no proof can lean
on an order. -/
opaque before (n x y : Nat) : Bool

/-- FREE VALUE (log 4). Where two actions of one event may be taken in either order, draw number `n` takes the first
named one first when this answers true. -/
opaque firstFirst (n : Nat) : Bool

end Sys2Proof.Config
end

