-- ==== Sys2Proof/Syntax.lean ====
section
/-! DEFINITION. The commands of the block: one constructor for each row of spec/opcode_table.json. -/

namespace Sys2Proof

/-- One command. A request carries the body bytes of its frame (R164, R173), whatever their number; an event carries
the key of the record or the line it is an event at. -/
inductive Instr where
  /-- NOP (R164). -/
  | nop (body : List Byte)
  /-- BAD_REQUEST (R165): the bytes that were shifted in. -/
  | badRequest (shifted : List Byte)
  /-- ENROL_LUMINAIRE (R6). -/
  | enrolLuminaire (body : List Byte)
  /-- AMEND_LUMINAIRE (R7, R8, R9). -/
  | amendLuminaire (body : List Byte)
  /-- READ_LUMINAIRE (R22). -/
  | readLuminaire (body : List Byte)
  /-- RETIRE_LUMINAIRE (R10). -/
  | retireLuminaire (body : List Byte)
  /-- DEFINE_SEGMENT (R12, R15). -/
  | defineSegment (body : List Byte)
  /-- AMEND_SEGMENT (R14). -/
  | amendSegment (body : List Byte)
  /-- READ_SEGMENT (R22). -/
  | readSegment (body : List Byte)
  /-- RETIRE_SEGMENT (R16). -/
  | retireSegment (body : List Byte)
  /-- ENROL_INPUT (R17). -/
  | enrolInput (body : List Byte)
  /-- AMEND_INPUT (R19). -/
  | amendInput (body : List Byte)
  /-- READ_INPUT (R22). -/
  | readInput (body : List Byte)
  /-- RETIRE_INPUT (R20). -/
  | retireInput (body : List Byte)
  /-- REINSTATE_INPUT (R39). -/
  | reinstateInput (body : List Byte)
  /-- CALIBRATE (R43, R44). -/
  | calibrate (body : List Byte)
  /-- SPOT_READ (R159). -/
  | spotRead (body : List Byte)
  /-- FETCH_SPOT (R160). -/
  | fetchSpot (body : List Byte)
  /-- PLACE_OVERRIDE (R105). -/
  | placeOverride (body : List Byte)
  /-- CANCEL_OVERRIDE (R109). -/
  | cancelOverride (body : List Byte)
  /-- READ_OVERRIDES (R110). -/
  | readOverrides (body : List Byte)
  /-- SET_FLOOR_CAP (R124). -/
  | setFloorCap (body : List Byte)
  /-- READ_FLOOR (R169). -/
  | readFloor (body : List Byte)
  /-- READ_CHANGES (R168). -/
  | readChanges (body : List Byte)
  /-- SNAPSHOT_TALLY (R131). -/
  | snapshotTally (body : List Byte)
  /-- READ_TALLY (R132). -/
  | readTally (body : List Byte)
  /-- WARM_RESET (R170). -/
  | warmReset (body : List Byte)
  /-- COLD_RESET (R171): whether the SHED pin is low at the reset (R123). -/
  | coldReset (shedLow : Bool)
  /-- TENTH (R1): whether the SHED pin is low at this tenth (R123). -/
  | tenth (shedLow : Bool)
  /-- MINUTE_EVENT (R130). -/
  | minuteEvent
  /-- OVERRIDE_HOLD_EXPIRY (R111): the record that expires. -/
  | overrideHoldExpiry (handle : Nat)
  /-- STEP_EVENT (R53). -/
  | stepEvent (segment : Nat)
  /-- OFF_DELAY_EXPIRY (R62). -/
  | offDelayExpiry (segment : Nat)
  /-- BLIND_TIMER_EXPIRY (R67). -/
  | blindTimerExpiry (segment : Nat)
  /-- SHORTFALL_TIMER_EXPIRY (R73). -/
  | shortfallTimerExpiry (segment : Nat)
  /-- QUARANTINE_TIMER_EXPIRY (R38). -/
  | quarantineTimerExpiry (input : Nat)
  /-- OCCUPANCY_HOLD_EXPIRY (R93). -/
  | occupancyHoldExpiry (segment : Nat)
  /-- SETBACK_TIMER_EXPIRY (R94). -/
  | setbackTimerExpiry (segment : Nat)
  /-- POLL_TIMER_EXPIRY (R152). -/
  | pollTimerExpiry (input : Nat)
  /-- INPUT_REPLY (R154): the bytes received in the reply window. -/
  | inputReply (bytes : List LineByte)
  /-- INPUT_REPLY_WRONG_KIND (R156). -/
  | inputReplyWrongKind (bytes : List LineByte)
  /-- POLL_NO_REPLY (R157). -/
  | pollNoReply
  /-- SPOT_POLL_END (R160): the bytes received, none when nothing answered. -/
  | spotPollEnd (bytes : List LineByte)
  /-- INPUT_LINE_DOWN (R161). -/
  | inputLineDown
  /-- INPUT_LINE_RECOVERY (R162). -/
  | inputLineRecovery
  /-- INRX_RETURNS_HIGH (R153). -/
  | inrxReturnsHigh
  /-- LEVEL_FRAME_END (R141). -/
  | levelFrameEnd (line : LineId)
  /-- DRIVER_REPLY (R142): the bytes received in the reply window. -/
  | driverReply (line : LineId) (bytes : List LineByte)
  /-- QUERY_NO_REPLY (R144). -/
  | queryNoReply (line : LineId)
  /-- FIXTURE_LINE_DOWN (R147). -/
  | fixtureLineDown (line : LineId)
  /-- FIXTURE_LINE_RECOVERY (R148). -/
  | fixtureLineRecovery (line : LineId)
  /-- FIXTURE_RX_RETURNS_HIGH (R134, R140). -/
  | fixtureRxReturnsHigh (line : LineId)
  /-- FIXTURE_RX_FALLS_LOW (R134, R148). -/
  | fixtureRxFallsLow (line : LineId)
  /-- INRX_FALLS_LOW (R162). -/
  | inrxFallsLow
deriving DecidableEq, Repr

/-- The three kinds of input (R17). -/
inductive InputKind where
  | photo
  | presence
  | station
deriving DecidableEq, Repr

/-- The five buttons of a wall station (R155, R172). -/
inductive Button where
  | raise
  | lower
  | on
  | off
  | resume
deriving DecidableEq, Repr

/-- The value of a valid input reply (R150): lux, the motion bit, or the press sequence and the button code as sent. -/
inductive InputValue where
  | photo (lux : Nat)
  | presence (motion : Bool)
  | station (sequence : Nat) (button : Byte)
deriving DecidableEq, Repr

/-- A valid driver reply (R134): LAMP FAILED, HOT and the echo code. -/
structure DriverReply where
  lampFailed : Bool
  hot : Bool
  echo : Nat
deriving DecidableEq, Repr

end Sys2Proof
end

