-- ==== Sys2Proof/WellFormed.lean ====
section
/-! DEFINITION. Which commands are well formed: what the wire and the tables can carry at all. -/

namespace Sys2Proof

/-- The request codes of the catalogue (R173). -/
def catalogueCodes : List Nat :=
  [0x00, 0x10, 0x11, 0x12, 0x13, 0x20, 0x21, 0x22, 0x23, 0x30, 0x31, 0x32, 0x33, 0x34, 0x40, 0x41, 0x42,
   0x50, 0x51, 0x52, 0x60, 0x61, 0x62, 0x63, 0x64, 0x7F]

/-- R164, R165: the bytes shifted in make a whole request frame with a code of the catalogue. -/
def frameTaken : List Byte → Bool
  | [] => false
  | [_] => false
  | code :: n :: rest => n.toNat ≤ 40 && n.toNat ≤ rest.length && catalogueCodes.contains code.toNat

/-- A request body fits its frame (R164: 0 to 40 bytes). -/
def bodyFits (body : List Byte) : Bool := body.length ≤ 40

/-- R2: a segment id. -/
def segmentIdOk (i : Nat) : Bool := i < 32

/-- R2: an input address. -/
def inputAddressOk (i : Nat) : Bool := i < 48

/-- The command is one that can reach the block: a body of at most 40 bytes, a BAD REQUEST only for bytes that make no
request, keys and handles in their ranges (R2, R101), and no more received bytes than the reply's layout has (R175). -/
def Instr.wf : Instr → Bool
  | .nop body | .enrolLuminaire body | .amendLuminaire body | .readLuminaire body | .retireLuminaire body
  | .defineSegment body | .amendSegment body | .readSegment body | .retireSegment body | .enrolInput body
  | .amendInput body | .readInput body | .retireInput body | .reinstateInput body | .calibrate body
  | .spotRead body | .fetchSpot body | .placeOverride body | .cancelOverride body | .readOverrides body
  | .setFloorCap body | .readFloor body | .readChanges body | .snapshotTally body | .readTally body
  | .warmReset body => bodyFits body
  | .badRequest shifted => !frameTaken shifted
  | .coldReset _ | .tenth _ | .minuteEvent => true
  | .overrideHoldExpiry handle => 1 ≤ handle && handle ≤ 65535
  | .stepEvent i | .offDelayExpiry i | .blindTimerExpiry i | .shortfallTimerExpiry i | .occupancyHoldExpiry i
  | .setbackTimerExpiry i => segmentIdOk i
  | .quarantineTimerExpiry i | .pollTimerExpiry i => inputAddressOk i
  | .inputReply bytes | .inputReplyWrongKind bytes | .spotPollEnd bytes => bytes.length ≤ 4
  | .driverReply _ bytes => bytes.length ≤ 3
  | .pollNoReply | .inputLineDown | .inputLineRecovery | .inrxReturnsHigh | .inrxFallsLow => true
  | .levelFrameEnd _ | .queryNoReply _ | .fixtureLineDown _ | .fixtureLineRecovery _ | .fixtureRxReturnsHigh _
  | .fixtureRxFallsLow _ => true

end Sys2Proof
end

