-- ==== Sys2Proof/Decode.lean ====
section
/-! DEFINITION. Reading commands and replies from bytes, and writing frames: the request frames of the port
(R164, R165, R172, R173) and the frames of the lines (R174 to R176). -/

namespace Sys2Proof

/-- The command that a word spells by the bits of spec/opcode_table.json. The table gives no row any bits, so no word
spells a command. -/
def decodeTableWord (_nbits _w : Nat) : Option Instr := none

/-- R173: the request of a code of the catalogue, with its body; none where no request has the code. -/
def requestOf (code : Nat) (body : List Byte) : Option Instr :=
  match code with
  | 0x00 => some (.nop body)
  | 0x10 => some (.enrolLuminaire body)
  | 0x11 => some (.amendLuminaire body)
  | 0x12 => some (.readLuminaire body)
  | 0x13 => some (.retireLuminaire body)
  | 0x20 => some (.defineSegment body)
  | 0x21 => some (.amendSegment body)
  | 0x22 => some (.readSegment body)
  | 0x23 => some (.retireSegment body)
  | 0x30 => some (.enrolInput body)
  | 0x31 => some (.amendInput body)
  | 0x32 => some (.readInput body)
  | 0x33 => some (.retireInput body)
  | 0x34 => some (.reinstateInput body)
  | 0x40 => some (.calibrate body)
  | 0x41 => some (.spotRead body)
  | 0x42 => some (.fetchSpot body)
  | 0x50 => some (.placeOverride body)
  | 0x51 => some (.cancelOverride body)
  | 0x52 => some (.readOverrides body)
  | 0x60 => some (.setFloorCap body)
  | 0x61 => some (.readFloor body)
  | 0x62 => some (.readChanges body)
  | 0x63 => some (.snapshotTally body)
  | 0x64 => some (.readTally body)
  | 0x7F => some (.warmReset body)
  | _ => none

/-- R164, R165: the command that a transaction gives at its end, from the bytes shifted in. Bytes beyond the 2 + n of
the request frame are ignored. -/
def decodeFrame (shifted : List Byte) : Instr :=
  match shifted with
  | code :: n :: rest =>
    if n.toNat ≤ 40 ∧ n.toNat ≤ rest.length then
      (requestOf code.toNat (rest.take n.toNat)).getD (.badRequest shifted)
    else .badRequest shifted
  | _ => .badRequest shifted

/-- R173: the code and the body of a request; none for a command that is no request. -/
def requestParts : Instr → Option (Nat × List Byte)
  | .nop body => some (0x00, body)
  | .enrolLuminaire body => some (0x10, body)
  | .amendLuminaire body => some (0x11, body)
  | .readLuminaire body => some (0x12, body)
  | .retireLuminaire body => some (0x13, body)
  | .defineSegment body => some (0x20, body)
  | .amendSegment body => some (0x21, body)
  | .readSegment body => some (0x22, body)
  | .retireSegment body => some (0x23, body)
  | .enrolInput body => some (0x30, body)
  | .amendInput body => some (0x31, body)
  | .readInput body => some (0x32, body)
  | .retireInput body => some (0x33, body)
  | .reinstateInput body => some (0x34, body)
  | .calibrate body => some (0x40, body)
  | .spotRead body => some (0x41, body)
  | .fetchSpot body => some (0x42, body)
  | .placeOverride body => some (0x50, body)
  | .cancelOverride body => some (0x51, body)
  | .readOverrides body => some (0x52, body)
  | .setFloorCap body => some (0x60, body)
  | .readFloor body => some (0x61, body)
  | .readChanges body => some (0x62, body)
  | .snapshotTally body => some (0x63, body)
  | .readTally body => some (0x64, body)
  | .warmReset body => some (0x7F, body)
  | _ => none

/-- R172: the request frame of a request: its code, the length of its body, its body. -/
def encodeFrame (i : Instr) : Option (List Byte) :=
  (requestParts i).map fun p => BitVec.ofNat 8 p.1 :: BitVec.ofNat 8 p.2.length :: p.2

/-- The number of ones among the eight bits of a byte. -/
def onesOf (d : Byte) : Nat := ((List.range 8).filter fun k => d.toNat.testBit k).length

/-- R175: a received byte is good when its stop bit is high and its nine data and parity bits hold an odd number of
ones. -/
def LineByte.good (b : LineByte) : Bool := b.stop && ((onesOf b.data + b.parity.toNat) % 2 == 1)

/-- R174: a byte as it is sent, with the parity bit that makes the number of ones odd and a high stop bit. -/
def LineByte.sent (d : Byte) : LineByte := ⟨d, onesOf d % 2 == 0, true⟩

/-- R174: the level of a line between bytes and frames: high. -/
def lineIdle : Bool := true

/-- R174: the levels of a line byte, one for each bit time in order: a low start bit, the data bits least significant
first, the parity bit, the stop bit. -/
def LineByte.bits (b : LineByte) : List Bool :=
  false :: (List.range 8).map (fun k => b.data.toNat.testBit k) ++ [b.parity, b.stop]

/-- R174, R175: the line byte in eleven levels taken from a line; none where they do not begin with a start bit or are
no whole byte. -/
def lineByteOf : List Bool → Option LineByte
  | [false, d0, d1, d2, d3, d4, d5, d6, d7, parity, stop] =>
    some ⟨BitVec.ofBoolListLE [d0, d1, d2, d3, d4, d5, d6, d7], parity, stop⟩
  | _ => none

/-- R134, R176: the valid driver reply in the bytes received after a QUERY to `address`, or none where they fail a test:
parity or framing, length, the mark of byte 0, the address echo. -/
def decodeDriverReply (address : Nat) (bytes : List LineByte) : Option DriverReply :=
  match bytes with
  | b0 :: b1 :: b2 :: _ =>
    if b0.good && b1.good && b2.good && (b0.data.toNat / 64 == 3) && (b0.data.toNat % 64 == address) then
      some ⟨b1.data.toNat.testBit 0, b1.data.toNat.testBit 1, b2.data.toNat⟩
    else none
  | _ => none

/-- R176: the bytes by which the driver at an address answers a QUERY. -/
def DriverReply.bytes (address : Nat) (d : DriverReply) : List Byte :=
  [BitVec.ofNat 8 (192 + address), BitVec.ofNat 8 (d.lampFailed.toNat + 2 * d.hot.toNat), BitVec.ofNat 8 d.echo]

/-- R172: the input kind of its code. -/
def kindOfCode : Nat → Option InputKind
  | 1 => some .photo
  | 2 => some .presence
  | 3 => some .station
  | _ => none

/-- R172: the code of an input kind. -/
def InputKind.code : InputKind → Nat
  | .photo => 1
  | .presence => 2
  | .station => 3

/-- R172: the button of its code; none for a code that is none of the five (R155). -/
def buttonOfCode : Nat → Option Button
  | 1 => some .raise
  | 2 => some .lower
  | 3 => some .on
  | 4 => some .off
  | 5 => some .resume
  | _ => none

/-- R172: the code of a button. -/
def Button.code : Button → Nat
  | .raise => 1
  | .lower => 2
  | .on => 3
  | .off => 4
  | .resume => 5

/-- The kind of the device that gives a value (R150). -/
def InputValue.kind : InputValue → InputKind
  | .photo _ => .photo
  | .presence _ => .presence
  | .station _ _ => .station

/-- R176: the value of an input reply of a kind, from its bytes 2 and 3. Reserved bits are ignored (R175). -/
def inputValueOf (k : InputKind) (b2 b3 : Byte) : InputValue :=
  match k with
  | .photo => .photo (b2.toNat * 256 + b3.toNat)
  | .presence => .presence (b2.toNat.testBit 0)
  | .station => .station (b2.toNat % 16) b3

/-- R176: the bytes by which the device at an address answers a POLL. -/
def InputValue.bytes (address : Nat) (v : InputValue) : List Byte :=
  [BitVec.ofNat 8 v.kind.code, BitVec.ofNat 8 address]
    ++ match v with
      | .photo x => [BitVec.ofNat 8 (x / 256), BitVec.ofNat 8 x]
      | .presence isMotion => [BitVec.ofNat 8 isMotion.toNat, 0#8]
      | .station sequence button => [BitVec.ofNat 8 sequence, button]

/-- R150, R176: the valid input reply in the bytes received after a POLL to `address`, or none where they fail a test:
parity or framing, length, the address echo, the kind. -/
def decodeInputReply (address : Nat) (bytes : List LineByte) : Option InputValue :=
  match bytes with
  | b0 :: b1 :: b2 :: b3 :: _ =>
    if b0.good && b1.good && b2.good && b3.good && (b1.data.toNat == address) then
      (kindOfCode b0.data.toNat).map fun k => inputValueOf k b2.data b3.data
    else none
  | _ => none

end Sys2Proof
end

