-- ==== Sys2Proof/Machine/Arith.lean ====
section
/-! DEFINITION. The arithmetic of the manual: clamps, the four roundings of 00_scope.md, and the byte orders of R172. -/

namespace Sys2Proof.Machine

/-- A numeric setting taken at the nearest limit of its range (00_scope.md, Numeric and structural fields). -/
def clampTo (lo hi v : Nat) : Nat := max lo (min v hi)

/-- A quotient rounded up. -/
def divUp (a b : Nat) : Nat := (a + (b - 1)) / b

/-- A quotient rounded to nearest, halves up. -/
def divNearest (a b : Nat) : Nat := (2 * a + b) / (2 * b)

/-- The absolute difference of two quantities. -/
def dist (a b : Nat) : Nat := (a - b) + (b - a)

/-- A byte of a response. -/
def byte (n : Nat) : Byte := BitVec.ofNat 8 n

/-- R172: a two-byte value, most significant byte first. -/
def bytes2 (n : Nat) : List Byte := [byte (n / 256), byte n]

/-- R172: a four-byte value, most significant byte first. -/
def bytes4 (n : Nat) : List Byte := [byte (n / 16777216), byte (n / 65536), byte (n / 256), byte n]

/-- The byte of a body at an offset, as a number. -/
def byteAt (body : List Byte) (i : Nat) : Nat := (body.getD i 0#8).toNat

/-- The two-byte value of a body at an offset (R172). -/
def word2At (body : List Byte) (i : Nat) : Nat := byteAt body i * 256 + byteAt body (i + 1)

/-- The four-byte value of a body at an offset (R172). -/
def word4At (body : List Byte) (i : Nat) : Nat := word2At body i * 65536 + word2At body (i + 2)

/-- R173: a two-byte value read as signed two's complement. -/
def signed2 (n : Nat) : Int := if n < 32768 then (n : Int) else (n : Int) - 65536

/-- R173: a signed value as two bytes, two's complement. -/
def signedBytes2 (d : Int) : List Byte := bytes2 (d % 65536).toNat

/-- A bit of a response byte at its place. -/
def bitAt (place : Nat) (b : Bool) : Nat := if b then 2 ^ place else 0

/-- R172: a reference byte: an id, or 0xFF for none. -/
def refByte (r : Option Nat) : Byte := byte (r.getD 255)

/-- R172: the reference that a byte carries, 0xFF being none. -/
def refOf (b : Nat) : Option Nat := if b = 255 then none else some b

end Sys2Proof.Machine
end

