-- ==== Sys2Proof/Machine/State.lean ====
section
/-! DEFINITION. The state of the block: the records of the three tables, the override list, the composer, the three
lines, the port and the time base, as plain data; the reasons a step can stop; and the state after a cold reset. -/

namespace Sys2Proof.Machine

/-- No rule of the manual stops the block: every request answers a status (R166) and every event has an effect, so no
reason exists. Safe: nothing raises a fault. -/
inductive Fault where
deriving DecidableEq, Repr

/-- Why a command would have no meaning. -/
inductive Refusal where
  /-- Raised only by an arm of `exec` whose command has no meaning yet; no arm raises it. Safe. -/
  | notModelled (mnemonic : String)
deriving DecidableEq, Repr

/-- A sparse table: its records by key, in strictly rising order of key. -/
abbrev Tab (α : Type) := List (Nat × α)

/-- R1: a countdown. `none` is not running; `some n` has n tenths left, and its expiry is due when none is left. -/
abbrev Timer := Option Nat

/-! ## Luminaires -/

/-- R135: whether a driver answers its queries. -/
inductive LumLink where
  | unknown
  | responding
  | silent
deriving DecidableEq, Repr

/-- R135: whether the last LEVEL frame still waits for a reply that settles it. -/
inductive Confirmation where
  | confirmed
  | awaiting
deriving DecidableEq, Repr

/-- R11: the segment and the position a luminaire is assigned to. -/
structure Place where
  segment : Nat
  position : Nat
deriving DecidableEq, Repr

/-- R121: the level and the code the composer has determined. -/
structure Composed where
  level : Nat
  code : Nat
deriving DecidableEq, Repr

/-- A luminaire record (R6, R121, R135). -/
structure Luminaire where
  place : Option Place
  trim : Nat
  minLevel : Nat
  maxLevel : Nat
  composed : Option Composed
  sentCode : Option Nat
  reportedCode : Option Nat
  link : LumLink
  missCount : Nat
  confirmation : Confirmation
  mismatchCount : Nat
  lampFailed : Bool
  hot : Bool
  unconfirmed : Bool
  changed : Bool
deriving DecidableEq, Repr

/-! ## Segments -/

/-- R12: the mode of a segment. -/
inductive Mode where
  | manual
  | harvest
deriving DecidableEq, Repr

/-- R50: the controller states. -/
inductive Ctl where
  | forced
  | tracking
  | dwell
  | daylit
  | strike
deriving DecidableEq, Repr

/-- R89: the activity states. -/
inductive Activity where
  | occupied
  | setback
  | vacant
deriving DecidableEq, Repr

/-- The configuration fields of a segment, in the order of the table of R12. -/
structure SegConfig where
  row : Nat
  outer : Option Nat
  primary : Option Nat
  secondary : Option Nat
  mode : Mode
  manualLevel : Nat
  target : Nat
  tolerance : Nat
  relightMargin : Nat
  upStep : Nat
  downStep : Nat
  upInterval : Nat
  downInterval : Nat
  cutOff : Nat
  offDelay : Nat
  strikeLevel : Nat
  fallback : Nat
  sensorless : Nat
  shortfallTime : Nat
  cap : Nat
  sensing : Bool
  occupancyHold : Nat
  setbackTime : Nat
  setbackLevel : Nat
  stationOff : Bool
deriving DecidableEq, Repr

/-- A segment record: its configuration (R12), its controller (R49), its activity (R89), its cap and tally (R121). -/
structure Segment where
  cfg : SegConfig
  ctl : Ctl
  h : Nat
  held : Bool
  blind : Bool
  shortfall : Bool
  stepTimer : Timer
  offTimer : Timer
  blindTimer : Timer
  shortTimer : Timer
  activity : Activity
  holdTimer : Timer
  setbackTimer : Timer
  effCap : Nat
  tally : Nat
  changed : Bool
deriving DecidableEq, Repr

/-! ## Inputs -/

/-- R25: the measurement states. -/
inductive MeasState where
  | unseeded
  | settling
  | settled
  | quarantined
deriving DecidableEq, Repr

/-- R25, R35: an open reseed window. -/
structure Window where
  remaining : Nat
  reseeds : Nat
deriving DecidableEq, Repr

/-- R25: the measurement record of a photosensor. F is a view of the accumulator (R25: they always agree). -/
structure Measurement where
  state : MeasState
  acc : Nat
  f0 : Option Nat
  settleCount : Nat
  pendingJump : Bool
  window : Option Window
  quarantineTimer : Timer
deriving DecidableEq, Repr

/-- R17: the configuration of a photosensor: N, Q, J and K. -/
structure PhotoConfig where
  shift : Nat
  tolerance : Nat
  spike : Nat
  ratio : Nat
deriving DecidableEq, Repr

/-- R101: the positions of one segment that a record or a station covers. -/
structure Scope where
  segment : Nat
  first : Nat
  last : Nat
deriving DecidableEq, Repr

/-- R90: what a presence sensor last said. -/
inductive Report where
  | quiet
  | motion
deriving DecidableEq, Repr

/-- The part of an input record that its kind gives it (R17, R25, R89, R113, R151). -/
inductive Device where
  | photo (cfg : PhotoConfig) (meas : Measurement)
  | presence (coverage : List Nat) (last : Option Report)
  | station (scope : Scope) (hold : Nat) (lastButton : Option Button) (sequence : Option Nat)
deriving DecidableEq, Repr

/-- R151: the link states of an input. -/
inductive InputLink where
  | absent
  | reporting
  | wrongKind
deriving DecidableEq, Repr

/-- An input record (R17, R151). -/
structure Input where
  device : Device
  interval : Nat
  missLimit : Nat
  link : InputLink
  missCount : Nat
  pollTimer : Timer
  changed : Bool
deriving DecidableEq, Repr

/-! ## Overrides -/

/-- R101: who placed a record. -/
inductive Origin where
  | floor
  | station (input : Nat)
deriving DecidableEq, Repr

/-- R101: the two classes of record. -/
inductive OvClass where
  | facility
  | occupant
deriving DecidableEq, Repr

/-- R101: what a record does to the members it governs. -/
inductive OvAction where
  | set (level : Nat)
  | nudge (offset : Int)
  | off
deriving DecidableEq, Repr

/-- An override record (R101). `hold` is the minutes remaining, `none` for NONE. -/
structure Override where
  handle : Nat
  origin : Origin
  cls : OvClass
  scope : Scope
  action : OvAction
  hold : Option Nat
deriving DecidableEq, Repr

/-- The override list: its records in list order, the handle counter (R104) and the list's change flag (R167). -/
structure OverrideList where
  records : List Override
  counter : Nat
  changed : Bool
deriving DecidableEq, Repr

/-! ## The composer, the lines, the port and the time base -/

/-- The composer's floor-wide state (R121), with the level of the SHED pin at the last tenth (R123). -/
structure Composer where
  shedAsserted : Bool
  shedPinLow : Bool
  floorCap : Nat
  floorCapOn : Bool
  snapshot : List Nat
  snapshotNumber : Nat
deriving DecidableEq, Repr

/-- R135, R151: the state of a line. -/
inductive LineState where
  | running
  | down
deriving DecidableEq, Repr

/-- R135: an entry of a level queue: a luminaire and a code. -/
structure QueueEntry where
  key : Nat
  code : Nat
deriving DecidableEq, Repr

/-- What a frame in flight on a fixture line is (R134, R140): a LEVEL frame with its code, or a QUERY taken from the
confirm list or from the scan slot. -/
inductive FrameKind where
  | level (code : Nat)
  | confirmQuery
  | scanQuery
deriving DecidableEq, Repr

/-- R135, R146: a frame in flight on a fixture line, the luminaire it names, and whether that record has been retired
since the frame began. -/
structure FixtureFlight where
  kind : FrameKind
  key : Nat
  retired : Bool
deriving DecidableEq, Repr

/-- A fixture line (R135), with the level of its receive pin (R134). -/
structure FixtureLine where
  state : LineState
  queue : List QueueEntry
  confirm : List Nat
  slot : Option Nat
  mark : Option Nat
  flight : Option FixtureFlight
  rxHigh : Bool
deriving DecidableEq, Repr

/-- Whether the end of a due poll acts on its input: it does, or the record has been retired since (R20), or a warm
reset has said that its reply is discarded (R163). -/
inductive PollMark where
  | live
  | retired
  | discard
deriving DecidableEq, Repr

/-- R151: the poll in flight: the POLL of an input from the due list, or the spot POLL of an address. -/
inductive PollFlight where
  | due (input : Nat) (mark : PollMark)
  | spot (address : Nat)
deriving DecidableEq, Repr

/-- R151: the outcome of a spot read; `none` is NO REPLY. -/
structure SpotResult where
  address : Nat
  reply : Option InputValue
deriving DecidableEq, Repr

/-- R151: a spot request, WAITING or IN FLIGHT. -/
structure SpotRequest where
  address : Nat
  inFlight : Bool
deriving DecidableEq, Repr

/-- The input line (R151), with the level of INRX (R150). -/
structure InputLine where
  state : LineState
  due : List Nat
  spotRequest : Option SpotRequest
  spotResult : Option SpotResult
  flight : Option PollFlight
  rxHigh : Bool
deriving DecidableEq, Repr

/-- The statuses of 10.2. -/
inductive Status where
  | ok
  | clamped
  | noRecord
  | existsAlready
  | inUse
  | full
  | badField
  | notNow
  | pending
  | badRequest
deriving DecidableEq, Repr

/-- R164: the response the port offers in the next transaction. -/
structure Response where
  status : Status
  echo : Byte
  body : List Byte
deriving DecidableEq, Repr

/-- The port's own state (R164, R167, R169). `attn` is true while ATTN is asserted (driven low). -/
structure Port where
  offered : Response
  coldStart : Bool
  floorChanged : Bool
  attn : Bool
deriving DecidableEq, Repr

/-- R1: the time base: tenths since the last minute boundary, and the two halves of a minute event that are still to be
taken, the composer's (R130) and the override list's (R111). -/
structure TimeBase where
  phase : Nat
  tallyDue : Bool
  holdsDue : Bool
deriving DecidableEq, Repr

/-- The state of the block. -/
structure State where
  /-- R2: the luminaire table. Key: address on line A, 64 + address on line B. -/
  lums : Tab Luminaire
  /-- R2: the segment table, by segment id. -/
  segs : Tab Segment
  /-- R2: the input table, by input address. -/
  inputs : Tab Input
  /-- R102: the override list. -/
  overrides : OverrideList
  /-- R121: the composer's floor-wide state. -/
  composer : Composer
  /-- R135: fixture line A. -/
  lineA : FixtureLine
  /-- R135: fixture line B. -/
  lineB : FixtureLine
  /-- R151: the input line. -/
  inputLine : InputLine
  /-- R164: the floor controller port. -/
  port : Port
  /-- R1: the time base. -/
  time : TimeBase
  /-- The MODEL's own field: how many free choices of order have been drawn (log 4). -/
  draws : Nat
  /-- The MODEL's own field: the commands that wait, first in first out (log 1). -/
  pending : List Instr
deriving DecidableEq, Repr

/-- R149: a fixture line after a cold reset, with its receive pin high (the line idles high; log 7). -/
def FixtureLine.reset : FixtureLine :=
  { state := .running, queue := [], confirm := [], slot := none, mark := none, flight := none, rxHigh := true }

/-- R163: the input line after a cold reset. -/
def InputLine.reset : InputLine :=
  { state := .running, due := [], spotRequest := none, spotResult := none, flight := none, rxHigh := true }

/-- R133: the composer after a cold reset, the SHED pin standing low or high. -/
def Composer.reset (shedLow : Bool) : Composer :=
  { shedAsserted := shedLow, shedPinLow := shedLow, floorCap := 1000, floorCapOn := false,
    snapshot := List.replicate 32 0, snapshotNumber := 0 }

/-- R171: the port after a cold reset. -/
def Port.reset : Port :=
  { offered := { status := .ok, echo := 0#8, body := [] }, coldStart := true, floorChanged := true, attn := true }

/-- The block after a cold reset (R23, R120, R133, R149, R163, R171), with the SHED pin high and every receive pin high
(DESIGN CHOICE, logs 3 and 7). -/
def State.reset : State :=
  { lums := [], segs := [], inputs := [],
    overrides := { records := [], counter := 1, changed := false },
    composer := Composer.reset false,
    lineA := FixtureLine.reset, lineB := FixtureLine.reset, inputLine := InputLine.reset,
    port := Port.reset,
    time := { phase := 0, tallyDue := false, holdsDue := false },
    draws := 0, pending := [] }

end Sys2Proof.Machine
end

