-- ==== Sys2Proof/Machine/Ops.lean ====
section
/-! DEFINITION. The named operations over the state: the tables, the timers, the records and their views, and the
free orders. -/

namespace Sys2Proof.Machine

/-! ## Tables (R2) -/

/-- The record at a key, if its place is filled. -/
def tabGet {α : Type} : Tab α → Nat → Option α
  | [], _ => none
  | (k, v) :: t, i => if i = k then some v else tabGet t i

/-- The table with a record put at a key: the place is filled, or its record replaced. -/
def tabPut {α : Type} : Tab α → Nat → α → Tab α
  | [], i, v => [(i, v)]
  | (k, w) :: t, i, v =>
    if i < k then (i, v) :: (k, w) :: t
    else if i = k then (i, v) :: t
    else (k, w) :: tabPut t i v

/-- The table with the place of a key emptied. -/
def tabDel {α : Type} (t : Tab α) (i : Nat) : Tab α := t.filter fun e => e.1 != i

/-- Every record changed in place; the keys stay. -/
def tabMap {α : Type} (t : Tab α) (f : α → α) : Tab α := t.map fun e => (e.1, f e.2)

/-- The canonical form of a table: keys strictly rising, every key below the number of places (R2). -/
abbrev tabWf {α : Type} (places : Nat) (t : Tab α) : Prop :=
  t.Pairwise (fun a b => a.1 < b.1) ∧ ∀ e ∈ t, e.1 < places

/-! ## Timers (R1) -/

/-- A timer loaded with a period in tenths. -/
def startTimer (tenths : Nat) : Timer := some tenths

/-- A countdown one tenth on. A timer that is not running, or whose expiry is due, stays as it is. -/
def tickTimer (t : Timer) : Timer := t.map (· - 1)

/-- The expiry of the timer is due: it runs and no tenth is left (R1; log 2). -/
def timerDue (t : Timer) : Bool := t == some 0

/-! ## The records -/

/-- The segment table with the record of a segment put. -/
def putSeg (i : Nat) (g : Segment) (s : State) : State := { s with segs := tabPut s.segs i g }

/-- The luminaire table with the record of a luminaire put. -/
def putLum (k : Nat) (l : Luminaire) (s : State) : State := { s with lums := tabPut s.lums k l }

/-- The input table with the record of an input put. -/
def putInput (a : Nat) (n : Input) (s : State) : State := { s with inputs := tabPut s.inputs a n }

/-- The state with its override list replaced. -/
def putOverrides (o : OverrideList) (s : State) : State := { s with overrides := o }

/-- The state with its input line replaced. -/
def putInputLine (l : InputLine) (s : State) : State := { s with inputLine := l }

/-- A fixture line of the state. -/
def lineOf (i : LineId) (s : State) : FixtureLine :=
  match i with
  | .a => s.lineA
  | .b => s.lineB

/-- The state with one fixture line replaced. -/
def putLine (i : LineId) (l : FixtureLine) (s : State) : State :=
  match i with
  | .a => { s with lineA := l }
  | .b => { s with lineB := l }

/-- The record of a segment. -/
def seg? (s : State) (i : Nat) : Option Segment := tabGet s.segs i

/-- The record of a luminaire. -/
def lum? (s : State) (k : Nat) : Option Luminaire := tabGet s.lums k

/-- The record of an input. -/
def input? (s : State) (a : Nat) : Option Input := tabGet s.inputs a

/-- An operation on the record of a segment; nothing where no segment is defined at the id. -/
def onSeg (i : Nat) (f : Segment → State → State) (s : State) : State :=
  match seg? s i with
  | some g => f g s
  | none => s

/-- An operation on the record of a luminaire; nothing where none is enrolled at the key. -/
def onLum (k : Nat) (f : Luminaire → State → State) (s : State) : State :=
  match lum? s k with
  | some l => f l s
  | none => s

/-- An operation on the record of an input; nothing where none is enrolled at the address. -/
def onInput (a : Nat) (f : Input → State → State) (s : State) : State :=
  match input? s a with
  | some n => f n s
  | none => s

/-- An operation applied for each key of a list, in its order. -/
def forEach (ks : List Nat) (f : Nat → State → State) (s : State) : State := ks.foldl (fun t k => f k t) s

/-! ## Luminaire keys (R2, R172) -/

/-- The key of a luminaire of a line. -/
def lumKey (i : LineId) (address : Nat) : Nat :=
  match i with
  | .a => address
  | .b => 64 + address

/-- The line of a luminaire key. -/
def keyLine (k : Nat) : LineId := if k < 64 then .a else .b

/-- The address of a luminaire key on its line. -/
def keyAddress (k : Nat) : Nat := k % 64

/-- R172: the key that a key byte names: bit 7 the line, bit 6 reserved, bits 5 to 0 the address. -/
def keyOfByte (b : Nat) : Nat := (b / 128) * 64 + b % 64

/-- R172: the key byte of a luminaire key. -/
def byteOfKey (k : Nat) : Byte := byte ((k / 64) * 128 + k % 64)

/-- The keys of the luminaires enrolled on a line, in ascending address (R2). -/
def enrolledOn (i : LineId) (s : State) : List Nat := (s.lums.map (·.1)).filter fun k => keyLine k == i

/-! ## Views of segments and sensors -/

/-- The ids of the segments, ascending (R2). -/
def segIds (s : State) : List Nat := s.segs.map (·.1)

/-- R25: F, the accumulator divided by 256 rounded down. -/
def filtered (m : Measurement) : Nat := m.acc / 256

/-- The configuration and the measurement record of a PHOTO input. -/
def photoOf (s : State) (a : Nat) : Option (PhotoConfig × Measurement) :=
  match input? s a with
  | some n =>
    match n.device with
    | .photo c m => some (c, m)
    | _ => none
  | none => none

/-- R51: the sensor is named and its measurement state is SETTLED. -/
def settledSensor (s : State) (r : Option Nat) : Option Nat :=
  match r with
  | some a =>
    match photoOf s a with
    | some (_, m) => if m.state = .settled then some a else none
    | none => none
  | none => none

/-- R51: the active sensor of a segment: its primary if SETTLED, otherwise its secondary if SETTLED. -/
def activeSensor (s : State) (g : Segment) : Option Nat :=
  (settledSensor s g.cfg.primary).orElse fun _ => settledSensor s g.cfg.secondary

/-- R42: the task estimate, F × K / 1024 rounded down, saturating at 65535. -/
def taskEstimate (c : PhotoConfig) (m : Measurement) : Nat := min (filtered m * c.ratio / 1024) 65535

/-- R51, R42: the estimate of a segment's active sensor, if it has one. -/
def estimate (s : State) (g : Segment) : Option Nat :=
  match activeSensor s g with
  | some a => (photoOf s a).map fun p => taskEstimate p.1 p.2
  | none => none

/-- R89: at least one enrolled PRESENCE input that covers the segment is REPORTING. -/
def watched (s : State) (i : Nat) : Bool :=
  s.inputs.any fun e =>
    match e.2.device with
    | .presence coverage _ => coverage.contains i && e.2.link == .reporting
    | _ => false

/-- The override records whose scope names a segment, in list order. -/
def recordsOf (s : State) (i : Nat) : List Override := s.overrides.records.filter fun o => o.scope.segment == i

/-- R103: the governing override of a position of a segment. -/
def governing (s : State) (i p : Nat) : Option Override :=
  s.overrides.records.find? fun o => o.scope.segment == i && decide (o.scope.first ≤ p) && decide (p ≤ o.scope.last)

/-- R11: the key of the luminaire assigned to a position of a segment. -/
def memberAt (s : State) (i p : Nat) : Option Nat :=
  (s.lums.find? fun e => e.2.place == some ⟨i, p⟩).map (·.1)

/-- R11: the member list of a segment, in ascending order of position. -/
def members (s : State) (i : Nat) : List Nat := (List.range 16).filterMap (memberAt s i)

/-! ## Free orders (log 4) -/

/-- A key put into a list before the first key that draw `n` does not take before it. -/
def insertFree (n x : Nat) : List Nat → List Nat
  | [] => [x]
  | y :: ys => if Config.before n x y then x :: y :: ys else y :: insertFree n x ys

/-- The keys of a list in the order that draw `n` gives. -/
def freeOrder (n : Nat) : List Nat → List Nat
  | [] => []
  | x :: xs => insertFree n x (freeOrder n xs)

/-- What is done with the keys of a list, given in an order the manual leaves free. A list of at most one key has one
order and draws nothing. -/
def inFreeOrder (ks : List Nat) (f : List Nat → State → State) (s : State) : State :=
  if ks.length ≤ 1 then f ks s else f (freeOrder s.draws ks) { s with draws := s.draws + 1 }

/-- An operation applied for each key of a list, in an order the manual leaves free. -/
def forEachFree (ks : List Nat) (f : Nat → State → State) (s : State) : State :=
  inFreeOrder ks (fun order => forEach order f) s

/-- Two operations of one event in an order the manual leaves free. -/
def inEitherOrder (f g : State → State) (s : State) : State :=
  let t := { s with draws := s.draws + 1 }
  if Config.firstFirst s.draws then g (f t) else f (g t)

end Sys2Proof.Machine
end

