-- ==== Sys2Proof/Machine/Flags.lean ====
section
/-! DEFINITION. The change flags and ATTN (R167, R169), and how every command ends: the answer of a request, the
output ATTN, the next state. -/

namespace Sys2Proof.Machine

/-- R167: the floor change flag set. -/
def flagFloor (s : State) : State := { s with port := { s.port with floorChanged := true } }

/-- R167: at least one change flag is set. -/
def anyChange (s : State) : Bool :=
  s.port.floorChanged || s.overrides.changed || s.lums.any (·.2.changed) || s.segs.any (·.2.changed)
    || s.inputs.any (·.2.changed)

/-- R169: ATTN is asserted exactly when a change flag or the cold start flag is set. -/
def attnLevel (s : State) : Bool := anyChange s || s.port.coldStart

/-- R169: the state with ATTN following the flags. -/
def withAttn (s : State) : State := { s with port := { s.port with attn := attnLevel s } }

/-- The end of every event: ATTN follows the flags (R169). -/
def done (s : State) : Host.Outcome State Fault Refusal := .next (withAttn s)

/-- R164: the offered response replaced by the answer to a request. -/
def answer (st : Status) (code : Nat) (body : List Byte) (s : State) : State :=
  { s with port := { s.port with offered := { status := st, echo := byte code, body := body } } }

/-- R166: a request that is not taken: its status, an empty body, and nothing else. -/
def deny (st : Status) (code : Nat) (s : State) : Host.Outcome State Fault Refusal := done (answer st code [] s)

/-- OK, or CLAMPED if a value was clamped or adjusted (R3). -/
def okOr (clamped : Bool) : Status := if clamped then .clamped else .ok

end Sys2Proof.Machine
end

