-- ==== Sys2Proof/Machine/FixtureOps.lean ====
section
/-! DEFINITION. The operations of a fixture line: its level queue, confirm list, scan slot and arbiter (8.2 to 8.4). -/

namespace Sys2Proof.Machine

/-- R136: an entry joins the level queue; an entry the luminaire has keeps its place and takes the code. -/
def coalesce (q : List QueueEntry) (k code : Nat) : List QueueEntry :=
  if q.any (·.key == k) then q.map fun e => if e.key == k then { e with code := code } else e
  else q ++ [⟨k, code⟩]

/-- R136: a hand-over, resend or refresh reaches the line of a luminaire; a line that is DOWN adds no entry. -/
def enqueue (k code : Nat) (s : State) : State :=
  let l := lineOf (keyLine k) s
  if l.state = .running then putLine (keyLine k) { l with queue := coalesce l.queue k code } s else s

/-- R140: what the arbiter makes of a line: if it is RUNNING, idle and its receive pin high, the head of the level queue,
else the head of the confirm list, else the scan slot, begins its frame. -/
def chooseFrame (l : FixtureLine) : FixtureLine :=
  if l.state = .running ∧ l.flight = none ∧ l.rxHigh = true then
    match l.queue, l.confirm, l.slot with
    | e :: q, _, _ => { l with queue := q, flight := some ⟨.level e.code, e.key, false⟩ }
    | [], k :: c, _ => { l with confirm := c, flight := some ⟨.confirmQuery, k, false⟩ }
    | [], [], some k => { l with slot := none, flight := some ⟨.scanQuery, k, false⟩ }
    | [], [], none => l
  else l

/-- R140: the arbiter of a line chooses. -/
def arbitrate (i : LineId) (s : State) : State := putLine i (chooseFrame (lineOf i s)) s

/-- R128, R137: the composer hands a luminaire over with its new code: UNCONFIRMED and the mismatch count are cleared
whatever the line state, the entry joins the queue, and the arbiter chooses. -/
def handOver (k code : Nat) (s : State) : State :=
  arbitrate (keyLine k) (enqueue k code
    (onLum k (fun l => putLum k { l with unconfirmed := false, mismatchCount := 0 }) s))

/-- R138: a luminaire joins the confirm list at the tail, unless it is in the list. -/
def joinConfirm (i : LineId) (k : Nat) (s : State) : State :=
  let l := lineOf i s
  if l.confirm.contains k then s else putLine i { l with confirm := l.confirm ++ [k] } s

/-- R138: a luminaire leaves the confirm list. -/
def leaveConfirm (i : LineId) (k : Nat) (s : State) : State :=
  let l := lineOf i s
  putLine i { l with confirm := l.confirm.filter (· != k) } s

/-- R9: any level-queue entry of a luminaire is removed. -/
def dropEntry (k : Nat) (s : State) : State :=
  let l := lineOf (keyLine k) s
  putLine (keyLine k) { l with queue := l.queue.filter (·.key != k) } s

/-- The frame in flight has ended. -/
def clearFlight (i : LineId) (s : State) : State := putLine i { lineOf i s with flight := none } s

/-- R10, R146: a luminaire retired: its level-queue and confirm-list entries are removed, a scan slot naming it is
emptied, and a frame in flight that names it acts on no record at its end. -/
def forgetLum (k : Nat) (s : State) : State :=
  let l := lineOf (keyLine k) s
  putLine (keyLine k)
    { l with
      queue := l.queue.filter (·.key != k)
      confirm := l.confirm.filter (· != k)
      slot := if l.slot = some k then none else l.slot
      flight := l.flight.map fun f => if f.key = k then { f with retired := true } else f } s

/-- R148: the full refresh: every luminaire enrolled on the line and assigned joins the level queue with its composed
code as it stands, in ascending address order; then the arbiter chooses. -/
def fullRefresh (i : LineId) (s : State) : State :=
  arbitrate i (forEach (enrolledOn i s) (fun k => onLum k fun l =>
    match l.place, l.composed with
    | some _, some c => enqueue k c.code
    | _, _ => id) s)

/-- R139: the luminaire that fills an empty scan slot: the lowest address above the mark, else the lowest. -/
def nextScan (i : LineId) (s : State) : Option Nat :=
  let ks := enrolledOn i s
  match (lineOf i s).mark with
  | none => ks.head?
  | some m => (ks.find? fun k => decide (m < keyAddress k)).orElse fun _ => ks.head?

/-- R139: at this tenth the line's scan slot is filled: the line is RUNNING, its slot empty, a luminaire enrolled. -/
def scanFills (i : LineId) (s : State) : Bool :=
  (lineOf i s).state == .running && (lineOf i s).slot == none && (nextScan i s).isSome

/-- R139: a tenth at a line: an empty scan slot is filled and the mark moved, and the arbiter chooses. -/
def fillScanSlot (i : LineId) (s : State) : State :=
  if scanFills i s then
    match nextScan i s with
    | some k => arbitrate i (putLine i { lineOf i s with slot := some k, mark := some (keyAddress k) } s)
    | none => s
  else s

end Sys2Proof.Machine
end

