-- ==== Sys2Proof/Machine/FixtureLines.lean ====
section
/-! DEFINITION. The events of the fixture lines (chapter 8). A command that names an event which the state says cannot
occur (the end of a frame that is not in flight, a break with the pin high) is no event: nothing changes (logs 2, 6
and 7). -/

namespace Sys2Proof.Machine

/-- R141: the end of a LEVEL frame at its luminaire, if the record that it names is still enrolled (R146). -/
def levelEnded (i : LineId) (code k : Nat) (retired : Bool) (s : State) : State :=
  if retired then s
  else
    onLum k (fun l t =>
      let u := putLum k { l with sentCode := some code, confirmation := .awaiting } t
      if l.link = .silent then u else joinConfirm i k u) s

/-- R141: LEVEL_FRAME_END. -/
def execLevelFrameEnd (i : LineId) (s : State) : Host.Outcome State Fault Refusal :=
  match (lineOf i s).flight with
  | some ⟨.level code, k, retired⟩ => done (arbitrate i (levelEnded i code k retired (clearFlight i s)))
  | _ => done s

/-- R143: the confirmation settled by an echo, and whether the composed code is to be resent. -/
def settleConfirmation (echo : Nat) (l : Luminaire) : Luminaire × Bool :=
  let tries := l.place.isSome && !l.unconfirmed
  match l.confirmation with
  | .awaiting =>
    if l.sentCode = some echo then ({ l with confirmation := .confirmed, mismatchCount := 0 }, false)
    else if tries then
      if l.mismatchCount + 1 < 3 then ({ l with mismatchCount := l.mismatchCount + 1 }, true)
      else
        ({ l with mismatchCount := l.mismatchCount + 1, unconfirmed := true, confirmation := .confirmed }, false)
    else ({ l with confirmation := .confirmed }, false)
  | .confirmed => (l, tries && l.sentCode != some echo)

/-- R142: the link state, miss count, fault indications and reported code that a valid reply leaves. -/
def heardFrom (d : DriverReply) (l : Luminaire) : Luminaire :=
  { l with
    link := .responding, missCount := 0, lampFailed := d.lampFailed, hot := d.hot, reportedCode := some d.echo }

/-- R145: the change flag of a luminaire whose record a reply or a miss has taken from `old` to `new`. -/
def flagLumChange (old new : Luminaire) : Luminaire :=
  { new with
    changed := old.changed || old.link != new.link || old.lampFailed != new.lampFailed || old.hot != new.hot
      || old.unconfirmed != new.unconfirmed }

/-- R142, R143: a valid reply of a luminaire that is still enrolled. -/
def replied (i : LineId) (k : Nat) (d : DriverReply) (s : State) : State :=
  onLum k (fun l t =>
    let r := settleConfirmation d.echo (heardFrom d l)
    let u := putLum k (flagLumChange l r.1) t
    let v := if r.1.confirmation = .confirmed then leaveConfirm i k u else u
    match r.2, l.composed with
    | true, some c => enqueue k c.code v
    | _, _ => v) s

/-- R142: DRIVER_REPLY: a valid reply to the QUERY in flight. Bytes that make no valid reply are ignored: the QUERY ends by
QUERY_NO_REPLY (R134, R175). The reply to a QUERY whose record was retired is discarded (R146). -/
def execDriverReply (i : LineId) (bytes : List LineByte) (s : State) : Host.Outcome State Fault Refusal :=
  match (lineOf i s).flight with
  | some ⟨.level _, _, _⟩ => done s
  | some ⟨_, k, retired⟩ =>
    match decodeDriverReply (keyAddress k) bytes with
    | some d =>
      let t := clearFlight i s
      done (arbitrate i (if retired then t else replied i k d t))
    | none => done s
  | none => done s

/-- R144: the record of a luminaire whose QUERY drew no reply. -/
def unanswered (l : Luminaire) : Luminaire :=
  let misses := min (l.missCount + 1) 3
  flagLumChange l { l with missCount := misses, link := if misses = 3 then .silent else l.link }

/-- R144: a QUERY without reply at its luminaire: an AWAITING luminaire whose QUERY came from the confirm list rejoins it,
unless it is SILENT. -/
def queryMissed (i : LineId) (kind : FrameKind) (k : Nat) (s : State) : State :=
  onLum k (fun l t =>
    let m := unanswered l
    let u := putLum k m t
    if kind = .confirmQuery ∧ m.confirmation = .awaiting ∧ m.link ≠ .silent then joinConfirm i k u else u) s

/-- R144: QUERY_NO_REPLY. -/
def execQueryNoReply (i : LineId) (s : State) : Host.Outcome State Fault Refusal :=
  match (lineOf i s).flight with
  | some ⟨.level _, _, _⟩ => done s
  | some ⟨kind, k, retired⟩ =>
    let t := clearFlight i s
    done (arbitrate i (if retired then t else queryMissed i kind k t))
  | none => done s

/-- R147: a luminaire of a line that goes DOWN. -/
def lumDown (l : Luminaire) : Luminaire := { l with link := .unknown, sentCode := none, missCount := 0 }

/-- R147: a line goes DOWN. -/
def goDown (i : LineId) (s : State) : State :=
  flagFloor
    (putLine i { lineOf i s with state := .down, queue := [], confirm := [], slot := none, flight := none }
      (forEach (enrolledOn i s) (fun k => onLum k fun l => putLum k (lumDown l)) s))

/-- R147: FIXTURE_LINE_DOWN: the pin has been low for 50 ms on a RUNNING line. On a DOWN line nothing changes (R148). -/
def execFixtureLineDown (i : LineId) (s : State) : Host.Outcome State Fault Refusal :=
  if (lineOf i s).state = .running ∧ (lineOf i s).rxHigh = false then done (goDown i s) else done s

/-- R148: FIXTURE_LINE_RECOVERY: the pin has been high for 500 ms on a DOWN line; the full refresh. -/
def execFixtureLineRecovery (i : LineId) (s : State) : Host.Outcome State Fault Refusal :=
  if (lineOf i s).state = .down ∧ (lineOf i s).rxHigh = true then
    done (fullRefresh i (flagFloor (putLine i { lineOf i s with state := .running } s)))
  else done s

/-- R134, R140: FIXTURE_RX_RETURNS_HIGH: the arbiter chooses. -/
def execFixtureRxReturnsHigh (i : LineId) (s : State) : Host.Outcome State Fault Refusal :=
  if (lineOf i s).rxHigh then done s else done (arbitrate i (putLine i { lineOf i s with rxHigh := true } s))

/-- R134, R148: FIXTURE_RX_FALLS_LOW: the arbiter begins no frame, and the break count or the recovery count starts anew
(log 7). -/
def execFixtureRxFallsLow (i : LineId) (s : State) : Host.Outcome State Fault Refusal :=
  done (putLine i { lineOf i s with rxHigh := false } s)

end Sys2Proof.Machine
end

