-- ==== Sys2Proof/Machine/Formats.lean ====
section
/-! DEFINITION. The layouts of chapter 11: the records as answered (R173), the response frame (R172), the frames that the
lines send (R176). -/

namespace Sys2Proof.Machine

/-! ## The port -/

/-- R172: the status codes. -/
def Status.code : Status → Nat
  | .ok => 0x00
  | .clamped => 0x01
  | .noRecord => 0x02
  | .existsAlready => 0x03
  | .inUse => 0x04
  | .full => 0x05
  | .badField => 0x06
  | .notNow => 0x07
  | .pending => 0x08
  | .badRequest => 0x09

/-- R172: the bytes of an offered response: status, request code echo, body length, body. -/
def Response.frame (r : Response) : List Byte := byte r.status.code :: r.echo :: byte r.body.length :: r.body

/-- R164: the first `n` bytes that the part shifts out: the offered response, then zero bytes. -/
def Response.shiftedOut (r : Response) (n : Nat) : List Byte := (r.frame ++ List.replicate n 0#8).take n

/-! ## Records as answered (R173) -/

/-- The code of a link state of a luminaire. -/
def LumLink.code : LumLink → Nat
  | .unknown => 0
  | .responding => 1
  | .silent => 2

/-- The luminaire block: segment, position, trim, minimum, maximum. -/
def lumBlock (l : Luminaire) : List Byte :=
  [refByte (l.place.map (·.segment)), refByte (l.place.map (·.position)), byte l.trim] ++ bytes2 l.minLevel
    ++ bytes2 l.maxLevel

/-- The luminaire record as answered, 16 bytes. -/
def lumRecord (k : Nat) (l : Luminaire) : List Byte :=
  [byteOfKey k] ++ lumBlock l ++ bytes2 ((l.composed.map (·.level)).getD 0xFFFF)
    ++ [byte ((l.composed.map (·.code)).getD 0xFF), byte (l.sentCode.getD 0xFF)]
    ++ bytes2 (l.reportedCode.getD 0xFFFF)
    ++ [byte (l.link.code + bitAt 2 (l.confirmation == .awaiting) + bitAt 3 l.lampFailed + bitAt 4 l.hot
          + bitAt 5 l.unconfirmed + bitAt 7 l.changed),
        byte (l.missCount + 16 * l.mismatchCount)]

/-- The code of a mode. -/
def Mode.code : Mode → Nat
  | .manual => 0
  | .harvest => 1

/-- The code of a controller state. -/
def Ctl.code : Ctl → Nat
  | .forced => 0
  | .tracking => 1
  | .dwell => 2
  | .daylit => 3
  | .strike => 4

/-- The code of an activity state. -/
def Activity.code : Activity → Nat
  | .occupied => 0
  | .setback => 1
  | .vacant => 2

/-- The segment block: the fields of R12 in the order of its table, 35 bytes. -/
def segBlock (c : SegConfig) : List Byte :=
  [byte c.row, refByte c.outer, refByte c.primary, refByte c.secondary, byte c.mode.code] ++ bytes2 c.manualLevel
    ++ bytes2 c.target ++ [byte c.tolerance] ++ bytes2 c.relightMargin
    ++ [byte c.upStep, byte c.downStep, byte c.upInterval, byte c.downInterval] ++ bytes2 c.cutOff ++ bytes2 c.offDelay
    ++ bytes2 c.strikeLevel ++ bytes2 c.fallback ++ bytes2 c.sensorless ++ [byte c.shortfallTime] ++ bytes2 c.cap
    ++ [byte c.sensing.toNat, byte c.occupancyHold, byte c.setbackTime] ++ bytes2 c.setbackLevel
    ++ [byte c.stationOff.toNat]

/-- The segment record as answered, 46 bytes. -/
def segRecord (i : Nat) (g : Segment) : List Byte :=
  [byte i] ++ segBlock g.cfg
    ++ [byte (g.ctl.code + 16 * g.activity.code),
        byte (bitAt 0 g.held + bitAt 1 g.blind + bitAt 2 g.shortfall + bitAt 3 g.changed)]
    ++ bytes2 g.h ++ bytes2 g.effCap ++ bytes4 g.tally

/-- The code of a measurement state. -/
def MeasState.code : MeasState → Nat
  | .unseeded => 0
  | .settling => 1
  | .settled => 2
  | .quarantined => 3

/-- The code of a last report. -/
def reportCode : Option Report → Nat
  | none => 0
  | some .quiet => 1
  | some .motion => 2

/-- The code of an input's link state. -/
def InputLink.code : InputLink → Nat
  | .absent => 0
  | .reporting => 1
  | .wrongKind => 2

/-- The first byte of an input block: the kind. -/
def deviceCode : Device → Nat
  | .photo _ _ => InputKind.photo.code
  | .presence _ _ => InputKind.presence.code
  | .station _ _ _ _ => InputKind.station.code

/-- The seven kind bytes of an input block. -/
def deviceBlock : Device → List Byte
  | .photo c _ => [byte c.shift] ++ bytes2 c.tolerance ++ bytes2 c.spike ++ bytes2 c.ratio
  | .presence coverage _ =>
    [byte coverage.length] ++ ((coverage.map byte ++ List.replicate 4 0#8).take 4) ++ [0#8, 0#8]
  | .station scope hold _ _ => [byte scope.segment, byte scope.first, byte scope.last] ++ bytes2 hold ++ [0#8, 0#8]

/-- The five runtime kind bytes of an input record. F0 reads zero where it is absent. -/
def deviceRuntime : Device → List Byte
  | .photo _ m => [byte m.state.code] ++ bytes2 (filtered m) ++ bytes2 (m.f0.getD 0)
  | .presence _ last => [byte (reportCode last), 0#8, 0#8, 0#8, 0#8]
  | .station _ _ lastButton _ => [byte ((lastButton.map (·.code)).getD 0), 0#8, 0#8, 0#8, 0#8]

/-- The input record as answered, 18 bytes. -/
def inputRecord (a : Nat) (n : Input) : List Byte :=
  [byte a, byte (deviceCode n.device), byte n.interval, byte n.missLimit] ++ deviceBlock n.device
    ++ [byte (n.link.code + bitAt 7 n.changed), byte n.missCount] ++ deviceRuntime n.device

/-- The origin byte of an override record. -/
def originByte : Origin → Byte
  | .floor => byte 0xFF
  | .station a => byte a

/-- The class byte of an override record. -/
def OvClass.code : OvClass → Nat
  | .facility => 0
  | .occupant => 1

/-- The action byte and the value of an override record. -/
def actionBytes : OvAction → List Byte
  | .set v => byte 1 :: bytes2 v
  | .nudge d => byte 2 :: signedBytes2 d
  | .off => byte 3 :: bytes2 0

/-- The override record as answered, 12 bytes. -/
def overrideBytes (o : Override) : List Byte :=
  bytes2 o.handle
    ++ [originByte o.origin, byte o.cls.code, byte o.scope.segment, byte o.scope.first, byte o.scope.last]
    ++ actionBytes o.action ++ bytes2 (o.hold.getD 0xFFFF)

/-- R173: the answer to FETCH SPOT: the address, the reply's kind or 0xFF for NO REPLY, and its value as in R176. -/
def spotBytes (r : SpotResult) : List Byte :=
  byte r.address ::
    match r.reply with
    | none => [byte 0xFF, 0#8, 0#8]
    | some (.photo x) => byte 1 :: bytes2 x
    | some (.presence m) => [byte 2, byte m.toNat, 0#8]
    | some (.station q b) => [byte 3, byte q, b]

/-! ## Frames sent on the lines (R176) -/

/-- R176: the bytes of a LEVEL or QUERY frame. -/
def FixtureFlight.bytes (f : FixtureFlight) : List Byte :=
  match f.kind with
  | .level code => [byte (64 + keyAddress f.key), byte code]
  | _ => [byte (128 + keyAddress f.key)]

/-- R176: the byte of a POLL frame. -/
def PollFlight.bytes : PollFlight → List Byte
  | .due a _ => [byte (128 + a)]
  | .spot a => [byte (128 + a)]

/-- R174, R176: a LEVEL or QUERY frame as the part sends it, each byte framed. -/
def FixtureFlight.frame (f : FixtureFlight) : List LineByte := f.bytes.map LineByte.sent

/-- R174, R176: a POLL frame as the part sends it, its byte framed. -/
def PollFlight.frame (f : PollFlight) : List LineByte := f.bytes.map LineByte.sent

/-- R174: the level of a line `n` bit times after a frame began on it: the levels of its bytes, and idle after them. DESIGN
CHOICE (log 27): the bytes of a frame follow each other with no idle time between them; the manual leaves its length open. -/
def levelAt (frame : List LineByte) (n : Nat) : Bool := ((frame.flatMap LineByte.bits)[n]?).getD lineIdle

/-- R174: the level that FATX or FBTX drives `n` bit times after the frame in flight began; idle where none is in flight.
The part does not receive what it sends: the receive pin stays high meanwhile. -/
def fixtureTx (i : LineId) (s : State) (n : Nat) : Bool :=
  levelAt (((lineOf i s).flight.map FixtureFlight.frame).getD []) n

/-- R174: the level that INTX drives `n` bit times after the poll in flight began; idle where none is in flight. -/
def inputTx (s : State) (n : Nat) : Bool := levelAt ((s.inputLine.flight.map PollFlight.frame).getD []) n

end Sys2Proof.Machine
end

