-- ==== Sys2Proof/Machine/Composer.lean ====
section
/-! DEFINITION. The composer: the effective cap (7.2), the seven stages (7.5), recomposition and hand-over (7.6, 7.7). -/

namespace Sys2Proof.Machine

/-- R122: the effective cap of a segment with segment cap `cap`. -/
def effectiveCap (c : Composer) (cap : Nat) : Nat :=
  min (min 1000 cap)
    (min (if c.floorCapOn then c.floorCap else 1000) (if c.shedAsserted then Config.contactCap else 1000))

/-- R125 stage 1: the manual level in MANUAL mode, H in HARVEST mode. -/
def baseLevel (g : Segment) : Nat :=
  match g.cfg.mode with
  | .manual => g.cfg.manualLevel
  | .harvest => g.h

/-- R125 stage 2: the base limited by the activity state. -/
def activityLevel (g : Segment) : Nat :=
  match g.activity with
  | .occupied => baseLevel g
  | .setback => min (baseLevel g) g.cfg.setbackLevel
  | .vacant => 0

/-- R125 stage 3: the governing override's action on the value of stage 2. -/
def overrideLevel (v : Nat) : Option OvAction → Nat
  | none => v
  | some (.set x) => x
  | some .off => 0
  | some (.nudge d) => (max 0 (min 1000 ((v : Int) + d))).toNat

/-- R126 stage 4: trim, rounded to nearest with halves up, limited to 1000. -/
def trimLevel (trim v : Nat) : Nat := if v = 0 then 0 else min 1000 (divNearest (v * trim) 100)

/-- R126 stage 6: minimum and maximum, under the effective cap. -/
def limitLevel (lo hi cap v : Nat) : Nat :=
  if v = 0 then 0
  else if v < lo then (if lo ≤ cap then lo else 0)
  else if hi < v then hi
  else v

/-- R126 stage 7: the code of a level, level × 254 / 1000 rounded up. -/
def codeOf (level : Nat) : Nat := divUp (level * 254) 1000

/-- R126: the composed level and code of a luminaire from its requested value, stages 4 to 7. -/
def composeFrom (l : Luminaire) (cap requested : Nat) : Composed :=
  let level := limitLevel l.minLevel l.maxLevel cap (min (trimLevel l.trim requested) cap)
  ⟨level, codeOf level⟩

/-- R125: the requested value of the member at a position of a segment. -/
def requestedLevel (s : State) (g : Segment) (p : Place) : Nat :=
  overrideLevel (activityLevel g) ((governing s p.segment p.position).map (·.action))

/-- R127, R128: one luminaire recomposed. It is handed over when its code differs from the code it had, or it had none
(its assignment). An unassigned luminaire takes no part (R129). -/
def recomposeLum (k : Nat) (s : State) : State :=
  onLum k (fun l t =>
    match l.place with
    | none => t
    | some p =>
      onSeg p.segment (fun g u =>
        let c := composeFrom l g.effCap (requestedLevel u g p)
        let v := putLum k { l with composed := some c } u
        if l.composed.map (·.code) = some c.code then v else handOver k c.code v) t) s

/-- R127: a segment recomposed: every member, in ascending order of position. -/
def recomposeSeg (i : Nat) (s : State) : State := forEach (members s i) recomposeLum s

/-- R127: the inputs of composition that a segment record and the override list give stand in `t` as in `s`. -/
def sameInputs (s t : State) (i : Nat) : Bool :=
  match seg? s i, seg? t i with
  | _, none => true
  | none, some _ => false
  | some g, some h =>
    g.cfg.mode == h.cfg.mode && g.cfg.manualLevel == h.cfg.manualLevel && g.cfg.setbackLevel == h.cfg.setbackLevel
      && g.h == h.h && g.activity == h.activity && g.effCap == h.effCap
      && (recordsOf s i).map (fun o => (o.scope, o.action)) == (recordsOf t i).map (fun o => (o.scope, o.action))

/-- R127: the end of an event that took the records from `s` to `t`: each segment whose inputs of composition changed is
recomposed once, from the values that stand when the event is complete (log 8), the segments in a free order (log 4). -/
def settle (s t : State) : State := forEachFree ((segIds t).filter fun i => !sameInputs s t i) recomposeSeg t

/-- One event at the records: what it changes, and then the recompositions it causes. -/
def event (f : State → State) (s : State) : State := settle s (f s)

end Sys2Proof.Machine
end

