-- ==== Sys2Proof/Machine/HarvestOps.lean ====
section
/-! DEFINITION. The operations of the harvest controllers (chapter 3) and of the depth ordering between them (chapter 4). -/

namespace Sys2Proof.Machine

/-! ## Bands, intervals and the depth link -/

/-- R53: the shorter of the up interval and the down interval. -/
def shorterInterval (c : SegConfig) : Nat := min c.upInterval c.downInterval

/-- The off-delay in tenths (R49). -/
def offDelayTenths (c : SegConfig) : Nat := c.offDelay * Config.secondTenths

/-- The sensorless timeout in tenths (R49). -/
def sensorlessTenths (c : SegConfig) : Nat := c.sensorless * Config.secondTenths

/-- The shortfall time in tenths (R49). -/
def shortfallTenths (c : SegConfig) : Nat := c.shortfallTime * Config.minuteTenths

/-- R52: E is below band. -/
def belowBand (c : SegConfig) (e : Nat) : Bool := e + c.tolerance < c.target

/-- R52: E is above band. -/
def aboveBand (c : SegConfig) (e : Nat) : Bool := c.target + c.tolerance < e

/-- R52: the relight threshold, T − B − R when that is 1 or more, and 1 otherwise. -/
def relightThreshold (c : SegConfig) : Nat := max 1 (c.target - c.tolerance - c.relightMargin)

/-- R79: the outer segment of an active depth link: the segment and the one it names are both in HARVEST mode. -/
def activeOuter (s : State) (g : Segment) : Option Segment :=
  if g.cfg.mode = .harvest then
    match g.cfg.outer with
    | some o =>
      match seg? s o with
      | some u => if u.cfg.mode = .harvest then some u else none
      | none => none
    | none => none
  else none

/-- R80: the depth floor. -/
def depthFloor (s : State) (g : Segment) : Nat :=
  match activeOuter s g with
  | some u => min u.h g.effCap
  | none => 0

/-- R59, R81: the H of a strike: the strike level, or the larger of it and the outer H while the link is active, limited
to the effective cap. -/
def strikeH (s : State) (g : Segment) : Nat :=
  min (match activeOuter s g with
    | some u => max g.cfg.strikeLevel u.h
    | none => g.cfg.strikeLevel) g.effCap

/-- A segment that strikes (R59): STRIKE, the strike H, the step timer reloaded with the up interval. -/
def struck (s : State) (g : Segment) : Segment :=
  { g with ctl := .strike, h := strikeH s g, stepTimer := startTimer g.cfg.upInterval }

/-! ## Depth raises (R81, R82) -/

/-- R81: the record of a segment that a depth raise raises; none where the raise leaves it as it is. -/
def raised (s : State) (g : Segment) : Option Segment :=
  match activeOuter s g with
  | none => none
  | some u =>
    let target := min u.h g.effCap
    if target ≤ g.h then none
    else
      match g.ctl with
      | .tracking => some { g with h := target }
      | .dwell =>
        if g.cfg.cutOff < target then some { g with h := target, ctl := .tracking, offTimer := none }
        else some { g with h := target }
      | .daylit => some (struck s g)
      | .strike => some { g with h := target }
      | .forced => none

/-- The segments whose outer link names a segment, ascending. -/
def innerOf (s : State) (i : Nat) : List Nat :=
  (s.segs.filter fun e => e.2.cfg.outer == some i).map (·.1)

/-- R81, R82: a depth raise of a segment, handed on inward where it changes H, through at most `n` rows. -/
def depthRaise : Nat → Nat → State → State
  | 0, _, s => s
  | n + 1, i, s =>
    match seg? s i with
    | none => s
    | some g =>
      match raised s g with
      | none => s
      | some g' => forEach (innerOf s i) (depthRaise n) (putSeg i g' s)

/-- R82: a depth raise of each inner segment of a segment. A cascade passes through at most three links. -/
def raiseInner (i : Nat) (s : State) : State := forEach (innerOf s i) (depthRaise 3) s

/-- R76, R82: the record of a segment put, and a rise of its H handed inward. -/
def putRising (i : Nat) (old new : Segment) (s : State) : State :=
  if old.h < new.h then raiseInner i (putSeg i new s) else putSeg i new s

/-! ## Steps (R54, R57, R58) -/

/-- R54: the H that an up step leaves. -/
def upH (g : Segment) : Nat := min (g.h + g.cfg.upStep) g.effCap

/-- R54: the H that a down step leaves: the larger of H − D and the depth floor, never above the H it had. -/
def downH (floor : Nat) (g : Segment) : Nat := min g.h (max (g.h - g.cfg.downStep) floor)

/-- R57, R58, R63: the controller state after a step that was made left H at `h`: TRACKING enters DWELL and starts the
off-delay at or under C, DWELL returns to TRACKING above C. -/
def afterStep (g : Segment) (h : Nat) : Segment :=
  match g.ctl with
  | .tracking =>
    if 0 < g.cfg.cutOff ∧ h ≤ g.cfg.cutOff then
      { g with h := h, ctl := .dwell, offTimer := startTimer (offDelayTenths g.cfg) }
    else { g with h := h }
  | .dwell => if g.cfg.cutOff < h then { g with h := h, ctl := .tracking, offTimer := none } else { g with h := h }
  | _ => { g with h := h }

/-- R54, R57: an up step at a step event or an early step, with the reload of a step that was made. -/
def madeUp (g : Segment) : Segment := { afterStep g (upH g) with stepTimer := startTimer g.cfg.upInterval }

/-- R72: the shortfall monitor at an evaluation, before the step. -/
def monitorShortfall (e : Nat) (g : Segment) : Segment :=
  if belowBand g.cfg e && g.h == g.effCap then
    if g.shortTimer = none ∧ g.shortfall = false then { g with shortTimer := startTimer (shortfallTenths g.cfg) } else g
  else { g with shortTimer := none }

/-- R53: the step timer reloaded with the shorter interval. -/
def reloadShorter (g : Segment) : Segment := { g with stepTimer := startTimer (shorterInterval g.cfg) }

/-- R57, R58: the evaluation of a TRACKING or DWELL segment on the estimate `e`. -/
def evaluate (floor e : Nat) (g : Segment) : Segment :=
  let m := monitorShortfall e g
  if belowBand g.cfg e then
    if upH m = m.h then reloadShorter m else madeUp m
  else if aboveBand g.cfg e then
    if downH floor m = m.h then reloadShorter m
    else { afterStep m (downH floor m) with stepTimer := startTimer g.cfg.downInterval }
  else reloadShorter m

/-- R56: a step event that finds no active sensor. -/
def goBlind (g : Segment) : Segment :=
  reloadShorter
    { g with
      changed := g.changed || !g.blind
      blind := true
      blindTimer := if g.blindTimer = none then startTimer (sensorlessTenths g.cfg) else g.blindTimer
      shortTimer := none }

/-- R56, R66: a step event that finds an active sensor clears the blind flag and cancels the blind timer. -/
def seeAgain (g : Segment) : Segment :=
  { g with changed := g.changed || g.blind, blind := false, blindTimer := none }

/-- R58: a DWELL segment that is not held starts its off-delay timer if it is not running. -/
def startOffDelay (g : Segment) : Segment :=
  if g.ctl = .dwell ∧ g.offTimer = none then { g with offTimer := startTimer (offDelayTenths g.cfg) } else g

/-- R55 to R60: the record of a segment after its step event. -/
def stepped (s : State) (g : Segment) : Segment :=
  match g.ctl with
  | .forced => g
  | .strike => reloadShorter { g with ctl := .tracking }
  | _ =>
    if g.held then reloadShorter g
    else
      match estimate s g with
      | none => goBlind (startOffDelay g)
      | some e =>
        let w := seeAgain (startOffDelay g)
        if g.ctl = .daylit then
          if e < relightThreshold g.cfg then struck s w else reloadShorter w
        else evaluate (depthFloor s g) e w

/-- An expiry at a segment: `f` acts where a segment is defined at the id and the timer `timer` reads from it is due (log 2). -/
def segExpiry (i : Nat) (timer : Segment → Timer) (f : Segment → State → State) (s : State) : State :=
  onSeg i (fun g t => if timerDue (timer g) then f g t else t) s

/-- R53: the step event at the expiry of a segment's step timer. -/
def stepExpiry (i : Nat) (s : State) : State := segExpiry i (·.stepTimer) (fun g t => putRising i g (stepped t g) t) s

/-- R63: the record of a segment after a sky change: an upward-only early step, where it acts. -/
def earlyStepped (s : State) (g : Segment) : Segment :=
  if g.cfg.mode = .harvest ∧ g.held = false then
    match estimate s g with
    | none => g
    | some e =>
      match g.ctl with
      | .tracking | .dwell => if belowBand g.cfg e && upH g != g.h then madeUp g else g
      | .daylit => if e < relightThreshold g.cfg then struck s g else g
      | _ => g
  else g

/-- R63: a sky-change event at a segment. -/
def skyChange (i : Nat) (s : State) : State := onSeg i (fun g t => putRising i g (earlyStepped t g) t) s

/-! ## The held condition (R64, R65) -/

/-- R64: the segment is held: not OCCUPIED, or named by an override record. -/
def isHeld (s : State) (i : Nat) (g : Segment) : Bool := g.activity != .occupied || !(recordsOf s i).isEmpty

/-- R64, R65: the held flag recomputed; a segment that becomes held cancels its off-delay and shortfall timers. -/
def recomputeHeld (i : Nat) (s : State) : State :=
  onSeg i (fun g t =>
    let held := isHeld t i g
    if held && !g.held then putSeg i { g with held := true, offTimer := none, shortTimer := none } t
    else putSeg i { g with held := held } t) s

/-! ## Effective cap changes (R68, R69, R87) -/

/-- R68: the off-delay timer of a segment that enters DWELL: started unless the segment is held. -/
def dwellTimer (g : Segment) : Timer := if g.held then none else startTimer (offDelayTenths g.cfg)

/-- R68: the record of a HARVEST segment clamped to an effective cap below its H. -/
def capClamped (cap : Nat) (g : Segment) : Segment :=
  if g.ctl = .tracking ∧ 0 < g.cfg.cutOff ∧ cap ≤ g.cfg.cutOff then
    { g with h := cap, ctl := .dwell, offTimer := dwellTimer g }
  else { g with h := cap }

/-- R68, R87: the cap-change event of a segment, its new cap being in its record: a fall below H clamps H, a rise applies
the depth floor. -/
def capChange (i old : Nat) (s : State) : State :=
  onSeg i (fun g t =>
    if g.cfg.mode = .harvest then
      if g.effCap < g.h then putSeg i (capClamped g.effCap g) t
      else if old < g.effCap then depthRaise 4 i t
      else t
    else t) s

/-- R122: the effective cap of a segment computed again, with the cap-change event where it changes. -/
def recomputeCap (i : Nat) (s : State) : State :=
  onSeg i (fun g t =>
    let cap := effectiveCap t.composer g.cfg.cap
    if cap = g.effCap then t else capChange i g.effCap (putSeg i { g with effCap := cap } t)) s

/-- R122: a floor-wide change is an event at each segment, the segments taking it in a free order (log 4). -/
def recomputeAllCaps (s : State) : State := forEachFree (segIds s) (fun i => event (recomputeCap i)) s

/-! ## Mode changes (R70, R71, R86) -/

/-- R70: the record of a segment that enters HARVEST, before the depth ordering. DESIGN CHOICE (log 25): a segment DEFINED in
HARVEST that lands in DWELL starts its off-delay timer, as R70 and R77 say; the table of R15 says that no timer but the step
timer runs there. -/
def enteredHarvest (g : Segment) : Segment :=
  let h := min g.cfg.manualLevel g.effCap
  let dwells := 0 < g.cfg.cutOff ∧ h ≤ g.cfg.cutOff
  { g with
    h := h
    ctl := if dwells then .dwell else .tracking
    offTimer := if dwells then dwellTimer g else none
    stepTimer := startTimer (shorterInterval g.cfg)
    blind := false
    blindTimer := none
    shortTimer := none }

/-- R71: the record of a segment that goes to MANUAL. -/
def leftHarvest (g : Segment) : Segment :=
  { g with ctl := .forced, stepTimer := none, offTimer := none, blindTimer := none, shortTimer := none, blind := false }

/-- R70, R86: a segment enters HARVEST: its own record, its depth raise, then a raise of each of its inner segments. -/
def enterHarvest (i : Nat) (s : State) : State :=
  raiseInner i (depthRaise 4 i (onSeg i (fun g => putSeg i (enteredHarvest g)) s))

/-- R71: a segment goes to MANUAL. -/
def leaveHarvest (i : Nat) (s : State) : State := onSeg i (fun g => putSeg i (leftHarvest g)) s

/-- R75: a changed cut-off level tested against the controller state. -/
def cutOffChanged (i : Nat) (s : State) : State :=
  onSeg i (fun g t =>
    if g.ctl = .dwell ∧ (g.cfg.cutOff = 0 ∨ g.cfg.cutOff < g.h) then
      putSeg i { g with ctl := .tracking, offTimer := none } t
    else t) s

end Sys2Proof.Machine
end

