-- ==== Sys2Proof/Machine/OverrideOps.lean ====
section
/-! DEFINITION. The operations of the override list (chapter 6): handles, order, placement, retirement. -/

namespace Sys2Proof.Machine

/-- The record is of class FACILITY. -/
def isFacility (o : Override) : Bool := o.cls == .facility

/-- R102: a record put at the front of its class. -/
def insertFront (o : Override) (l : List Override) : List Override :=
  match o.cls with
  | .facility => o :: l
  | .occupant => l.takeWhile isFacility ++ o :: l.dropWhile isFacility

/-- R104: the handle after a handle, 65535 being followed by 1. -/
def handleAfter (h : Nat) : Nat := if 65535 ≤ h then 1 else h + 1

/-- R104: the first handle from `h` on that no record holds, tried at most `n` times. -/
def freeHandle (l : List Override) : Nat → Nat → Nat
  | 0, h => h
  | n + 1, h => if l.any (·.handle == h) then freeHandle l n (handleAfter h) else h

/-- R102: the record of an origin and a scope. -/
def findRecord (origin : Origin) (scope : Scope) (l : List Override) : Option Override :=
  l.find? fun o => o.origin == origin && o.scope == scope

/-- R107: the record displaced from a full list: the last OCCUPANT record in list order. -/
def lastOccupant (l : List Override) : Option Override := l.reverse.find? fun o => !isFacility o

/-- R118: the records that satisfy `p` are retired: they leave the list, the list's change flag is set where the path
sets it and a record is retired, and the held flag of each segment they named is recomputed. -/
def retireRecords (p : Override → Bool) (flag : Bool) (s : State) : State :=
  let l := s.overrides
  forEach ((l.records.filter p).map (·.scope.segment)) recomputeHeld
    (putOverrides
      { l with
        records := l.records.filter fun o => !p o
        changed := l.changed || (flag && l.records.any p) } s)

/-- R107, R117: a list that is full makes room by displacing its last OCCUPANT record. -/
def makeRoom (s : State) : State :=
  if s.overrides.records.length < Config.overrideRoom then s
  else
    match lastOccupant s.overrides.records with
    | some d => retireRecords (fun o => o.handle == d.handle) true s
    | none => s

/-- R107: the handle of the record that a creation displaces. -/
def displacedHandle (l : List Override) : Nat :=
  if l.length < Config.overrideRoom then 0 else ((lastOccupant l).map (·.handle)).getD 0

/-- R105 check 4, R117: the list cannot take a new record: it holds 24 records, all of them FACILITY. -/
def listRefuses (l : List Override) : Bool := !decide (l.length < Config.overrideRoom) && (lastOccupant l).isNone

/-- R104, R107: a new record enters at the front of its class, with the next free handle. -/
def createRecord (origin : Origin) (cls : OvClass) (scope : Scope) (action : OvAction) (hold : Option Nat)
    (s : State) : State :=
  let l := s.overrides
  let h := freeHandle l.records 25 l.counter
  recomputeHeld scope.segment
    (putOverrides
      { l with
        records := insertFront ⟨h, origin, cls, scope, action, hold⟩ l.records
        counter := handleAfter h } s)

/-- R106, R113: a record refreshed: its class, action and hold replaced, its handle kept, moved to the front of its
class. -/
def refreshRecord (r : Override) (cls : OvClass) (action : OvAction) (hold : Option Nat) (s : State) : State :=
  let l := s.overrides
  putOverrides
    { l with
      records := insertFront { r with cls := cls, action := action, hold := hold }
        (l.records.filter fun o => o.handle != r.handle) } s

/-- R106, R107, R117: a record placed for an origin and a scope: the record that stands there refreshed, or a new one
created, a full list making room first. -/
def placeRecord (origin : Origin) (cls : OvClass) (scope : Scope) (action : OvAction) (hold : Option Nat)
    (s : State) : State :=
  match findRecord origin scope s.overrides.records with
  | some r => refreshRecord r cls action hold s
  | none => createRecord origin cls scope action hold (makeRoom s)

/-- R114: what RAISE gives. -/
def raiseAction : Option OvAction → OvAction
  | some (.set v) => .set (min (v + Config.pressStep) 1000)
  | some (.nudge d) => .nudge (min (d + Config.pressStep) 500)
  | some .off => .set Config.pressStep
  | none => .nudge Config.pressStep

/-- R114: what LOWER gives. -/
def lowerAction : Option OvAction → OvAction
  | some (.set v) => .set (v - Config.pressStep)
  | some (.nudge d) => .nudge (max (d - Config.pressStep) (-500))
  | some .off => .off
  | none => .nudge (-(Config.pressStep : Int))

/-- R115: what OFF gives at a segment: OFF where it permits it, else SET at its setback level. -/
def offAction (g : Segment) : OvAction := if g.cfg.stationOff then .off else .set g.cfg.setbackLevel

/-- R113 to R115: the action that a button gives on the station's own record; none for RESUME. -/
def pressAction (g : Segment) (b : Button) (own : Option OvAction) : Option OvAction :=
  match b with
  | .raise => some (raiseAction own)
  | .lower => some (lowerAction own)
  | .on => some (.set 1000)
  | .off => some (offAction g)
  | .resume => none

/-- R116: every record of a station is retired. -/
def retireStation (a : Nat) (s : State) : State := retireRecords (fun o => o.origin == .station a) true s

/-- R113 to R117: the override list acts on a press of station `a`. A press that would create a record in a list of 24
FACILITY records is refused and changes nothing in the list. -/
def pressList (a : Nat) (scope : Scope) (hold : Nat) (b : Button) (s : State) : State :=
  onSeg scope.segment (fun g t =>
    let own := findRecord (.station a) scope t.overrides.records
    match pressAction g b (own.map (·.action)) with
    | none => retireStation a t
    | some action =>
      if own.isNone && listRefuses t.overrides.records then t
      else placeRecord (.station a) .occupant scope action (some hold) t) s

/-- R111: every numeric hold is reduced by 1, and every record whose hold reaches 0 is retired. -/
def countHolds (s : State) : State :=
  let l := s.overrides
  retireRecords (fun o => o.hold == some 0) true
    (putOverrides { l with records := l.records.map fun o => { o with hold := o.hold.map (· - 1) } } s)

end Sys2Proof.Machine
end

