-- ==== Sys2Proof/Machine/OccupancyOps.lean ====
section
/-! DEFINITION. The operations of the occupancy unit (chapter 5): motion, the presence check, re-resolution. -/

namespace Sys2Proof.Machine

/-- The occupancy hold in tenths (R89). -/
def holdTenths (c : SegConfig) : Nat := c.occupancyHold * Config.minuteTenths

/-- The setback time in tenths (R89). -/
def setbackTenths (c : SegConfig) : Nat := c.setbackTime * Config.minuteTenths

/-- R98: the change flag of a segment whose activity changes, unless a request is the cause (R4). -/
def activityFlag (byRequest : Bool) (g : Segment) : Bool :=
  g.changed || (!byRequest && g.activity != .occupied)

/-- R92: a motion event at a segment; nothing while activity sensing is off. -/
def motion (byRequest : Bool) (i : Nat) (s : State) : State :=
  onSeg i (fun g t =>
    if g.cfg.sensing then
      recomputeHeld i (putSeg i
        { g with
          activity := .occupied
          holdTimer := startTimer (holdTenths g.cfg)
          setbackTimer := none
          changed := activityFlag byRequest g } t)
    else t) s

/-- R96: a segment re-resolves its presence: in SETBACK or VACANT with activity sensing on, it returns to OCCUPIED when
it is found unwatched. -/
def reResolve (byRequest : Bool) (i : Nat) (s : State) : State :=
  onSeg i (fun g t =>
    if g.cfg.sensing = true ∧ g.activity ≠ .occupied ∧ watched t i = false then
      recomputeHeld i (putSeg i
        { g with
          activity := .occupied
          holdTimer := startTimer (holdTenths g.cfg)
          setbackTimer := none
          changed := activityFlag byRequest g } t)
    else t) s

/-- R97: the activity sensing of a segment has changed by request. -/
def sensingChanged (i : Nat) (s : State) : State :=
  onSeg i (fun g t =>
    if g.cfg.sensing then putSeg i { g with holdTimer := startTimer (holdTenths g.cfg) } t
    else recomputeHeld i (putSeg i { g with activity := .occupied, holdTimer := none, setbackTimer := none } t)) s

/-- R94: a segment becomes VACANT: its OCCUPANT records are retired. -/
def goVacant (i : Nat) (g : Segment) (s : State) : State :=
  recomputeHeld i
    (retireRecords (fun o => o.scope.segment == i && !isFacility o) true
      (putSeg i { g with activity := .vacant, setbackTimer := none, changed := true } s))

end Sys2Proof.Machine
end

