-- ==== Sys2Proof/Machine/PhotoOps.lean ====
section
/-! DEFINITION. The photosensor channel (chapter 2): seeding, feeding, settling, spike rejection, reseeds, quarantine,
sky change. -/

namespace Sys2Proof.Machine

/-- R26: the fields of a record that enters UNSEEDED. -/
def unseeded : Measurement :=
  { state := .unseeded, acc := 0, f0 := none, settleCount := 0, pendingJump := false, window := none,
    quarantineTimer := none }

/-- R28: the accumulator after seeding with a sample. -/
def seedAcc (x : Nat) : Nat := x * 256

/-- R29: the accumulator after feeding a sample: the signed difference divided by 2 to the power N, truncated toward
zero, added to it. -/
def feedAcc (shift acc x : Nat) : Nat := ((acc : Int) + Int.tdiv ((x * 256 : Nat) - (acc : Int)) (2 ^ shift)).toNat

/-- R31: a sample at a SETTLING record. -/
def settleSample (c : PhotoConfig) (m : Measurement) (x : Nat) : Measurement :=
  if dist x (filtered m) ≤ c.tolerance then
    let a := feedAcc c.shift m.acc x
    if m.settleCount = 3 then { m with acc := a, state := .settled, f0 := some (a / 256), settleCount := 0 }
    else { m with acc := a, settleCount := m.settleCount + 1 }
  else { m with acc := seedAcc x, settleCount := 0 }

/-- R35: a sample that is no reseed, or a reseed counted below 3, counts in an open window. -/
def countSample (w : Option Window) : Option Window :=
  match w with
  | none => none
  | some v => if v.remaining ≤ 1 then none else some { v with remaining := v.remaining - 1 }

/-- R40: the sky-change comparison after a feed or a reseed: F0 moves to F when they differ by more than Q. -/
def skyCompare (c : PhotoConfig) (m : Measurement) : Measurement × Bool :=
  match m.f0 with
  | some f0 => if c.tolerance < dist (filtered m) f0 then ({ m with f0 := some (filtered m) }, true) else (m, false)
  | none => (m, false)

/-- R34, R35, R36: a reseed, counted in the reseed window. The third reseed of a window quarantines the record. -/
def reseed (c : PhotoConfig) (m : Measurement) (x : Nat) : Measurement × Bool :=
  let seeded := { m with acc := seedAcc x, pendingJump := false }
  match m.window with
  | none => skyCompare c { seeded with window := some ⟨16, 1⟩ }
  | some w =>
    if 2 ≤ w.reseeds then
      ({ seeded with state := .quarantined, window := none, quarantineTimer := startTimer Config.quarantinePeriod },
        false)
    else skyCompare c { seeded with window := countSample (some { w with reseeds := w.reseeds + 1 }) }

/-- R32 to R34: a sample at a SETTLED record: fed, rejected or a reseed. -/
def settledSample (c : PhotoConfig) (m : Measurement) (x : Nat) : Measurement × Bool :=
  if c.spike = 0 ∨ dist x (filtered m) ≤ c.spike then
    skyCompare c { m with acc := feedAcc c.shift m.acc x, pendingJump := false, window := countSample m.window }
  else if m.pendingJump then reseed c m x
  else ({ m with pendingJump := true, window := countSample m.window }, false)

/-- R27, R30 to R37: a sample at a measurement record, and whether it gives a sky-change event. -/
def sample (c : PhotoConfig) (m : Measurement) (x : Nat) : Measurement × Bool :=
  match m.state with
  | .unseeded => ({ m with acc := seedAcc x, settleCount := 0, state := .settling }, false)
  | .settling => (settleSample c m x, false)
  | .settled => settledSample c m x
  | .quarantined => (m, false)

/-- R45: a measurement record at the loss of its input's link. -/
def linkLost (m : Measurement) : Measurement :=
  match m.state with
  | .settling | .settled => unseeded
  | _ => m

/-- R41: the segments that a sky change of an input is given to: those whose active sensor it is. -/
def skyTargets (s : State) (a : Nat) : List Nat :=
  (s.segs.filter fun e => activeSensor s e.2 == some a).map (·.1)

/-- R63: the events that a sky change meets at the segments it is given to, as keys: 2i + 1 the sky change at segment i, and
2i the expiry of its step timer, where that is due. -/
def skyKeys (s : State) (targets : List Nat) : List Nat :=
  targets.flatMap fun i => if (seg? s i).any (fun g => timerDue g.stepTimer) then [2 * i, 2 * i + 1] else [2 * i + 1]

/-- R63: the sky changes and the step-timer expiries of their segments, each an event of its own, in the order given. An
expiry that comes after the sky change of its segment is left to its own command. -/
def takeSkyEvents : List Nat → State → State
  | [], s => s
  | k :: rest, s =>
    takeSkyEvents rest
      (if k % 2 = 1 then event (skyChange (k / 2)) s
       else if rest.contains (k + 1) then event (stepExpiry (k / 2)) s
       else s)

/-- R27, R36, R40, R41: the sample of a PHOTO input handled, and the sky-change events it gives, each an event of its own
at its segment, in a free order (log 4). The input's change flag is set when the record becomes QUARANTINED (R47). R63: the
expiry of a segment's step timer, where it is due, may be taken between the sample and the segment's sky change, and then
evaluates on the F that the sample left: the free order says whether it is. DESIGN CHOICE (log 26): the sky changes are taken
in the sample's own command, and no other event comes between. -/
def takeSample (a x : Nat) (s : State) : State :=
  onInput a (fun n t =>
    match n.device with
    | .photo c m =>
      let r := sample c m x
      let entered := r.1.state == .quarantined && m.state != .quarantined
      let u := putInput a { n with device := .photo c r.1, changed := n.changed || entered } t
      if r.2 then inFreeOrder (skyKeys u (skyTargets u a)) takeSkyEvents u else u
    | _ => t) s

end Sys2Proof.Machine
end

