-- ==== Sys2Proof/Machine/InputOps.lean ====
section
/-! DEFINITION. The operations of the input line (chapter 9): the due list and its arbiter, replies by kind, link loss,
spot reads. -/

namespace Sys2Proof.Machine

/-- R153: what the arbiter makes of the input line: if it is RUNNING, idle and INRX high, a WAITING spot read, else the
head of the due list, begins its POLL. -/
def choosePoll (l : InputLine) : InputLine :=
  if l.state = .running ∧ l.flight = none ∧ l.rxHigh = true then
    match l.spotRequest, l.due with
    | some ⟨a, false⟩, _ => { l with spotRequest := some ⟨a, true⟩, flight := some (.spot a) }
    | _, a :: ds => { l with due := ds, flight := some (.due a .live) }
    | _, [] => l
  else l

/-- R153: the arbiter of the input line chooses. -/
def arbitrateInput (s : State) : State := putInputLine (choosePoll s.inputLine) s

/-- The poll in flight has ended. -/
def clearPoll (s : State) : State := putInputLine { s.inputLine with flight := none } s

/-- R158: what an input's device keeps when its link state leaves REPORTING. -/
def deviceLost (d : Device) : Device :=
  match d with
  | .photo c m => .photo c (linkLost m)
  | .presence coverage _ => .presence coverage none
  | .station scope hold lastButton _ => .station scope hold lastButton none

/-- The segments that a device covers as a presence sensor (R18). -/
def coverageOf (d : Device) : List Nat :=
  match d with
  | .presence coverage _ => coverage
  | _ => []

/-- R156 to R158: an input takes a link state other than REPORTING, with a miss count; where it was REPORTING the change
is handed on to the block that uses the input. Its change flag is set where the link state changes. -/
def dropLink (a : Nat) (link : InputLink) (misses : Nat) (s : State) : State :=
  onInput a (fun n t =>
    let lost := n.link == .reporting
    let u := putInput a
      { n with
        link := link
        missCount := misses
        device := if lost then deviceLost n.device else n.device
        changed := n.changed || (n.link != link) } t
    if lost then forEach (coverageOf n.device) (reResolve false) u else u) s

/-- R157: a due poll of an enrolled input drew no reply. -/
def pollMissed (a : Nat) (s : State) : State :=
  onInput a (fun n t =>
    let misses := min (n.missCount + 1) n.missLimit
    if n.missLimit ≤ misses ∧ n.link ≠ .absent then dropLink a .absent misses t
    else putInput a { n with missCount := misses } t) s

/-- R155, R91, R113: one press of a station's button: motion at the segment of its scope, then the override list, then
the last button and the change flag. One event. -/
def stationPress (a : Nat) (scope : Scope) (hold : Nat) (b : Button) (s : State) : State :=
  onInput a (fun n =>
    match n.device with
    | .station sc h _ sq => putInput a { n with device := .station sc h (some b) sq, changed := true }
    | _ => id)
    (pressList a scope hold b (motion false scope.segment s))

/-- R155: the press detection on a valid reply of a station that was or has just become REPORTING. -/
def stationReply (a sequence : Nat) (button : Byte) (s : State) : State :=
  onInput a (fun n t =>
    match n.device with
    | .station scope hold lastButton recorded =>
      let u := putInput a { n with device := .station scope hold lastButton (some sequence) } t
      match recorded, buttonOfCode button.toNat with
      | some q, some b => if q = sequence then u else event (stationPress a scope hold b) u
      | _, _ => u
    | _ => t) s

/-- R90: a presence report: the last report, and for MOTION a motion event at each covered segment, each an event of its
own, in a free order (log 4). -/
def presenceReport (a : Nat) (isMotion : Bool) (s : State) : State :=
  onInput a (fun n t =>
    match n.device with
    | .presence coverage _ =>
      let u := putInput a
        { n with device := .presence coverage (some (if isMotion then Report.motion else Report.quiet)) } t
      if isMotion then forEachFree coverage (fun i => event (motion false i)) u else u
    | _ => t) s

/-- R154: the value of a reply dispatched by kind. -/
def dispatchValue (a : Nat) (v : InputValue) (s : State) : State :=
  match v with
  | .photo x => takeSample a x s
  | .presence isMotion => presenceReport a isMotion s
  | .station sequence button => stationReply a sequence button s

/-- R154: a valid reply of the enrolled kind: the miss count 0, the link state REPORTING with the change flag where that
is a change, then the dispatch. -/
def takeReply (a : Nat) (v : InputValue) (s : State) : State :=
  dispatchValue a v
    (onInput a (fun n => putInput a
      { n with link := .reporting, missCount := 0, changed := n.changed || n.link != .reporting }) s)

/-- The kind of an input record (R17). -/
def deviceKind (d : Device) : InputKind :=
  match d with
  | .photo _ _ => .photo
  | .presence _ _ => .presence
  | .station _ _ _ _ => .station

/-- The kind of the input enrolled at an address. -/
def kindAt (s : State) (a : Nat) : Option InputKind := (input? s a).map fun n => deviceKind n.device

/-- R160: a spot read ends: the request is empty, the result replaced, the floor change flag set. -/
def endSpot (address : Nat) (reply : Option InputValue) (s : State) : State :=
  flagFloor (putInputLine
    { s.inputLine with spotRequest := none, spotResult := some ⟨address, reply⟩ } s)

/-- R152, R162: a poll timer restarted with the poll interval as it stands. -/
def restartPoll (n : Input) : Input := { n with pollTimer := startTimer n.interval }

end Sys2Proof.Machine
end

