-- ==== Sys2Proof/Machine/Operands.lean ====
section
/-! DEFINITION. The operand forms of the requests: what a body carries (R173, R177), what is judged structurally, and how
numeric settings are taken. -/

namespace Sys2Proof.Machine

/-! ## Carried fields and numeric settings -/

/-- R177: a field of a masked body: carried when its mask bit is set. -/
def carriedAt (mask bit value : Nat) : Option Nat := if mask.testBit bit then some value else none

/-- A numeric setting taken (R3 check 5): the clamped value if it is carried, else the held value; and whether it was
clamped. -/
def takeNum (lo hi held : Nat) : Option Nat → Nat × Bool
  | none => (held, false)
  | some v => (clampTo lo hi v, clampTo lo hi v != v)

/-- R7, R12: an upper setting kept between a lower setting and a limit: clamped where it is carried, raised to the lower
setting where it is not. -/
def takeAbove (lower hi held : Nat) : Option Nat → Nat × Bool
  | none => (max held lower, decide (held < lower))
  | some v => (clampTo lower hi v, clampTo lower hi v != v)

/-! ## Luminaire requests (R6 to R9) -/

/-- The fields a luminaire block carries. -/
structure LumFields where
  segment : Option Nat
  position : Option Nat
  trim : Option Nat
  minLevel : Option Nat
  maxLevel : Option Nat
deriving DecidableEq, Repr

/-- R173: key; mask (1 byte); luminaire block (7). -/
def lumFields (body : List Byte) : LumFields :=
  let mask := byteAt body 1
  { segment := carriedAt mask 0 (byteAt body 2)
    position := carriedAt mask 1 (byteAt body 3)
    trim := carriedAt mask 2 (byteAt body 4)
    minLevel := carriedAt mask 3 (word2At body 5)
    maxLevel := carriedAt mask 4 (word2At body 7) }

/-- R7: trim, minimum and maximum taken into a record; and whether a value was clamped or adjusted. -/
def takeLumNumbers (f : LumFields) (l : Luminaire) : Luminaire × Bool :=
  let t := takeNum 50 150 l.trim f.trim
  let lo := takeNum 1 300 l.minLevel f.minLevel
  let hi := takeAbove lo.1 1000 l.maxLevel f.maxLevel
  ({ l with trim := t.1, minLevel := lo.1, maxLevel := hi.1 }, t.2 || lo.2 || hi.2)

/-- R8: a luminaire other than `k` holds the position. -/
def positionHeld (s : State) (k : Nat) (p : Place) : Bool :=
  s.lums.any fun e => e.1 != k && e.2.place == some p

/-- R8, R9: the assignment that an AMEND LUMINAIRE gives a luminaire, or the status that refuses it. -/
def amendedPlace (s : State) (l : Luminaire) (f : LumFields) : Except Status (Option Place) :=
  let at' (g p : Nat) : Except Status (Option Place) := if p ≤ 15 then .ok (some ⟨g, p⟩) else .error .badField
  match f.segment, f.position with
  | none, none => .ok l.place
  | none, some p =>
    match l.place with
    | some q => at' q.segment p
    | none => .error .badField
  | some b, position =>
    if b = 255 then
      match position with
      | none => .ok none
      | some _ => .error .badField
    else if b ≤ 31 ∧ (seg? s b).isSome then
      match position with
      | some p => at' b p
      | none => .error .badField
    else .error .badField

/-! ## Segment requests (R12 to R14) -/

/-- R173: the offsets of the 25 fields in the body of a segment request (id; mask (4); block (35)), and their widths. -/
def segFieldPlaces : List (Nat × Nat) :=
  [(5, 1), (6, 1), (7, 1), (8, 1), (9, 1), (10, 2), (12, 2), (14, 1), (15, 2), (17, 1), (18, 1), (19, 1), (20, 1),
   (21, 2), (23, 2), (25, 2), (27, 2), (29, 2), (31, 1), (32, 2), (34, 1), (35, 1), (36, 1), (37, 2), (39, 1)]

/-- R173, R177: the value of field `n` of a segment request, if its mask bit is set. -/
def segField (body : List Byte) (n : Nat) : Option Nat :=
  match segFieldPlaces[n]? with
  | some (at', width) =>
    carriedAt (word4At body 1) n (if width = 2 then word2At body at' else byteAt body at')
  | none => none

/-- R14, R173: the clear-shortfall option, mask bit 25. -/
def clearsShortfall (body : List Byte) : Bool := (word4At body 1).testBit 25

/-- The configuration of a segment from its defaults (R12), the row apart. -/
def segDefaults : SegConfig :=
  { row := 1, outer := none, primary := none, secondary := none, mode := .manual, manualLevel := 1000, target := 500,
    tolerance := 25, relightMargin := 50, upStep := 40, downStep := 10, upInterval := 10, downInterval := 30,
    cutOff := 100, offDelay := 300, strikeLevel := 300, fallback := 800, sensorless := 60, shortfallTime := 10,
    cap := 1000, sensing := true, occupancyHold := 15, setbackTime := 10, setbackLevel := 300, stationOff := false }

/-- R3, R177: an enumeration or reference that is carried satisfies a test. -/
def carriedOk (v : Option Nat) (ok : Nat → Bool) : Bool :=
  match v with
  | some b => ok b
  | none => true

/-- R12: a carried 0 or 1. -/
def flagOf (held : Bool) : Option Nat → Bool
  | none => held
  | some b => b == 1

/-- R12, R177: the structural fields of a segment request taken into a configuration. -/
def takeSegStructure (body : List Byte) (c : SegConfig) : SegConfig :=
  { c with
    row := (segField body 0).getD c.row
    outer := match segField body 1 with
      | some b => refOf b
      | none => c.outer
    primary := match segField body 2 with
      | some b => refOf b
      | none => c.primary
    secondary := match segField body 3 with
      | some b => refOf b
      | none => c.secondary
    mode := match segField body 4 with
      | some b => if b = 1 then .harvest else .manual
      | none => c.mode
    sensing := flagOf c.sensing (segField body 20)
    stationOff := flagOf c.stationOff (segField body 24) }

/-- R12, R177: the enumerations that a segment request carries name members: row 1 to 4, mode, sensing and station off
permitted 0 or 1. -/
def segEnumsOk (body : List Byte) : Bool :=
  carriedOk (segField body 0) (fun b => decide (1 ≤ b) && decide (b ≤ 4)) && carriedOk (segField body 4) (· ≤ 1)
    && carriedOk (segField body 20) (· ≤ 1) && carriedOk (segField body 24) (· ≤ 1)

/-- R13: an outer link is fit for segment `i` with configuration `c`: none, or a defined segment, not itself, one row
nearer the window. -/
def outerFits (s : State) (i : Nat) (c : SegConfig) : Bool :=
  match c.outer with
  | none => true
  | some o =>
    o != i &&
      match seg? s o with
      | some u => u.cfg.row + 1 == c.row
      | none => false

/-- R13: a sensor reference is none or names an enrolled PHOTO input. -/
def sensorFits (s : State) (r : Option Nat) : Bool :=
  match r with
  | none => true
  | some a => (photoOf s a).isSome

/-- R13: the references of a segment, judged against the record as it would stand after the request. -/
def refsFit (s : State) (i : Nat) (c : SegConfig) : Bool :=
  outerFits s i c && sensorFits s c.primary && sensorFits s c.secondary
    && (c.primary.isNone || c.primary != c.secondary)

/-- A segment request carries a reference or the row, so that its references are judged. -/
def carriesRefs (body : List Byte) : Bool :=
  (segField body 0).isSome || (segField body 1).isSome || (segField body 2).isSome || (segField body 3).isSome

/-- R12: the numeric settings of a segment request taken into a configuration, C before S; and whether a value was
clamped or adjusted. -/
def takeSegNumbers (body : List Byte) (c : SegConfig) : SegConfig × Bool :=
  let manual := takeNum 0 1000 c.manualLevel (segField body 5)
  let target := takeNum 0 2000 c.target (segField body 6)
  let tolerance := takeNum 0 255 c.tolerance (segField body 7)
  let relight := takeNum 0 500 c.relightMargin (segField body 8)
  let up := takeNum 1 200 c.upStep (segField body 9)
  let down := takeNum 1 200 c.downStep (segField body 10)
  let upInt := takeNum 1 255 c.upInterval (segField body 11)
  let downInt := takeNum 1 255 c.downInterval (segField body 12)
  let cut := takeNum 0 500 c.cutOff (segField body 13)
  let off := takeNum 1 3600 c.offDelay (segField body 14)
  let strike := takeAbove cut.1 1000 c.strikeLevel (segField body 15)
  let fallback := takeNum 0 1000 c.fallback (segField body 16)
  let sensorless := takeNum 1 600 c.sensorless (segField body 17)
  let shortfall := takeNum 1 255 c.shortfallTime (segField body 18)
  let cap := takeNum 0 1000 c.cap (segField body 19)
  let hold := takeNum 1 120 c.occupancyHold (segField body 21)
  let setback := takeNum 1 120 c.setbackTime (segField body 22)
  let level := takeNum 0 1000 c.setbackLevel (segField body 23)
  ({ c with
      manualLevel := manual.1, target := target.1, tolerance := tolerance.1, relightMargin := relight.1,
      upStep := up.1, downStep := down.1, upInterval := upInt.1, downInterval := downInt.1, cutOff := cut.1,
      offDelay := off.1, strikeLevel := strike.1, fallback := fallback.1, sensorless := sensorless.1,
      shortfallTime := shortfall.1, cap := cap.1, occupancyHold := hold.1, setbackTime := setback.1,
      setbackLevel := level.1 },
    manual.2 || target.2 || tolerance.2 || relight.2 || up.2 || down.2 || upInt.2 || downInt.2 || cut.2 || off.2
      || strike.2 || fallback.2 || sensorless.2 || shortfall.2 || cap.2 || hold.2 || setback.2 || level.2)

/-! ## Input requests (R17 to R19) -/

/-- R173: address; mask (1 byte); input block (10): kind, poll interval, miss limit, seven kind bytes from offset 5. -/
def inputMask (body : List Byte) : Nat := byteAt body 1

/-- R173, R177: a mask bit from 2 to 5 that names no field of the kind is set. -/
def carriesForeign (k : InputKind) (body : List Byte) : Bool :=
  let m := inputMask body
  match k with
  | .photo => false
  | .presence => m.testBit 3 || m.testBit 4 || m.testBit 5
  | .station => m.testBit 4 || m.testBit 5

/-- R18: the coverage that a body carries whole, if it is one: 1 to 4 distinct defined segments. -/
def coverageIn (s : State) (body : List Byte) : Option (List Nat) :=
  let n := byteAt body 5
  let ids := ((List.range 4).map fun j => byteAt body (6 + j)).take n
  if 1 ≤ n ∧ n ≤ 4 ∧ ids.Nodup ∧ (ids.all fun i => (seg? s i).isSome) = true then some ids else none

/-- R18, R105: a scope: a defined segment and a first and a last position with first ≤ last ≤ 15. -/
def scopeOk (s : State) (x : Scope) : Bool :=
  decide (x.segment ≤ 31) && (seg? s x.segment).isSome && decide (x.first ≤ x.last) && decide (x.last ≤ 15)

/-- The scope that the kind bytes of a body carry. -/
def scopeIn (body : List Byte) : Scope := ⟨byteAt body 5, byteAt body 6, byteAt body 7⟩

/-- R17, R19: the kind fields that a body carries taken into a device of its own kind: the device as it would stand and
whether a value was clamped, or none where a structural field is invalid. -/
def takeDevice (s : State) (body : List Byte) (d : Device) : Option (Device × Bool) :=
  let m := inputMask body
  match d with
  | .photo c meas =>
    let n := takeNum 0 6 c.shift (carriedAt m 2 (byteAt body 5))
    let q := takeNum 1 1000 c.tolerance (carriedAt m 3 (word2At body 6))
    let j := takeNum 0 65535 c.spike (carriedAt m 4 (word2At body 8))
    let k := takeNum 1 4095 c.ratio (carriedAt m 5 (word2At body 10))
    some (.photo ⟨n.1, q.1, j.1, k.1⟩ meas, n.2 || q.2 || j.2 || k.2)
  | .presence coverage last =>
    if m.testBit 2 then (coverageIn s body).map fun ids => (.presence ids last, false)
    else some (.presence coverage last, false)
  | .station scope hold lastButton sequence =>
    let h := takeNum 1 720 hold (carriedAt m 3 (word2At body 8))
    if m.testBit 2 then
      if scopeOk s (scopeIn body) then some (.station (scopeIn body) h.1 lastButton sequence, h.2) else none
    else some (.station scope h.1 lastButton sequence, h.2)

/-- R17: the default poll interval of a kind. -/
def defaultInterval : InputKind → Nat
  | .photo => 5
  | .presence => 10
  | .station => 2

/-! ## Override requests (R105) -/

/-- R105 check 2: the class. -/
def classOf : Nat → Option OvClass
  | 0 => some .facility
  | 1 => some .occupant
  | _ => none

/-- R105 checks 2 and 3: the action of a kind and a value, the value clamped; and whether it was clamped. -/
def actionOf (kind : Nat) (value : Int) : Option (OvAction × Bool) :=
  match kind with
  | 1 =>
    let v := (max 0 (min 1000 value)).toNat
    some (.set v, (v : Int) != value)
  | 2 =>
    let d := max (-500) (min 500 value)
    some (.nudge d, d != value)
  | 3 => some (.off, false)
  | _ => none

/-- R105 check 3: the hold of a class, 0xFFFF being NONE; and whether it was clamped. -/
def holdOf (cls : OvClass) (h : Nat) : Option Nat × Bool :=
  if h = 0xFFFF then
    match cls with
    | .facility => (none, false)
    | .occupant => (some 720, true)
  else (some (clampTo 1 720 h), clampTo 1 720 h != h)

end Sys2Proof.Machine
end

