-- ==== Sys2Proof/Machine/FloorModel.lean ====
section
/-! DEFINITION. The requests on the three tables (chapter 1), in the sequence of checks of R3: the body's layout (R177),
the key, its place, the structural fields, the conflicts; then the numeric settings and the effects. -/

namespace Sys2Proof.Machine

/-! ## Luminaires -/

/-- R6: a luminaire record as enrolled, before the request's numeric settings. -/
def freshLum : Luminaire :=
  { place := none, trim := 100, minLevel := 10, maxLevel := 1000, composed := none, sentCode := none,
    reportedCode := none, link := .unknown, missCount := 0, confirmation := .confirmed, mismatchCount := 0,
    lampFailed := false, hot := false, unconfirmed := false, changed := false }

/-- R6: ENROL_LUMINAIRE. -/
def execEnrolLuminaire (body : List Byte) (s : State) : Host.Outcome State Fault Refusal :=
  if body.length < 9 then deny .badField 0x10 s
  else
    let k := keyOfByte (byteAt body 0)
    let f := lumFields body
    match lum? s k with
    | some _ => deny .existsAlready 0x10 s
    | none =>
      if f.segment.isSome || f.position.isSome then deny .badField 0x10 s
      else
        let r := takeLumNumbers f freshLum
        done (answer (okOr r.2) 0x10 (lumRecord k r.1) (putLum k r.1 s))

/-- R7, R8, R9: the effects of an amended luminaire record: an unassigned luminaire loses its composed fields and its
level-queue entry, an assigned one whose record changed is recomposed. -/
def amendLum (k : Nat) (old new : Luminaire) (s : State) : State :=
  if new = old then s
  else
    match new.place with
    | none => dropEntry k (putLum k { new with composed := none } s)
    | some _ => recomposeLum k (putLum k new s)

/-- The record at a key as a table request answers it. -/
def lumAnswer (k : Nat) (s : State) : List Byte := ((lum? s k).map (lumRecord k)).getD []

/-- R7, R8, R9: AMEND_LUMINAIRE. -/
def execAmendLuminaire (body : List Byte) (s : State) : Host.Outcome State Fault Refusal :=
  if body.length < 9 then deny .badField 0x11 s
  else
    let k := keyOfByte (byteAt body 0)
    let f := lumFields body
    match lum? s k with
    | none => deny .noRecord 0x11 s
    | some l =>
      match amendedPlace s l f with
      | .error st => deny st 0x11 s
      | .ok place =>
        if (f.segment.isSome || f.position.isSome) && (place.map (positionHeld s k)).getD false then deny .inUse 0x11 s
        else
          let r := takeLumNumbers f { l with place := place }
          let t := amendLum k l r.1 s
          done (answer (okOr r.2) 0x11 (lumAnswer k t) t)

/-- R22: READ_LUMINAIRE. -/
def execReadLuminaire (body : List Byte) (s : State) : Host.Outcome State Fault Refusal :=
  if body.length < 1 then deny .badField 0x12 s
  else
    let k := keyOfByte (byteAt body 0)
    match lum? s k with
    | none => deny .noRecord 0x12 s
    | some l => done (answer .ok 0x12 (lumRecord k l) s)

/-- R10: RETIRE_LUMINAIRE. -/
def execRetireLuminaire (body : List Byte) (s : State) : Host.Outcome State Fault Refusal :=
  if body.length < 1 then deny .badField 0x13 s
  else
    let k := keyOfByte (byteAt body 0)
    match lum? s k with
    | none => deny .noRecord 0x13 s
    | some _ =>
      let t := forgetLum k s
      done (answer .ok 0x13 [] { t with lums := tabDel t.lums k })

/-! ## Segments -/

/-- R15: the runtime of a segment defined in MANUAL mode with a configuration, its effective cap being `cap`. -/
def freshSeg (c : SegConfig) (cap : Nat) : Segment :=
  { cfg := c, ctl := .forced, h := 0, held := false, blind := false, shortfall := false, stepTimer := none,
    offTimer := none, blindTimer := none, shortTimer := none, activity := .occupied,
    holdTimer := if c.sensing then startTimer (holdTenths c) else none, setbackTimer := none, effCap := cap,
    tally := 0, changed := false }

/-- R15, R70, R85: a segment record created; in HARVEST mode its controller starts as from MANUAL and takes the depth
floor. -/
def defineSeg (i : Nat) (c : SegConfig) (s : State) : State :=
  let t := putSeg i (freshSeg c (effectiveCap s.composer c.cap)) s
  match c.mode with
  | .manual => t
  | .harvest => enterHarvest i t

/-- The record of a segment as a table request answers it. -/
def segAnswer (i : Nat) (s : State) : List Byte := ((seg? s i).map (segRecord i)).getD []

/-- R12, R13, R15: DEFINE_SEGMENT. -/
def execDefineSegment (body : List Byte) (s : State) : Host.Outcome State Fault Refusal :=
  if body.length < 40 then deny .badField 0x20 s
  else
    let i := byteAt body 0
    if 31 < i then deny .badField 0x20 s
    else
      match seg? s i with
      | some _ => deny .existsAlready 0x20 s
      | none =>
        let c := takeSegStructure body segDefaults
        if (segField body 0).isNone || !segEnumsOk body || !refsFit s i c then deny .badField 0x20 s
        else
          let r := takeSegNumbers body c
          let t := event (defineSeg i r.1) s
          done (answer (okOr r.2) 0x20 (segAnswer i t) t)

/-- R14: another segment names this one as its outer link. -/
def isOuter (s : State) (i : Nat) : Bool := s.segs.any fun e => e.1 != i && e.2.cfg.outer == some i

/-- R14 step 1: the new effective cap of a segment stands in its record. -/
def storeCap (i : Nat) (s : State) : State :=
  onSeg i (fun g t => putSeg i { g with effCap := effectiveCap t.composer g.cfg.cap } t) s

/-- R14 step 2: the mode change. -/
def modeChange (i : Nat) (old new : Mode) (s : State) : State :=
  match old, new with
  | .manual, .harvest => enterHarvest i s
  | .harvest, .manual => leaveHarvest i s
  | _, _ => s

/-- R14 step 3: the cap-change event, where the effective cap is no longer `old`. -/
def capStep (i old : Nat) (s : State) : State :=
  onSeg i (fun g t => if g.effCap = old then t else capChange i old t) s

/-- R14: the effects of an amended configuration, in their order, within the one event at the end of the request. `old`
is the record before the request; the new configuration stands in the table. -/
def amendEffects (i : Nat) (old : Segment) (new : SegConfig) (s : State) : State :=
  let s1 := if new.cap = old.cfg.cap then s else storeCap i s
  let s2 := modeChange i old.cfg.mode new.mode s1
  let s3 := capStep i old.effCap s2
  let s4 := if new.cutOff = old.cfg.cutOff then s3 else cutOffChanged i s3
  let s5 := if new.sensing = old.cfg.sensing then s4 else sensingChanged i s4
  if new.outer = old.cfg.outer ∧ new.mode = old.cfg.mode then s5 else depthRaise 4 i s5

/-- R14: the clear-shortfall option. -/
def clearShortfall (i : Nat) (s : State) : State := onSeg i (fun g => putSeg i { g with shortfall := false }) s

/-- R14: an amended segment record and its effects. -/
def amendSeg (i : Nat) (g : Segment) (c : SegConfig) (clear : Bool) (s : State) : State :=
  let t := amendEffects i g c (putSeg i { g with cfg := c } s)
  if clear then clearShortfall i t else t

/-- R14: AMEND_SEGMENT. -/
def execAmendSegment (body : List Byte) (s : State) : Host.Outcome State Fault Refusal :=
  if body.length < 40 then deny .badField 0x21 s
  else
    let i := byteAt body 0
    if 31 < i then deny .badField 0x21 s
    else
      match seg? s i with
      | none => deny .noRecord 0x21 s
      | some g =>
        let c := takeSegStructure body g.cfg
        if !segEnumsOk body || (carriesRefs body && !refsFit s i c) then deny .badField 0x21 s
        else if c.row ≠ g.cfg.row ∧ isOuter s i = true then deny .inUse 0x21 s
        else
          let r := takeSegNumbers body c
          let t := event (amendSeg i g r.1 (clearsShortfall body)) s
          done (answer (okOr r.2) 0x21 (segAnswer i t) t)

/-- R22: READ_SEGMENT. -/
def execReadSegment (body : List Byte) (s : State) : Host.Outcome State Fault Refusal :=
  if body.length < 1 then deny .badField 0x22 s
  else
    let i := byteAt body 0
    if 31 < i then deny .badField 0x22 s
    else
      match seg? s i with
      | none => deny .noRecord 0x22 s
      | some g => done (answer .ok 0x22 (segRecord i g) s)

/-- R16: a luminaire, a station's scope, a presence coverage or another segment's outer link refers to a segment. -/
def segReferenced (s : State) (i : Nat) : Bool :=
  s.lums.any (fun e => e.2.place.map (·.segment) == some i)
    || s.inputs.any (fun e =>
        match e.2.device with
        | .station scope _ _ _ => scope.segment == i
        | .presence coverage _ => coverage.contains i
        | .photo _ _ => false)
    || isOuter s i

/-- R16: the override records of a segment are retired, then its record leaves. -/
def retireSeg (i : Nat) (s : State) : State :=
  let t := retireRecords (fun o => o.scope.segment == i) true s
  { t with segs := tabDel t.segs i }

/-- R16: RETIRE_SEGMENT. -/
def execRetireSegment (body : List Byte) (s : State) : Host.Outcome State Fault Refusal :=
  if body.length < 1 then deny .badField 0x23 s
  else
    let i := byteAt body 0
    if 31 < i then deny .badField 0x23 s
    else
      match seg? s i with
      | none => deny .noRecord 0x23 s
      | some _ =>
        if segReferenced s i then deny .inUse 0x23 s
        else done (answer .ok 0x23 [] (event (retireSeg i) s))

/-! ## Inputs -/

/-- R17, R21: the device of a kind before the request's fields. -/
def freshDevice : InputKind → Device
  | .photo => .photo ⟨3, 50, 1500, 1024⟩ unseeded
  | .presence => .presence [] none
  | .station => .station ⟨0, 0, 0⟩ 120 none none

/-- R17: an ENROL carries what its kind requires: a coverage, a scope. -/
def enrolComplete (k : InputKind) (body : List Byte) : Bool :=
  match k with
  | .photo => true
  | .presence | .station => (inputMask body).testBit 2

/-- R17, R21: ENROL_INPUT. -/
def execEnrolInput (body : List Byte) (s : State) : Host.Outcome State Fault Refusal :=
  if body.length < 12 then deny .badField 0x30 s
  else
    let a := byteAt body 0
    if 47 < a then deny .badField 0x30 s
    else
      match input? s a with
      | some _ => deny .existsAlready 0x30 s
      | none =>
        match kindOfCode (byteAt body 2) with
        | none => deny .badField 0x30 s
        | some k =>
          if carriesForeign k body || !enrolComplete k body then deny .badField 0x30 s
          else
            match takeDevice s body (freshDevice k) with
            | none => deny .badField 0x30 s
            | some (d, clamped) =>
              let p := takeNum 2 50 (defaultInterval k) (carriedAt (inputMask body) 0 (byteAt body 3))
              let m := takeNum 1 15 3 (carriedAt (inputMask body) 1 (byteAt body 4))
              let n : Input :=
                { device := d, interval := p.1, missLimit := m.1, link := .absent, missCount := 0,
                  pollTimer := startTimer p.1, changed := false }
              done (answer (okOr (clamped || p.2 || m.2)) 0x30 (inputRecord a n) (putInput a n s))

/-- R19: the segments that a change of coverage adds or removes. -/
def coverageDelta (old new : List Nat) : List Nat :=
  old.filter (fun i => !new.contains i) ++ new.filter fun i => !old.contains i

/-- R19, R96: an amended input record; the segments added to or removed from its coverage re-resolve. -/
def amendInputRecord (a : Nat) (old new : Input) (s : State) : State :=
  forEach (coverageDelta (coverageOf old.device) (coverageOf new.device)) (reResolve true) (putInput a new s)

/-- The record of an input as a table request answers it. -/
def inputAnswer (a : Nat) (s : State) : List Byte := ((input? s a).map (inputRecord a)).getD []

/-- R19: AMEND_INPUT. -/
def execAmendInput (body : List Byte) (s : State) : Host.Outcome State Fault Refusal :=
  if body.length < 12 then deny .badField 0x31 s
  else
    let a := byteAt body 0
    if 47 < a then deny .badField 0x31 s
    else
      match input? s a with
      | none => deny .noRecord 0x31 s
      | some n =>
        let k := deviceKind n.device
        if (byteAt body 2 ≠ 0 ∧ byteAt body 2 ≠ k.code) ∨ carriesForeign k body = true then deny .badField 0x31 s
        else
          match takeDevice s body n.device with
          | none => deny .badField 0x31 s
          | some (d, clamped) =>
            let p := takeNum 2 50 n.interval (carriedAt (inputMask body) 0 (byteAt body 3))
            let m := takeNum 1 15 n.missLimit (carriedAt (inputMask body) 1 (byteAt body 4))
            let t := event
              (amendInputRecord a n { n with device := d, interval := p.1, missLimit := m.1 }) s
            done (answer (okOr (clamped || p.2 || m.2)) 0x31 (inputAnswer a t) t)

/-- R22: READ_INPUT. -/
def execReadInput (body : List Byte) (s : State) : Host.Outcome State Fault Refusal :=
  if body.length < 1 then deny .badField 0x32 s
  else
    let a := byteAt body 0
    if 47 < a then deny .badField 0x32 s
    else
      match input? s a with
      | none => deny .noRecord 0x32 s
      | some n => done (answer .ok 0x32 (inputRecord a n) s)

/-- R20: a segment names the input as its primary or secondary sensor. -/
def namedAsSensor (s : State) (a : Nat) : Bool :=
  s.segs.any fun e => e.2.cfg.primary == some a || e.2.cfg.secondary == some a

/-- R20: the input line forgets an input: its due-list entry is removed, and a poll of it in flight acts on no record. -/
def forgetInput (a : Nat) (s : State) : State :=
  let l := s.inputLine
  putInputLine
    { l with
      due := l.due.filter (· != a)
      flight := match l.flight with
        | some (.due b mark) => some (.due b (if b = a then .retired else mark))
        | other => other } s

/-- R20: an input retired: its record leaves, the records of a station are retired, the segments that a presence input
covered re-resolve without it. -/
def retireInput (a : Nat) (n : Input) (s : State) : State :=
  let t := forgetInput a s
  let u := { t with inputs := tabDel t.inputs a }
  match n.device with
  | .photo _ _ => u
  | .presence coverage _ => forEach coverage (reResolve true) u
  | .station _ _ _ _ => retireStation a u

/-- R20: RETIRE_INPUT. -/
def execRetireInput (body : List Byte) (s : State) : Host.Outcome State Fault Refusal :=
  if body.length < 1 then deny .badField 0x33 s
  else
    let a := byteAt body 0
    if 47 < a then deny .badField 0x33 s
    else
      match input? s a with
      | none => deny .noRecord 0x33 s
      | some n =>
        if deviceKind n.device = .photo ∧ namedAsSensor s a = true then deny .inUse 0x33 s
        else done (answer .ok 0x33 [] (event (retireInput a n) s))

/-- R39: REINSTATE_INPUT. -/
def execReinstateInput (body : List Byte) (s : State) : Host.Outcome State Fault Refusal :=
  if body.length < 1 then deny .badField 0x34 s
  else
    let a := byteAt body 0
    if 47 < a then deny .badField 0x34 s
    else
      match input? s a with
      | none => deny .noRecord 0x34 s
      | some n =>
        match n.device with
        | .photo c m =>
          if m.state = .quarantined then
            let n' := { n with device := .photo c unseeded }
            done (answer .ok 0x34 (inputRecord a n') (putInput a n' s))
          else deny .notNow 0x34 s
        | _ => deny .badField 0x34 s

/-- R44: the calibration ratio that a measured task illuminance gives at F: M × 1024 / F rounded to nearest with halves
up, limited to 1 to 4095; and whether it was limited. -/
def calibrated (m f : Nat) : Nat × Bool :=
  let k := divNearest (m * 1024) f
  (clampTo 1 4095 k, clampTo 1 4095 k != k)

/-- R43, R44: CALIBRATE. -/
def execCalibrate (body : List Byte) (s : State) : Host.Outcome State Fault Refusal :=
  if body.length < 3 then deny .badField 0x40 s
  else
    let i := byteAt body 0
    let m := min (word2At body 1) 2000
    if 31 < i then deny .badField 0x40 s
    else
      match seg? s i with
      | none => deny .noRecord 0x40 s
      | some g =>
        match activeSensor s g with
        | none => deny .notNow 0x40 s
        | some a =>
          match input? s a with
          | none => deny .notNow 0x40 s
          | some n =>
            match n.device with
            | .photo c meas =>
              if filtered meas = 0 then deny .notNow 0x40 s
              else
                let k := calibrated m (filtered meas)
                done (answer (okOr (decide (2000 < word2At body 1) || k.2)) 0x40
                  ([byte i, byte a] ++ bytes2 (filtered meas) ++ bytes2 k.1)
                  (putInput a { n with device := .photo { c with ratio := k.1 } meas } s))
            | _ => deny .notNow 0x40 s

end Sys2Proof.Machine
end

