-- ==== Sys2Proof/Machine/Harvest.lean ====
section
/-! DEFINITION. The events of the harvest controllers: the expiries of their four timers (chapter 3). An expiry command
whose timer is not due is no event: nothing changes (log 2). -/

namespace Sys2Proof.Machine

/-- R53: STEP_EVENT. -/
def execStepEvent (i : Nat) (s : State) : Host.Outcome State Fault Refusal :=
  done (event (stepExpiry i) s)

/-- R62: the record of a segment after its off-delay expires: restarted while the outer segment of an active link is
lit, otherwise DAYLIT. -/
def offDelayed (s : State) (g : Segment) : Segment :=
  match activeOuter s g with
  | some u =>
    if 0 < u.h then { g with offTimer := startTimer (offDelayTenths g.cfg) }
    else { g with ctl := .daylit, h := 0, offTimer := none, shortTimer := none }
  | none => { g with ctl := .daylit, h := 0, offTimer := none, shortTimer := none }

/-- R62: OFF_DELAY_EXPIRY. -/
def execOffDelayExpiry (i : Nat) (s : State) : Host.Outcome State Fault Refusal :=
  done (event (segExpiry i (·.offTimer) fun g t => putSeg i (offDelayed t g) t) s)

/-- R67: the record of a segment after its blind timer expires. -/
def fellBack (g : Segment) : Segment :=
  { g with
    h := max g.h (min g.cfg.fallback g.effCap)
    ctl := .tracking
    offTimer := if g.ctl = .dwell then none else g.offTimer
    blindTimer := none }

/-- R67: BLIND_TIMER_EXPIRY. -/
def execBlindTimerExpiry (i : Nat) (s : State) : Host.Outcome State Fault Refusal :=
  done (event (segExpiry i (·.blindTimer) fun g t => putRising i g (fellBack g) t) s)

/-- R73: SHORTFALL_TIMER_EXPIRY. -/
def execShortfallTimerExpiry (i : Nat) (s : State) : Host.Outcome State Fault Refusal :=
  done (segExpiry i (·.shortTimer)
    (fun g => putSeg i { g with shortfall := true, changed := true, shortTimer := none }) s)

end Sys2Proof.Machine
end

