-- ==== Sys2Proof/Machine/InputLine.lean ====
section
/-! DEFINITION. The events of the input line (chapter 9). A command that names an event which the state says cannot occur
(a reply with no poll in flight, a break with the pin high) is no event: nothing changes (logs 2, 6 and 7). -/

namespace Sys2Proof.Machine

/-- R152: POLL_TIMER_EXPIRY: the timer restarts, and on a RUNNING line the input joins the due list unless it is in it. -/
def execPollTimerExpiry (a : Nat) (s : State) : Host.Outcome State Fault Refusal :=
  done (onInput a (fun n t =>
    if timerDue n.pollTimer then
      let u := putInput a (restartPoll n) t
      let l := u.inputLine
      if l.state = .running then
        arbitrateInput (if l.due.contains a then u else putInputLine { l with due := l.due ++ [a] } u)
      else u
    else t) s)

/-- The end of a due poll: the poll is cleared, `f` acts where the poll's end acts on its input, the arbiter chooses. -/
def endDuePoll (f : State → State) (s : State) : State := arbitrateInput (f (clearPoll s))

/-- R154: INPUT_REPLY: a valid reply of the enrolled kind to a due poll. The reply to a poll whose record was retired, or
whose reply a warm reset discards, acts on nothing (R20, R163). -/
def execInputReply (bytes : List LineByte) (s : State) : Host.Outcome State Fault Refusal :=
  match s.inputLine.flight with
  | some (.due a mark) =>
    match decodeInputReply a bytes with
    | some v =>
      if mark = .live then
        if kindAt s a = some v.kind then done (endDuePoll (takeReply a v) s) else done s
      else done (endDuePoll id s)
    | none => done s
  | _ => done s

/-- R156: INPUT_REPLY_WRONG_KIND: a valid reply of another kind to a due poll. -/
def execInputReplyWrongKind (bytes : List LineByte) (s : State) : Host.Outcome State Fault Refusal :=
  match s.inputLine.flight with
  | some (.due a mark) =>
    match decodeInputReply a bytes with
    | some v =>
      if mark = .live then
        if kindAt s a = some v.kind then done s
        else done (endDuePoll (event (dropLink a .wrongKind 0)) s)
      else done (endDuePoll id s)
    | none => done s
  | _ => done s

/-- R157: POLL_NO_REPLY: a due poll that drew no reply. A poll whose reply a warm reset would have discarded still counts
as a miss (log 9). -/
def execPollNoReply (s : State) : Host.Outcome State Fault Refusal :=
  match s.inputLine.flight with
  | some (.due a mark) => done (endDuePoll (if mark = .retired then id else event (pollMissed a)) s)
  | _ => done s

/-- R160: SPOT_POLL_END: a reply of any of the three kinds, or NO REPLY. -/
def execSpotPollEnd (bytes : List LineByte) (s : State) : Host.Outcome State Fault Refusal :=
  match s.inputLine.flight with
  | some (.spot a) => done (arbitrateInput (endSpot a (decodeInputReply a bytes) (clearPoll s)))
  | _ => done s

/-- R161: an input at a line DOWN: ABSENT with miss count 0, handed on where it was REPORTING, no change flag. -/
def inputDown (n : Input) : Input :=
  { n with
    link := .absent
    missCount := 0
    device := if n.link = .reporting then deviceLost n.device else n.device }

/-- R161, R96: the line goes DOWN: its poll is abandoned, its due list emptied, an outstanding spot read ends with NO
REPLY, every input becomes ABSENT, and every segment that a presence input covers re-resolves. -/
def goDownInput (s : State) : State :=
  let l := s.inputLine
  let ended := match l.spotRequest with
    | some r => endSpot r.address none s
    | none => s
  let cleared := putInputLine { ended.inputLine with state := .down, due := [], flight := none } ended
  let absent := flagFloor { cleared with inputs := tabMap cleared.inputs inputDown }
  forEach (s.inputs.flatMap fun e => coverageOf e.2.device) (reResolve false) absent

/-- R161: INPUT_LINE_DOWN: INRX has been low for 50 ms on a RUNNING line. On a DOWN line nothing changes (R162). -/
def execInputLineDown (s : State) : Host.Outcome State Fault Refusal :=
  if s.inputLine.state = .running ∧ s.inputLine.rxHigh = false then done (event goDownInput s) else done s

/-- R162: INPUT_LINE_RECOVERY: INRX has been high for 500 ms on a DOWN line. -/
def execInputLineRecovery (s : State) : Host.Outcome State Fault Refusal :=
  if s.inputLine.state = .down ∧ s.inputLine.rxHigh = true then
    done (arbitrateInput (flagFloor (putInputLine { s.inputLine with state := .running }
      { s with inputs := tabMap s.inputs restartPoll })))
  else done s

/-- R153: INRX_RETURNS_HIGH: the arbiter chooses. -/
def execInrxReturnsHigh (s : State) : Host.Outcome State Fault Refusal :=
  if s.inputLine.rxHigh then done s
  else done (arbitrateInput (putInputLine { s.inputLine with rxHigh := true } s))

/-- R162: INRX_FALLS_LOW: the arbiter begins no poll, and the break count or the recovery count starts anew (log 7). -/
def execInrxFallsLow (s : State) : Host.Outcome State Fault Refusal :=
  done (putInputLine { s.inputLine with rxHigh := false } s)

end Sys2Proof.Machine
end

