-- ==== Sys2Proof/Machine/Occupancy.lean ====
section
/-! DEFINITION. The events of the occupancy unit: the expiries of a segment's occupancy-hold and setback timers
(chapter 5). -/

namespace Sys2Proof.Machine

/-- R93: the occupancy-hold timer of a segment expires: SETBACK if the segment is watched, else the timer restarts. -/
def holdExpired (i : Nat) (g : Segment) (s : State) : State :=
  if watched s i then
    recomputeHeld i (putSeg i
      { g with
        activity := .setback
        holdTimer := none
        setbackTimer := startTimer (setbackTenths g.cfg)
        changed := true } s)
  else putSeg i { g with holdTimer := startTimer (holdTenths g.cfg) } s

/-- R93: OCCUPANCY_HOLD_EXPIRY. -/
def execOccupancyHoldExpiry (i : Nat) (s : State) : Host.Outcome State Fault Refusal :=
  done (event (segExpiry i (·.holdTimer) (holdExpired i)) s)

/-- R94: SETBACK_TIMER_EXPIRY. -/
def execSetbackTimerExpiry (i : Nat) (s : State) : Host.Outcome State Fault Refusal :=
  done (event (segExpiry i (·.setbackTimer) (goVacant i)) s)

end Sys2Proof.Machine
end

