-- ==== Sys2Proof/Machine/Overrides.lean ====
section
/-! DEFINITION. The requests on the override list (chapter 6). -/

namespace Sys2Proof.Machine

/-- R108: a PLACE OVERRIDE that passes its checks, as one event: an OCCUPANT placement first makes the segment OCCUPIED
(R95), a displaced record is retired, the record takes its place. -/
def placeFloor (cls : OvClass) (scope : Scope) (action : OvAction) (hold : Option Nat) (s : State) : State :=
  placeRecord .floor cls scope action hold
    (match cls with
      | .occupant => motion true scope.segment s
      | .facility => s)

/-- R173: the answer to PLACE OVERRIDE: the record, created or refreshed, the displaced handle or 0. -/
def placeAnswer (scope : Scope) (before after : State) : List Byte :=
  let old := findRecord .floor scope before.overrides.records
  ((findRecord .floor scope after.overrides.records).map overrideBytes).getD []
    ++ [byte (if old.isSome then 1 else 0)]
    ++ bytes2 (if old.isSome then 0 else displacedHandle before.overrides.records)

/-- R105: PLACE_OVERRIDE. -/
def execPlaceOverride (body : List Byte) (s : State) : Host.Outcome State Fault Refusal :=
  if body.length < 9 then deny .badField 0x50 s
  else
    let scope : Scope := ⟨byteAt body 1, byteAt body 2, byteAt body 3⟩
    if !scopeOk s scope then deny .badField 0x50 s
    else
      match classOf (byteAt body 0), actionOf (byteAt body 4) (signed2 (word2At body 5)) with
      | some cls, some (action, c1) =>
        let hold := holdOf cls (word2At body 7)
        if (findRecord .floor scope s.overrides.records).isNone && listRefuses s.overrides.records then
          deny .full 0x50 s
        else
          let t := event (placeFloor cls scope action hold.1) s
          done (answer (okOr (c1 || hold.2)) 0x50 (placeAnswer scope s t) t)
      | _, _ => deny .badField 0x50 s

/-- R109: CANCEL_OVERRIDE. -/
def execCancelOverride (body : List Byte) (s : State) : Host.Outcome State Fault Refusal :=
  if body.length < 2 then deny .badField 0x51 s
  else
    let h := word2At body 0
    if h = 0 then deny .badField 0x51 s
    else if s.overrides.records.any (·.handle == h) then
      done (answer .ok 0x51 [] (event (retireRecords (fun o => o.handle == h) false) s))
    else deny .noRecord 0x51 s

/-- R110: READ_OVERRIDES: the count and at most 8 records from the starting index. DESIGN CHOICE (log 23): R167 says that
READ OVERRIDES reports the list's change flag, R110 and the layout of R173 give the answer no place for it: the layout is
followed, and the flag is in no byte. The flag is not cleared, as both say. -/
def execReadOverrides (body : List Byte) (s : State) : Host.Outcome State Fault Refusal :=
  if body.length < 1 then deny .badField 0x52 s
  else
    let i := byteAt body 0
    if 23 < i then deny .badField 0x52 s
    else
      let l := s.overrides.records
      done (answer .ok 0x52 (byte l.length :: ((l.drop i).take 8).flatMap overrideBytes) s)

end Sys2Proof.Machine
end

