-- ==== Sys2Proof/Machine/Photo.lean ====
section
/-! DEFINITION. The expiry of a photosensor's quarantine timer (R38). -/

namespace Sys2Proof.Machine

/-- R38: QUARANTINE_TIMER_EXPIRY: the record enters UNSEEDED and the input's change flag is set. -/
def execQuarantineTimerExpiry (a : Nat) (s : State) : Host.Outcome State Fault Refusal :=
  done (onInput a (fun n t =>
    match n.device with
    | .photo c m =>
      if timerDue m.quarantineTimer then putInput a { n with device := .photo c unseeded, changed := true } t else t
    | _ => t) s)

end Sys2Proof.Machine
end

