-- ==== Sys2Proof/Machine/Port.lean ====
section
/-! DEFINITION. The requests of the port itself (chapter 10), the spot reads (9.7), the floor cap (7.4) and the tally
requests (7.8). -/

namespace Sys2Proof.Machine

/-- R164: NOP answers OK with an empty body. -/
def execNop (_body : List Byte) (s : State) : Host.Outcome State Fault Refusal := done (answer .ok 0x00 [] s)

/-- R165: BAD_REQUEST: nothing is executed; the echo is the code received, 0 if no byte arrived. -/
def execBadRequest (shifted : List Byte) (s : State) : Host.Outcome State Fault Refusal :=
  done (answer .badRequest (byteAt shifted 0) [] s)

/-! ## Spot reads -/

/-- R159: SPOT_READ. -/
def execSpotRead (body : List Byte) (s : State) : Host.Outcome State Fault Refusal :=
  if body.length < 1 then deny .badField 0x41 s
  else
    let a := byteAt body 0
    if 47 < a then deny .badField 0x41 s
    else if s.inputLine.spotRequest.isSome then deny .notNow 0x41 s
    else
      match s.inputLine.state with
      | .running =>
        done (answer .ok 0x41 []
          (arbitrateInput (putInputLine { s.inputLine with spotRequest := some ⟨a, false⟩ } s)))
      | .down => done (answer .ok 0x41 [] (endSpot a none s))

/-- R160: FETCH_SPOT. -/
def execFetchSpot (_body : List Byte) (s : State) : Host.Outcome State Fault Refusal :=
  match s.inputLine.spotRequest, s.inputLine.spotResult with
  | some _, _ => deny .pending 0x42 s
  | none, none => deny .noRecord 0x42 s
  | none, some r => done (answer .ok 0x42 (spotBytes r) s)

/-! ## The floor -/

/-- R124: SET_FLOOR_CAP. -/
def execSetFloorCap (body : List Byte) (s : State) : Host.Outcome State Fault Refusal :=
  if body.length < 3 then deny .badField 0x60 s
  else
    let v := takeNum 0 1000 0 (some (word2At body 0))
    let enable := byteAt body 2
    if 1 < enable then deny .badField 0x60 s
    else
      done (answer (okOr v.2) 0x60 (bytes2 v.1 ++ [byte enable])
        (recomputeAllCaps
          { s with composer := { s.composer with floorCap := v.1, floorCapOn := enable == 1 } }))

/-- R2: the number of luminaires enrolled on a line. -/
def lumCount (i : LineId) (s : State) : Nat := (enrolledOn i s).length

/-- R169, R173: the body of READ FLOOR. -/
def floorBody (s : State) : List Byte :=
  bytes2 Config.identity
    ++ [byte (bitAt 0 s.port.coldStart + bitAt 1 s.composer.shedAsserted + bitAt 2 s.composer.floorCapOn)]
    ++ bytes2 s.composer.floorCap
    ++ [byte (bitAt 0 (s.lineA.state == .down) + bitAt 1 (s.lineB.state == .down)
          + bitAt 2 (s.inputLine.state == .down)),
        byte (bitAt 0 ((s.inputLine.spotRequest.map (!·.inFlight)).getD false)
          + bitAt 1 ((s.inputLine.spotRequest.map (·.inFlight)).getD false) + bitAt 2 s.inputLine.spotResult.isSome),
        byte (lumCount .a s), byte (lumCount .b s), byte s.segs.length, byte s.inputs.length]

/-- R169: READ_FLOOR answers the floor state, and then clears the cold start flag. -/
def execReadFloor (_body : List Byte) (s : State) : Host.Outcome State Fault Refusal :=
  done (answer .ok 0x61 (floorBody s) { s with port := { s.port with coldStart := false } })

/-! ## Change flags -/

/-- A change flag by its record (R168). -/
inductive FlagKey where
  | floor
  | list
  | lum (key : Nat)
  | segment (id : Nat)
  | input (address : Nat)
deriving DecidableEq, Repr

/-- R168: the change flags that are set, in walk order. -/
def setFlags (s : State) : List FlagKey :=
  (if s.port.floorChanged then [FlagKey.floor] else [])
    ++ (if s.overrides.changed then [FlagKey.list] else [])
    ++ (s.lums.filter (·.2.changed)).map (fun e => FlagKey.lum e.1)
    ++ (s.segs.filter (·.2.changed)).map (fun e => FlagKey.segment e.1)
    ++ (s.inputs.filter (·.2.changed)).map (fun e => FlagKey.input e.1)

/-- R173: a pair of kind and key, the key 0 where the kind has none. -/
def flagBytes : FlagKey → List Byte
  | .floor => [byte 0, byte 0]
  | .list => [byte 1, byte 0]
  | .lum k => [byte 2, byteOfKey k]
  | .segment i => [byte 3, byte i]
  | .input a => [byte 4, byte a]

/-- R168: one change flag cleared. -/
def clearFlag (f : FlagKey) (s : State) : State :=
  match f with
  | .floor => { s with port := { s.port with floorChanged := false } }
  | .list => putOverrides { s.overrides with changed := false } s
  | .lum k => onLum k (fun l => putLum k { l with changed := false }) s
  | .segment i => onSeg i (fun g => putSeg i { g with changed := false }) s
  | .input a => onInput a (fun n => putInput a { n with changed := false }) s

/-- R168: READ_CHANGES returns and clears the first 16 set flags in walk order; the more indication says that a flag is
still set. -/
def execReadChanges (_body : List Byte) (s : State) : Host.Outcome State Fault Refusal :=
  let flags := (setFlags s).take 16
  let t := flags.foldl (fun u f => clearFlag f u) s
  done (answer .ok 0x62 ([byte flags.length, byte (anyChange t).toNat] ++ flags.flatMap flagBytes) t)

/-! ## Tallies -/

/-- R131: SNAPSHOT_TALLY. -/
def execSnapshotTally (_body : List Byte) (s : State) : Host.Outcome State Fault Refusal :=
  let n := if s.composer.snapshotNumber < 255 then s.composer.snapshotNumber + 1 else 1
  let entries := (List.range 32).map fun i => ((seg? s i).map (·.tally)).getD 0
  done (answer .ok 0x63 [byte n]
    { s with composer := { s.composer with snapshot := entries, snapshotNumber := n } })

/-- R132: READ_TALLY: at most 8 snapshot entries from the starting id, none beyond id 31. -/
def execReadTally (body : List Byte) (s : State) : Host.Outcome State Fault Refusal :=
  if body.length < 1 then deny .badField 0x64 s
  else
    let i := byteAt body 0
    if 31 < i then deny .badField 0x64 s
    else
      done (answer .ok 0x64
        ([byte s.composer.snapshotNumber, byte i] ++ ((s.composer.snapshot.drop i).take 8).flatMap bytes4) s)

end Sys2Proof.Machine
end

