-- ==== Sys2Proof/Machine/Reset.lean ====
section
/-! DEFINITION. The two resets (R170, R171), each block's values being those of its own chapter. -/

namespace Sys2Proof.Machine

/-- R48, R90, R120, R163: the device of an input at a warm reset: its measurement record UNSEEDED, no last report, no last
button, no recorded sequence; its configuration kept. -/
def warmDevice (d : Device) : Device :=
  match d with
  | .photo c _ => .photo c unseeded
  | .presence coverage _ => .presence coverage none
  | .station scope hold _ _ => .station scope hold none none

/-- R163: an input at a warm reset; its poll timer is restarted while the line is RUNNING. -/
def warmInput (running : Bool) (n : Input) : Input :=
  { n with
    device := warmDevice n.device
    link := .absent
    missCount := 0
    pollTimer := if running then startTimer n.interval else n.pollTimer
    changed := false }

/-- R78, R100, R133: a segment at a warm reset, before the depth ordering. -/
def warmSeg (c : Composer) (g : Segment) : Segment :=
  let cap := effectiveCap c g.cfg.cap
  let base : Segment :=
    { g with
      held := false, shortfall := false, offTimer := none, shortTimer := none, activity := .occupied,
      holdTimer := if g.cfg.sensing then startTimer (holdTenths g.cfg) else none, setbackTimer := none, effCap := cap,
      changed := false }
  match g.cfg.mode with
  | .harvest =>
    { base with
      ctl := .tracking, h := min g.cfg.fallback cap, blind := true,
      stepTimer := startTimer (shorterInterval g.cfg), blindTimer := startTimer (sensorlessTenths g.cfg) }
  | .manual => { base with ctl := .forced, blind := false, stepTimer := none, blindTimer := none }

/-- R149: a luminaire at a warm reset. -/
def warmLum (l : Luminaire) : Luminaire := { l with mismatchCount := 0, unconfirmed := false, changed := false }

/-- R149: a fixture line at a warm reset: its collections emptied; its state, scan mark and frame in flight kept. -/
def warmLine (l : FixtureLine) : FixtureLine := { l with queue := [], confirm := [], slot := none }

/-- R163: the input line at a warm reset: its due list emptied; the reply of a due poll in flight is discarded; the spot
request and result are kept. -/
def warmInputLine (l : InputLine) : InputLine :=
  { l with
    due := []
    flight := match l.flight with
      | some (.due a .live) => some (.due a .discard)
      | other => other }

/-- The runtime of every block reinitialised, up to the depth ordering (R170). -/
def warmBlocks (s : State) : State :=
  { s with
    lums := tabMap s.lums warmLum
    segs := tabMap s.segs (warmSeg s.composer)
    inputs := tabMap s.inputs (warmInput (s.inputLine.state == .running))
    overrides := { records := [], counter := 1, changed := false }
    composer := { s.composer with snapshot := List.replicate 32 0, snapshotNumber := 0 }
    lineA := warmLine s.lineA
    lineB := warmLine s.lineB
    inputLine := warmInputLine s.inputLine
    port := { s.port with floorChanged := true } }

/-- R88: the segments of a row. -/
def segsOfRow (s : State) (row : Nat) : List Nat := (s.segs.filter fun e => e.2.cfg.row == row).map (·.1)

/-- R88: one depth raise, not handed inward. -/
def raiseOnce (i : Nat) (s : State) : State :=
  onSeg i (fun g t =>
    match raised t g with
    | some g' => putSeg i g' t
    | none => t) s

/-- R88: the depth floor applied to the segments of a row. -/
def raiseRow (row : Nat) (s : State) : State := forEach (segsOfRow s row) raiseOnce s

/-- R133: a luminaire composed afresh, without a hand-over. -/
def composeOnly (s : State) (l : Luminaire) : Luminaire :=
  match l.place with
  | none => l
  | some p =>
    match seg? s p.segment with
    | none => l
    | some g => { l with composed := some (composeFrom l g.effCap (requestedLevel s g p)) }

/-- R133: every assigned luminaire composed afresh. -/
def composeAll (s : State) : State := { s with lums := tabMap s.lums (composeOnly s) }

/-- R149: the full refresh of a RUNNING line at a warm reset. -/
def warmRefresh (i : LineId) (s : State) : State := if (lineOf i s).state = .running then fullRefresh i s else s

/-- R170: the warm reset: the blocks, the depth floor in row order, the compositions, the refreshes. -/
def warmReset (s : State) : State :=
  warmRefresh .b (warmRefresh .a (composeAll (raiseRow 4 (raiseRow 3 (raiseRow 2 (warmBlocks s))))))

/-- R170: WARM_RESET. -/
def execWarmReset (_body : List Byte) (s : State) : Host.Outcome State Fault Refusal :=
  done (answer .ok 0x7F [] (warmReset s))

/-- R171: COLD_RESET: every block at its cold reset values, the contact state taken from the SHED pin (R123). The levels of
the receive pins are the outside's and stay (log 7); the queue and the draw counter are the model's and stay. -/
def execColdReset (low : Bool) (s : State) : Host.Outcome State Fault Refusal :=
  done
    { State.reset with
      composer := Composer.reset low
      lineA := { FixtureLine.reset with rxHigh := s.lineA.rxHigh }
      lineB := { FixtureLine.reset with rxHigh := s.lineB.rxHigh }
      inputLine := { InputLine.reset with rxHigh := s.inputLine.rxHigh }
      draws := s.draws
      pending := s.pending }

end Sys2Proof.Machine
end

