-- ==== Sys2Proof/Machine/TimeBase.lean ====
section
/-! DEFINITION. The time base (R1), the SHED contact (7.3) and the minute event (R111, R130). -/

namespace Sys2Proof.Machine

/-- R1: a tenth at the timers of a segment. -/
def tickSeg (g : Segment) : Segment :=
  { g with
    stepTimer := tickTimer g.stepTimer
    offTimer := tickTimer g.offTimer
    blindTimer := tickTimer g.blindTimer
    shortTimer := tickTimer g.shortTimer
    holdTimer := tickTimer g.holdTimer
    setbackTimer := tickTimer g.setbackTimer }

/-- R1: a tenth at the timers of an input. -/
def tickInput (n : Input) : Input :=
  { n with
    pollTimer := tickTimer n.pollTimer
    device := match n.device with
      | .photo c m => .photo c { m with quarantineTimer := tickTimer m.quarantineTimer }
      | d => d }

/-- R1: a tenth at the time base: at each 600th, a minute event becomes due at the composer and at the override list. -/
def tickTime (t : TimeBase) : TimeBase :=
  if t.phase + 1 < Config.minuteTenths then { t with phase := t.phase + 1 }
  else { phase := 0, tallyDue := true, holdsDue := true }

/-- R1: every countdown one tenth on. -/
def tickAll (s : State) : State :=
  { s with segs := tabMap s.segs tickSeg, inputs := tabMap s.inputs tickInput, time := tickTime s.time }

/-- R123: the contact state changes at this tenth: the level taken now and at the tenth before differs from it. -/
def contactChanges (low : Bool) (c : Composer) : Bool := c.shedPinLow == low && c.shedAsserted != low

/-- R123: the SHED pin taken at a tenth. A change of the contact state sets the floor change flag and recomputes every
effective cap. -/
def takeShed (low : Bool) (s : State) : State :=
  if contactChanges low s.composer then
    recomputeAllCaps (flagFloor { s with composer := { s.composer with shedAsserted := low, shedPinLow := low } })
  else { s with composer := { s.composer with shedPinLow := low } }

/-- R139: a tenth at the two fixture lines. -/
def fillSlots (s : State) : State := fillScanSlot .b (fillScanSlot .a s)

/-- R1, R123, R139: TENTH: the countdowns, then the SHED contact and the scan slots. Where the contact changes and a slot
is to be filled, the manual leaves the order of the two open, and so does the model (log 4). DESIGN CHOICE (log 24): a
change of the contact at a tenth is taken before every timer expiry and minute event that the same tenth makes due; the
manual leaves that order open (R83, R130). DESIGN CHOICE (log 28): an empty scan slot is filled, and an idle line begins its
frame, before every timer expiry and minute event that the same tenth makes due; the manual leaves that order open (R139). -/
def execTenth (low : Bool) (s : State) : Host.Outcome State Fault Refusal :=
  let t := tickAll s
  if contactChanges low t.composer && (scanFills .a t || scanFills .b t) then
    done (inEitherOrder (takeShed low) fillSlots t)
  else done (fillSlots (takeShed low t))

/-- R130: the sum of the composed levels of a segment's members. -/
def memberLevels (s : State) (i : Nat) : Nat :=
  ((members s i).map fun k => (((lum? s k).bind (·.composed)).map (·.level)).getD 0).sum

/-- R130: the composer takes a minute event: every tally rises by its members' composed levels, and saturates. -/
def addTallies (s : State) : State :=
  { s with
    segs := s.segs.map fun e => (e.1, { e.2 with tally := min Config.tallyMax (e.2.tally + memberLevels s e.1) })
    time := { s.time with tallyDue := false } }

/-- R111: the override list takes a minute event: holds are counted down and the records that reach 0 retired, at one
event. -/
def takeHolds (s : State) : State := event countHolds { s with time := { s.time with holdsDue := false } }

/-- R130: MINUTE_EVENT: the minute boundary at the composer and then at the override list, each unless it has taken it
(log 5). Before the boundary it is no event. -/
def execMinuteEvent (s : State) : Host.Outcome State Fault Refusal :=
  let t := if s.time.tallyDue then addTallies s else s
  done (if t.time.holdsDue then takeHolds t else t)

/-- R111, R130: OVERRIDE_HOLD_EXPIRY: at the minute boundary the override list takes the minute event before the composer,
the record named being one whose hold reaches 0 at it (log 5). -/
def execOverrideHoldExpiry (handle : Nat) (s : State) : Host.Outcome State Fault Refusal :=
  if s.time.holdsDue && s.overrides.records.any (fun o => o.handle == handle && o.hold == some 1) then
    done (takeHolds s)
  else done s

end Sys2Proof.Machine
end

