-- ==== Sys2Proof/Machine/Dispatch.lean ====
section
/-! DEFINITION. The dispatch: one direct call of a meaning for each command. -/

namespace Sys2Proof.Machine

open Sys2Proof

def exec (i : Instr) (s : State) : Host.Outcome State Fault Refusal :=
  match i with
  | .nop body => Sys2Proof.Machine.execNop body s
  | .badRequest shifted => Sys2Proof.Machine.execBadRequest shifted s
  | .enrolLuminaire body => Sys2Proof.Machine.execEnrolLuminaire body s
  | .amendLuminaire body => Sys2Proof.Machine.execAmendLuminaire body s
  | .readLuminaire body => Sys2Proof.Machine.execReadLuminaire body s
  | .retireLuminaire body => Sys2Proof.Machine.execRetireLuminaire body s
  | .defineSegment body => Sys2Proof.Machine.execDefineSegment body s
  | .amendSegment body => Sys2Proof.Machine.execAmendSegment body s
  | .readSegment body => Sys2Proof.Machine.execReadSegment body s
  | .retireSegment body => Sys2Proof.Machine.execRetireSegment body s
  | .enrolInput body => Sys2Proof.Machine.execEnrolInput body s
  | .amendInput body => Sys2Proof.Machine.execAmendInput body s
  | .readInput body => Sys2Proof.Machine.execReadInput body s
  | .retireInput body => Sys2Proof.Machine.execRetireInput body s
  | .reinstateInput body => Sys2Proof.Machine.execReinstateInput body s
  | .calibrate body => Sys2Proof.Machine.execCalibrate body s
  | .spotRead body => Sys2Proof.Machine.execSpotRead body s
  | .fetchSpot body => Sys2Proof.Machine.execFetchSpot body s
  | .placeOverride body => Sys2Proof.Machine.execPlaceOverride body s
  | .cancelOverride body => Sys2Proof.Machine.execCancelOverride body s
  | .readOverrides body => Sys2Proof.Machine.execReadOverrides body s
  | .setFloorCap body => Sys2Proof.Machine.execSetFloorCap body s
  | .readFloor body => Sys2Proof.Machine.execReadFloor body s
  | .readChanges body => Sys2Proof.Machine.execReadChanges body s
  | .snapshotTally body => Sys2Proof.Machine.execSnapshotTally body s
  | .readTally body => Sys2Proof.Machine.execReadTally body s
  | .warmReset body => Sys2Proof.Machine.execWarmReset body s
  | .coldReset shedLow => Sys2Proof.Machine.execColdReset shedLow s
  | .tenth shedLow => Sys2Proof.Machine.execTenth shedLow s
  | .minuteEvent => Sys2Proof.Machine.execMinuteEvent s
  | .overrideHoldExpiry handle => Sys2Proof.Machine.execOverrideHoldExpiry handle s
  | .stepEvent segment => Sys2Proof.Machine.execStepEvent segment s
  | .offDelayExpiry segment => Sys2Proof.Machine.execOffDelayExpiry segment s
  | .blindTimerExpiry segment => Sys2Proof.Machine.execBlindTimerExpiry segment s
  | .shortfallTimerExpiry segment => Sys2Proof.Machine.execShortfallTimerExpiry segment s
  | .quarantineTimerExpiry input => Sys2Proof.Machine.execQuarantineTimerExpiry input s
  | .occupancyHoldExpiry segment => Sys2Proof.Machine.execOccupancyHoldExpiry segment s
  | .setbackTimerExpiry segment => Sys2Proof.Machine.execSetbackTimerExpiry segment s
  | .pollTimerExpiry input => Sys2Proof.Machine.execPollTimerExpiry input s
  | .inputReply bytes => Sys2Proof.Machine.execInputReply bytes s
  | .inputReplyWrongKind bytes => Sys2Proof.Machine.execInputReplyWrongKind bytes s
  | .pollNoReply => Sys2Proof.Machine.execPollNoReply s
  | .spotPollEnd bytes => Sys2Proof.Machine.execSpotPollEnd bytes s
  | .inputLineDown => Sys2Proof.Machine.execInputLineDown s
  | .inputLineRecovery => Sys2Proof.Machine.execInputLineRecovery s
  | .inrxReturnsHigh => Sys2Proof.Machine.execInrxReturnsHigh s
  | .levelFrameEnd line => Sys2Proof.Machine.execLevelFrameEnd line s
  | .driverReply line bytes => Sys2Proof.Machine.execDriverReply line bytes s
  | .queryNoReply line => Sys2Proof.Machine.execQueryNoReply line s
  | .fixtureLineDown line => Sys2Proof.Machine.execFixtureLineDown line s
  | .fixtureLineRecovery line => Sys2Proof.Machine.execFixtureLineRecovery line s
  | .fixtureRxReturnsHigh line => Sys2Proof.Machine.execFixtureRxReturnsHigh line s
  | .fixtureRxFallsLow line => Sys2Proof.Machine.execFixtureRxFallsLow line s
  | .inrxFallsLow => Sys2Proof.Machine.execInrxFallsLow s

end Sys2Proof.Machine
end

