-- ==== Sys2Proof/Safety.lean ====
section
/-! DEFINITION. What the manual promises of every state: its laws, as decidable predicates of the state, and what it is
for a law to be kept. -/

namespace Sys2Proof.Machine

/-- A law that every step keeps, from every state that meets it. -/
def KeptByStep (p : State → Prop) : Prop := ∀ s t : State, p s → step s = .next t → p t

/-- A law that every step keeps, from every state that meets it and the laws `inv`, each of which is kept in its turn. -/
def KeptUnder (inv p : State → Prop) : Prop := ∀ s t : State, inv s → p s → step s = .next t → p t

/-- R169: ATTN is asserted exactly when at least one change flag or the cold start flag is set. -/
abbrev AttnOk (s : State) : Prop := s.port.attn = (anyChange s || s.port.coldStart)

/-- R2: one place for every key: each table is in its canonical form, its keys in their range. -/
abbrev TablesOk (s : State) : Prop := tabWf 128 s.lums ∧ tabWf 32 s.segs ∧ tabWf 48 s.inputs

/-! ## Configuration (R6, R7, R12, R17, R18) -/

/-- R6, R7: the settings of a luminaire stand in their ranges, the maximum between the minimum and 1000. -/
abbrev lumConfigOk (l : Luminaire) : Prop :=
  50 ≤ l.trim ∧ l.trim ≤ 150 ∧ 1 ≤ l.minLevel ∧ l.minLevel ≤ 300 ∧ l.minLevel ≤ l.maxLevel ∧ l.maxLevel ≤ 1000

/-- R12: the settings of a segment stand in their ranges, S between C and 1000. -/
abbrev segConfigOk (c : SegConfig) : Prop :=
  1 ≤ c.row ∧ c.row ≤ 4 ∧ c.manualLevel ≤ 1000 ∧ c.target ≤ 2000 ∧ c.tolerance ≤ 255 ∧ c.relightMargin ≤ 500
    ∧ 1 ≤ c.upStep ∧ c.upStep ≤ 200 ∧ 1 ≤ c.downStep ∧ c.downStep ≤ 200 ∧ 1 ≤ c.upInterval ∧ c.upInterval ≤ 255
    ∧ 1 ≤ c.downInterval ∧ c.downInterval ≤ 255 ∧ c.cutOff ≤ 500 ∧ 1 ≤ c.offDelay ∧ c.offDelay ≤ 3600
    ∧ c.cutOff ≤ c.strikeLevel ∧ c.strikeLevel ≤ 1000 ∧ c.fallback ≤ 1000 ∧ 1 ≤ c.sensorless ∧ c.sensorless ≤ 600
    ∧ 1 ≤ c.shortfallTime ∧ c.shortfallTime ≤ 255 ∧ c.cap ≤ 1000 ∧ 1 ≤ c.occupancyHold ∧ c.occupancyHold ≤ 120
    ∧ 1 ≤ c.setbackTime ∧ c.setbackTime ≤ 120 ∧ c.setbackLevel ≤ 1000

/-- R17, R18: the fields of an input's kind stand in their ranges. -/
def deviceConfigOk (d : Device) : Bool :=
  match d with
  | .photo c _ =>
    decide (c.shift ≤ 6) && decide (1 ≤ c.tolerance) && decide (c.tolerance ≤ 1000) && decide (c.spike ≤ 65535)
      && decide (1 ≤ c.ratio) && decide (c.ratio ≤ 4095)
  | .presence coverage _ => decide (1 ≤ coverage.length) && decide (coverage.length ≤ 4) && decide coverage.Nodup
  | .station scope hold _ _ =>
    decide (scope.first ≤ scope.last) && decide (scope.last ≤ 15) && decide (1 ≤ hold) && decide (hold ≤ 720)

/-- R17: the settings of an input stand in their ranges. -/
abbrev inputConfigOk (n : Input) : Prop :=
  2 ≤ n.interval ∧ n.interval ≤ 50 ∧ 1 ≤ n.missLimit ∧ n.missLimit ≤ 15 ∧ deviceConfigOk n.device = true

/-- R3, R7, R12, R17: every setting of every record stands in its range. -/
abbrev ConfigOk (s : State) : Prop :=
  (∀ e ∈ s.lums, lumConfigOk e.2) ∧ (∀ e ∈ s.segs, segConfigOk e.2.cfg) ∧ ∀ e ∈ s.inputs, inputConfigOk e.2

/-! ## References (R11, R13, R16, R18) -/

/-- A segment is defined at an id. -/
def segDefined (s : State) (i : Nat) : Bool := (seg? s i).isSome

/-- R11: a luminaire's assignment names a defined segment and a position from 0 to 15. -/
def placeOk (s : State) (p : Option Place) : Bool :=
  match p with
  | none => true
  | some q => segDefined s q.segment && decide (q.position ≤ 15)

/-- R18: the segments that an input refers to are defined. -/
def deviceRefsOk (s : State) (d : Device) : Bool :=
  match d with
  | .photo _ _ => true
  | .presence coverage _ => coverage.all (segDefined s)
  | .station scope _ _ _ => segDefined s scope.segment

/-- R11, R13, R16, R18: every reference in the floor model and in the override list is valid, and no two luminaires share
a position. -/
abbrev RefsOk (s : State) : Prop :=
  (∀ e ∈ s.lums, placeOk s e.2.place = true)
    ∧ s.lums.Pairwise (fun a b => a.2.place = none ∨ a.2.place ≠ b.2.place)
    ∧ (∀ e ∈ s.segs, 1 ≤ e.2.cfg.row ∧ e.2.cfg.row ≤ 4 ∧ refsFit s e.1 e.2.cfg = true)
    ∧ (∀ e ∈ s.inputs, deviceRefsOk s e.2.device = true)
    ∧ ∀ o ∈ s.overrides.records, segDefined s o.scope.segment = true

/-! ## The override list (R101, R102, R104) -/

/-- R101: the fields of a record stand in their ranges and fit each other. -/
def recordOk (o : Override) : Bool :=
  decide (1 ≤ o.handle) && decide (o.handle ≤ 65535) && decide (o.scope.first ≤ o.scope.last)
    && decide (o.scope.last ≤ 15)
    && (match o.origin with
      | .floor => true
      | .station _ => o.cls == .occupant)
    && (match o.action with
      | .set v => decide (v ≤ 1000)
      | .nudge d => decide (-500 ≤ d) && decide (d ≤ 500)
      | .off => true)
    && match o.hold with
      | none => o.cls == .facility
      | some h => decide (1 ≤ h) && decide (h ≤ 720)

/-- R101, R102, R104: at most 24 records; no two with the same origin and scope, none with the same handle; FACILITY before
OCCUPANT; the handle counter in its range. -/
abbrev OverridesOk (s : State) : Prop :=
  s.overrides.records.length ≤ 24
    ∧ s.overrides.records.Pairwise (fun a b => ¬(a.origin = b.origin ∧ a.scope = b.scope))
    ∧ s.overrides.records.Pairwise (fun a b => a.handle ≠ b.handle)
    ∧ s.overrides.records.Pairwise (fun a b => a.cls = .facility ∨ b.cls = .occupant)
    ∧ (∀ o ∈ s.overrides.records, recordOk o = true)
    ∧ 1 ≤ s.overrides.counter ∧ s.overrides.counter ≤ 65535

/-! ## The fixture lines (R135, R136) -/

/-- A luminaire is enrolled at a key of a line. -/
def enrolledAt (s : State) (i : LineId) (k : Nat) : Bool := keyLine k == i && (lum? s k).isSome

/-- R136: a line's level queue and its confirm list hold at most one entry per luminaire, and only luminaires enrolled on
that line; so does its scan slot, and a frame in flight names a luminaire of that line. -/
abbrev lineOk (s : State) (i : LineId) (l : FixtureLine) : Prop :=
  (l.queue.map (·.key)).Nodup ∧ (∀ e ∈ l.queue, enrolledAt s i e.key = true)
    ∧ l.confirm.Nodup ∧ (∀ k ∈ l.confirm, enrolledAt s i k = true)
    ∧ (∀ k ∈ l.slot, enrolledAt s i k = true)
    ∧ (∀ f ∈ l.flight, keyLine f.key = i)
    ∧ (l.state = .down → l.queue = [] ∧ l.confirm = [] ∧ l.slot = none ∧ l.flight = none)

/-- R136, R147: both fixture lines. -/
abbrev LinesOk (s : State) : Prop := lineOk s .a s.lineA ∧ lineOk s .b s.lineB

/-- R138: a luminaire is enrolled at a key and AWAITING. -/
def awaitingAt (s : State) (k : Nat) : Bool := (lum? s k).any fun l => l.confirmation == .awaiting

/-- R138: a luminaire in a confirm list is AWAITING. -/
abbrev AwaitingOk (s : State) : Prop :=
  (∀ k ∈ s.lineA.confirm, awaitingAt s k = true) ∧ ∀ k ∈ s.lineB.confirm, awaitingAt s k = true

/-- R135, R143, R144: a luminaire is SILENT exactly when three queries in a row drew no reply; its counts stay in their
ranges, and a mismatch count of 3 goes with UNCONFIRMED. -/
abbrev MissesOk (s : State) : Prop :=
  ∀ e ∈ s.lums, e.2.missCount ≤ 3 ∧ (e.2.link = .silent ↔ e.2.missCount = 3) ∧ e.2.mismatchCount ≤ 3
    ∧ (e.2.mismatchCount = 3 → e.2.unconfirmed = true)

/-- 00_scope.md, R135: a driver code from 0 to 254. -/
def codeOk (c : Option Nat) : Bool := c.all (· ≤ 254)

/-- The code that a frame in flight carries, if it is a LEVEL frame. -/
def FixtureFlight.levelCode (f : FixtureFlight) : Option Nat :=
  match f.kind with
  | .level c => some c
  | _ => none

/-- 00_scope.md, R134, R135: code 255 is in no LEVEL frame: every composed, queued, sent and in-flight code is at most
254. -/
abbrev lineCodesOk (l : FixtureLine) : Prop :=
  (∀ q ∈ l.queue, q.code ≤ 254) ∧ codeOk (l.flight.bind FixtureFlight.levelCode) = true

/-- The codes of every luminaire and of both lines. -/
abbrev CodesOk (s : State) : Prop :=
  (∀ e ∈ s.lums, codeOk (e.2.composed.map (·.code)) = true ∧ codeOk e.2.sentCode = true)
    ∧ lineCodesOk s.lineA ∧ lineCodesOk s.lineB

/-! ## The input line (R151) -/

/-- R151, R160: the poll in flight and the spot request fit each other, and a live due poll names an enrolled input. -/
def flightFits (s : State) : Bool :=
  match s.inputLine.flight with
  | some (.spot a) => s.inputLine.spotRequest == some ⟨a, true⟩
  | some (.due a .live) => (input? s a).isSome
  | _ => true

/-- R151, R152, R160, R161: one due-list entry per enrolled input; a spot request is IN FLIGHT exactly while its POLL is; a
live due poll names an enrolled input; a line that is DOWN has no poll, no due input and no spot read outstanding. -/
abbrev InputLineOk (s : State) : Prop :=
  s.inputLine.due.Nodup ∧ (∀ a ∈ s.inputLine.due, (input? s a).isSome = true)
    ∧ (∀ r ∈ s.inputLine.spotRequest, r.inFlight = true → s.inputLine.flight = some (.spot r.address))
    ∧ flightFits s = true
    ∧ (s.inputLine.state = .down →
        s.inputLine.due = [] ∧ s.inputLine.flight = none ∧ s.inputLine.spotRequest = none)

/-- R27, R45, R90, R155, R158: what only a REPORTING input has: a SETTLING or SETTLED record, a last report, a recorded
sequence. -/
def reportOk (n : Input) : Bool :=
  n.link == .reporting ||
    match n.device with
    | .photo _ m => m.state == .unseeded || m.state == .quarantined
    | .presence _ last => last.isNone
    | .station _ _ _ sequence => sequence.isNone

/-- R158: every input. -/
abbrev ReportsOk (s : State) : Prop := ∀ e ∈ s.inputs, reportOk e.2 = true

/-! ## The harvest controllers and the depth ordering (R50, R79) -/

/-- R50: in HARVEST, H lies between 0 and the effective cap; in DAYLIT it is 0; in DWELL it does not exceed C. -/
abbrev harvestOk (g : Segment) : Prop :=
  g.cfg.mode = .harvest →
    g.h ≤ g.effCap ∧ (g.ctl = .daylit → g.h = 0) ∧ (g.ctl = .dwell → g.h ≤ g.cfg.cutOff) ∧ g.ctl ≠ .forced

/-- R50: a segment in MANUAL mode is FORCED. -/
abbrev manualOk (g : Segment) : Prop := g.cfg.mode = .manual → g.ctl = .forced

/-- R50: every segment keeps the controllers' law. -/
abbrev HarvestOk (s : State) : Prop := ∀ e ∈ s.segs, harvestOk e.2 ∧ manualOk e.2

/-- R79: for every active depth link, the inner segment's H is at least the smaller of the outer segment's H and the inner
segment's effective cap. -/
abbrev DepthOk (s : State) : Prop := ∀ e ∈ s.segs, depthFloor s e.2 ≤ e.2.h

/-! ## Occupancy and the held condition (R64, R89, R94, R96) -/

/-- R97: a segment with activity sensing off is OCCUPIED. -/
abbrev sensingOk (g : Segment) : Prop := g.cfg.sensing = false → g.activity = .occupied

/-- R94: no OCCUPANT-class override covers a segment whose activity state is VACANT. -/
abbrev VacantOk (s : State) : Prop :=
  ∀ e ∈ s.segs, sensingOk e.2 ∧ (e.2.activity = .vacant → ∀ o ∈ recordsOf s e.1, o.cls = .facility)

/-- R96: a segment with activity sensing on that is in SETBACK or VACANT is watched. -/
abbrev WatchedOk (s : State) : Prop :=
  ∀ e ∈ s.segs, e.2.cfg.sensing = true → e.2.activity ≠ .occupied → watched s e.1 = true

/-- R64: the held flag is set exactly while the segment is held. -/
abbrev HeldOk (s : State) : Prop := ∀ e ∈ s.segs, e.2.held = isHeld s e.1 e.2

/-- R50, R53, R61, R65, R72, R89: when the timers of a segment may run. -/
abbrev segTimersOk (g : Segment) : Prop :=
  (g.stepTimer.isSome = true ↔ g.cfg.mode = .harvest)
    ∧ (g.offTimer.isSome = true → g.ctl = .dwell ∧ g.held = false)
    ∧ (g.blindTimer.isSome = true → g.cfg.mode = .harvest)
    ∧ (g.shortTimer.isSome = true →
        (g.ctl = .tracking ∨ g.ctl = .dwell) ∧ g.held = false ∧ g.shortfall = false)
    ∧ (g.holdTimer.isSome = true ↔ g.cfg.sensing = true ∧ g.activity = .occupied)
    ∧ (g.setbackTimer.isSome = true ↔ g.activity = .setback)

/-- The timers of every segment. -/
abbrev TimersOk (s : State) : Prop := ∀ e ∈ s.segs, segTimersOk e.2

/-! ## The photosensor channel (R25) -/

/-- R25: the fields of a measurement record fit its state. -/
def measOk (m : Measurement) : Bool :=
  decide (m.acc ≤ 16776960)
    && (m.f0.isSome == (m.state == .settled || m.state == .quarantined))
    && decide (m.settleCount ≤ 3) && (m.state == .settling || m.settleCount == 0)
    && (m.state == .settled || (m.pendingJump == false && m.window == none))
    && (m.quarantineTimer.isSome == (m.state == .quarantined))
    && (m.state != .unseeded || m.acc == 0)
    && match m.window with
      | none => true
      | some w => decide (1 ≤ w.remaining) && decide (w.remaining ≤ 16) && decide (1 ≤ w.reseeds) && decide (w.reseeds ≤ 2)

/-- R25: every measurement record. -/
abbrev MeasurementsOk (s : State) : Prop :=
  ∀ e ∈ s.inputs,
    (match e.2.device with
      | .photo _ m => measOk m
      | _ => true) = true

/-! ## Composition (R125 to R127) -/

/-- R125 to R127: an assigned luminaire's composed level and code are those that the stages give on the records as they
stand; an unassigned one has none. -/
def currentOk (s : State) (l : Luminaire) : Bool :=
  match l.place with
  | none => l.composed.isNone
  | some p => (seg? s p.segment).any fun g => l.composed == some (composeFrom l g.effCap (requestedLevel s g p))

/-- R127: every composition is current. -/
abbrev CurrentOk (s : State) : Prop := ∀ e ∈ s.lums, currentOk s e.2 = true

/-! ## Delivery (R128, R136, R141, R148) -/

/-- The code that a line has sent last, or is about to send, to a luminaire: that of its level-queue entry, else that of its
LEVEL frame in flight, else its sent code. -/
def promisedCode (line : FixtureLine) (k : Nat) (l : Luminaire) : Option Nat :=
  ((line.queue.find? fun q => q.key == k).map (·.code)).orElse fun _ =>
    ((line.flight.bind fun f => if f.key = k ∧ f.retired = false then f.levelCode else none).orElse fun _ => l.sentCode)

/-- R128, R136, R148: on a RUNNING line, what is sent to an assigned luminaire ends with its composed code. -/
def deliveredOk (s : State) (k : Nat) (l : Luminaire) : Bool :=
  l.place.isNone || (lineOf (keyLine k) s).state == .down
    || promisedCode (lineOf (keyLine k) s) k l == l.composed.map (·.code)

/-- R128, R136, R148: every luminaire. -/
abbrev DeliveryOk (s : State) : Prop := ∀ e ∈ s.lums, deliveredOk s e.1 e.2 = true

/-- R122: the effective cap of a segment is the smallest of 1000, its segment cap, the enabled floor cap, and the contact cap
while the contact is ASSERTED. -/
abbrev CapsOk (s : State) : Prop := ∀ e ∈ s.segs, e.2.effCap = effectiveCap s.composer e.2.cfg.cap

/-- R1, R121, R124, R131: the floor-wide values and the tallies stand in their ranges. -/
abbrev CountersOk (s : State) : Prop :=
  s.time.phase < 600 ∧ s.composer.floorCap ≤ 1000 ∧ s.composer.snapshotNumber ≤ 255 ∧ s.composer.snapshot.length = 32
    ∧ (∀ n ∈ s.composer.snapshot, n ≤ Config.tallyMax) ∧ ∀ e ∈ s.segs, e.2.tally ≤ Config.tallyMax

/-! ## Depth raises, as the table of R81 gives them -/

/-- R81: the record that a depth raise from an outer segment at `outerH` leaves of a segment. -/
def afterRaise (outerH : Nat) (g : Segment) : Segment :=
  let target := min outerH g.effCap
  if target ≤ g.h then g
  else
    match g.ctl with
    | .forced => g
    | .tracking | .strike => { g with h := target }
    | .dwell => if g.cfg.cutOff < target then { g with h := target, ctl := .tracking, offTimer := none } else { g with h := target }
    | .daylit =>
      { g with ctl := .strike, h := min (max g.cfg.strikeLevel outerH) g.effCap, stepTimer := some g.cfg.upInterval }

/-- R79: the H of the segment that a record's outer link names, while the link is active; 0 where it is not. -/
def linkedH (s : State) (g : Segment) : Nat :=
  if g.cfg.mode = .harvest then
    (((g.cfg.outer.bind (seg? s)).filter fun u => u.cfg.mode == .harvest).map (·.h)).getD 0
  else 0

/-- R82, R86: the segments whose active link names segment `i` as their outer segment take a depth raise from `h`. -/
abbrev InnerTakeRaise (s t : State) (i h : Nat) : Prop :=
  ∀ j : Nat, ∀ v ∈ seg? s j, v.cfg.outer = some i → v.cfg.mode = .harvest → seg? t j = some (afterRaise h v)

/-! ## What a command leaves alone -/

/-- What a recomposition and its hand-over leave of a luminaire record (R128, R137): all but the composed fields, UNCONFIRMED
and the mismatch count. -/
def lumSettings (l : Luminaire) : Luminaire := { l with composed := none, unconfirmed := false, mismatchCount := 0 }

/-- What a hand-over and the arbiter leave of a fixture line: its state, its scan mark, its pin. -/
def lineSettings (l : FixtureLine) : FixtureLine := { l with queue := [], confirm := [], slot := none, flight := none }

/-- Luminaires and fixture lines differ by recompositions and hand-overs at the most. -/
abbrev OnlyRecomposed (s t : State) : Prop :=
  (∀ k : Nat, (lum? t k).map lumSettings = (lum? s k).map lumSettings)
    ∧ lineSettings t.lineA = lineSettings s.lineA ∧ lineSettings t.lineB = lineSettings s.lineB

/-- Luminaires and fixture lines are as they were. -/
abbrev SameFixtures (s t : State) : Prop := t.lums = s.lums ∧ t.lineA = s.lineA ∧ t.lineB = s.lineB

/-- The composer, the input line, the time base and the queue of commands are as they were. -/
abbrev SameFloor (s t : State) : Prop :=
  t.composer = s.composer ∧ t.inputLine = s.inputLine ∧ t.time = s.time ∧ t.pending = s.pending

/-- The inputs, the override list and the floor are as they were. -/
abbrev SameAround (s t : State) : Prop := t.inputs = s.inputs ∧ t.overrides = s.overrides ∧ SameFloor s t

/-- All but the luminaires, the fixture lines and the port is as it was. -/
abbrev SameButFixtures (s t : State) : Prop := t.segs = s.segs ∧ SameAround s t

/-- The port is as it was, but for ATTN. -/
abbrev SamePort (s t : State) : Prop := t.port = { s.port with attn := t.port.attn }

/-- The port is as it was, but for ATTN and the response it offers. -/
abbrev PortAnswers (s t : State) (st : Status) (code : Nat) (body : List Byte) : Prop :=
  t.port = { s.port with offered := { status := st, echo := byte code, body := body }, attn := t.port.attn }

/-- The port sets the floor change flag, and ATTN with it. -/
abbrev PortFlagsFloor (s t : State) : Prop := t.port = { s.port with floorChanged := true, attn := true }

/-- Every segment but one is as it was. -/
abbrev OtherSegsSame (s t : State) (i : Nat) : Prop := ∀ j : Nat, j ≠ i → seg? t j = seg? s j

/-- Every luminaire but one is as it was. -/
abbrev OtherLumsSame (s t : State) (i : Nat) : Prop := ∀ j : Nat, j ≠ i → lum? t j = lum? s j

/-- Every input but one is as it was. -/
abbrev OtherInputsSame (s t : State) (i : Nat) : Prop := ∀ j : Nat, j ≠ i → input? t j = input? s j

end Sys2Proof.Machine
end

