-- ==== Sys2Proof/Certificates/Slice0/Obligations.lean ====
section
/-! DEFINITION. The statements for the provers: what the commands do, and the laws that every step keeps. -/

open Sys2Proof Sys2Proof.Machine

/-! ## The queue and the port -/

/-- A step takes the command at the front of the queue and runs it with the queue's rest; on an empty queue the block idles.
The queue is the model's own (log 1). -/
def Obligations.StepRunsFrontCommand : Prop :=
  ∀ (s : State) (c : Instr) (rest : List Instr),
    (s.pending = c :: rest → step s = exec c { s with pending := rest }) ∧ (s.pending = [] → step s = .next s)

/-- R164, R172, R173: the frame of a request, whatever follows it in the transaction, is taken as that request. -/
def Obligations.RequestFramesDecode : Prop :=
  ∀ (i : Instr) (trailing : List Byte), i.wf = true → (requestParts i).isSome = true →
    ∃ frame, encodeFrame i = some frame ∧ decodeFrame (frame ++ trailing) = i

/-- R165: a transaction is a BAD REQUEST in exactly the four cases; its answer echoes the first byte received, 0 if none
arrived, and nothing else changes. -/
def Obligations.BadFramesAnswerBadRequest : Prop :=
  ∀ (s : State) (shifted : List Byte),
    (decodeFrame shifted = .badRequest shifted ↔
      shifted.length < 2 ∨ 40 < byteAt shifted 1 ∨ shifted.length < 2 + byteAt shifted 1
        ∨ byteAt shifted 0 ∉ catalogueCodes)
    ∧ exec (.badRequest shifted) s = .next
        { s with
          port :=
            { s.port with
              offered := { status := .badRequest, echo := byte (byteAt shifted 0), body := [] }
              attn := anyChange s || s.port.coldStart } }

/-- Every command answers a next state in every state: none faults, none is refused, and none touches the queue. That the
manual stops no command in any state is the model's reading of it (log 20); the queue is the model's own (log 1). -/
def Obligations.EveryCommandAnswers : Prop :=
  ∀ (s : State) (c : Instr), ∃ t, exec c s = .next t ∧ t.pending = s.pending

/-- R166: a request answered with another status than OK or CLAMPED changes nothing but the offered response, whose body is
empty. -/
def Obligations.RefusedRequestsChangeNothing : Prop :=
  ∀ (s t : State) (c : Instr), (requestParts c).isSome = true → exec c s = .next t →
    t.port.offered.status ≠ .ok → t.port.offered.status ≠ .clamped →
    t = { s with port := { s.port with offered := t.port.offered, attn := anyChange s || s.port.coldStart } }
      ∧ t.port.offered.body = []

/-- R4, R166: a request sets no change flag of a luminaire, a segment or an input; the list's flag only PLACE OVERRIDE, RETIRE
SEGMENT and RETIRE INPUT may set; the floor flag only WARM RESET and SPOT READ. -/
def Obligations.RequestsSetNoRecordFlags : Prop :=
  ∀ (s t : State) (c : Instr), (requestParts c).isSome = true → exec c s = .next t →
    (∀ k : Nat, ∀ l ∈ lum? t k, l.changed = true → (lum? s k).map (·.changed) = some true)
    ∧ (∀ k : Nat, ∀ g ∈ seg? t k, g.changed = true → (seg? s k).map (·.changed) = some true)
    ∧ (∀ k : Nat, ∀ n ∈ input? t k, n.changed = true → (input? s k).map (·.changed) = some true)
    ∧ (t.overrides.changed = true → s.overrides.changed = true
        ∨ (requestParts c).map (·.1) ∈ [some 0x50, some 0x23, some 0x33])
    ∧ (t.port.floorChanged = true → s.port.floorChanged = true ∨ (requestParts c).map (·.1) ∈ [some 0x7F, some 0x41])

/-- R3, R177: the requests of the three tables that are not taken: the first check that fails gives the answer. The body's layout
before all (log 11), then the key, EXISTS or NO RECORD, the structural fields (BAD FIELD; log 15), the conflicts (IN USE). The
references of a segment are judged where the request carries the row, the outer link or a sensor (log 13). -/
def Obligations.TableRequestsFailByTheirFirstCheck : Prop :=
  ∀ (s : State) (body : List Byte),
    let k := keyOfByte (byteAt body 0)
    let b := byteAt body 0
    let mask := byteAt body 1
    let refused (c : Instr) (code : Nat) (st : Status) := ∃ t, exec c s = .next t ∧
      PortAnswers s t st code [] ∧ t = { s with port := t.port }
    let taken := takeSegStructure body
    let scope : Scope := ⟨byteAt body 5, byteAt body 6, byteAt body 7⟩
    (body.length < 9 → refused (.enrolLuminaire body) 0x10 .badField ∧ refused (.amendLuminaire body) 0x11 .badField)
    ∧ (body.length < 40 → refused (.defineSegment body) 0x20 .badField ∧ refused (.amendSegment body) 0x21 .badField)
    ∧ (body.length < 12 → refused (.enrolInput body) 0x30 .badField ∧ refused (.amendInput body) 0x31 .badField)
    ∧ (body.length < 1 →
        refused (.readLuminaire body) 0x12 .badField ∧ refused (.retireLuminaire body) 0x13 .badField
        ∧ refused (.readSegment body) 0x22 .badField ∧ refused (.retireSegment body) 0x23 .badField
        ∧ refused (.readInput body) 0x32 .badField ∧ refused (.retireInput body) 0x33 .badField)
    ∧ (9 ≤ body.length →
        ((lum? s k).isSome = true → refused (.enrolLuminaire body) 0x10 .existsAlready)
        ∧ (lum? s k = none → mask.testBit 0 = true ∨ mask.testBit 1 = true →
            refused (.enrolLuminaire body) 0x10 .badField)
        ∧ (lum? s k = none → refused (.amendLuminaire body) 0x11 .noRecord)
        ∧ ∀ l ∈ lum? s k,
          let sg := byteAt body 2
          let pos := byteAt body 3
          let carriesNone := mask.testBit 0 = true ∧ sg = 255
          let carriesSome := mask.testBit 0 = true ∧ sg ≠ 255
          let moves := mask.testBit 0 = false ∧ mask.testBit 1 = true
          (carriesNone ∧ mask.testBit 1 = true → refused (.amendLuminaire body) 0x11 .badField)
          ∧ (carriesSome ∧ (31 < sg ∨ seg? s sg = none ∨ mask.testBit 1 = false ∨ 15 < pos) →
              refused (.amendLuminaire body) 0x11 .badField)
          ∧ (moves ∧ (l.place = none ∨ 15 < pos) → refused (.amendLuminaire body) 0x11 .badField)
          ∧ (carriesSome → sg ≤ 31 → (seg? s sg).isSome = true → mask.testBit 1 = true → pos ≤ 15 →
              (∃ e ∈ s.lums, e.1 ≠ k ∧ e.2.place = some ⟨sg, pos⟩) → refused (.amendLuminaire body) 0x11 .inUse)
          ∧ ∀ q ∈ l.place, moves → pos ≤ 15 → (∃ e ∈ s.lums, e.1 ≠ k ∧ e.2.place = some ⟨q.segment, pos⟩) →
              refused (.amendLuminaire body) 0x11 .inUse)
    ∧ (40 ≤ body.length →
        (31 < b → refused (.defineSegment body) 0x20 .badField ∧ refused (.amendSegment body) 0x21 .badField)
        ∧ (b ≤ 31 →
            ((seg? s b).isSome = true → refused (.defineSegment body) 0x20 .existsAlready)
            ∧ (seg? s b = none →
                ((segField body 0).isNone = true ∨ segEnumsOk body = false
                  ∨ refsFit s b (taken segDefaults) = false → refused (.defineSegment body) 0x20 .badField)
                ∧ refused (.amendSegment body) 0x21 .noRecord)
            ∧ ∀ g ∈ seg? s b,
              let bad := segEnumsOk body = false
                ∨ (carriesRefs body = true ∧ refsFit s b (taken g.cfg) = false)
              (bad → refused (.amendSegment body) 0x21 .badField)
              ∧ (¬bad → (taken g.cfg).row ≠ g.cfg.row → (∃ e ∈ s.segs, e.1 ≠ b ∧ e.2.cfg.outer = some b) →
                  refused (.amendSegment body) 0x21 .inUse)))
    ∧ (12 ≤ body.length →
        (47 < b → refused (.enrolInput body) 0x30 .badField ∧ refused (.amendInput body) 0x31 .badField)
        ∧ (b ≤ 47 →
            ((input? s b).isSome = true → refused (.enrolInput body) 0x30 .existsAlready)
            ∧ (input? s b = none →
                refused (.amendInput body) 0x31 .noRecord
                ∧ (byteAt body 2 ∉ [1, 2, 3]
                    ∨ (byteAt body 2 ≠ 1 ∧ (mask.testBit 2 = false ∨ mask.testBit 4 = true ∨ mask.testBit 5 = true))
                    ∨ (byteAt body 2 = 2 ∧ (mask.testBit 3 = true ∨ coverageIn s body = none))
                    ∨ (byteAt body 2 = 3 ∧ scopeOk s scope = false) →
                  refused (.enrolInput body) 0x30 .badField))
            ∧ ∀ n ∈ input? s b,
              let kind := (deviceKind n.device).code
              byteAt body 2 ∉ [0, kind]
                ∨ (kind ≠ 1 ∧ (mask.testBit 4 = true ∨ mask.testBit 5 = true))
                ∨ (kind = 2 ∧ (mask.testBit 3 = true ∨ (mask.testBit 2 = true ∧ coverageIn s body = none)))
                ∨ (kind = 3 ∧ mask.testBit 2 = true ∧ scopeOk s scope = false) →
              refused (.amendInput body) 0x31 .badField))
    ∧ (1 ≤ body.length →
        (lum? s k = none → refused (.readLuminaire body) 0x12 .noRecord ∧ refused (.retireLuminaire body) 0x13 .noRecord)
        ∧ (31 < b → refused (.readSegment body) 0x22 .badField ∧ refused (.retireSegment body) 0x23 .badField)
        ∧ (b ≤ 31 → seg? s b = none →
            refused (.readSegment body) 0x22 .noRecord ∧ refused (.retireSegment body) 0x23 .noRecord)
        ∧ (b ≤ 31 → (seg? s b).isSome = true → segReferenced s b = true → refused (.retireSegment body) 0x23 .inUse)
        ∧ (47 < b → refused (.readInput body) 0x32 .badField ∧ refused (.retireInput body) 0x33 .badField)
        ∧ (b ≤ 47 → input? s b = none →
            refused (.readInput body) 0x32 .noRecord ∧ refused (.retireInput body) 0x33 .noRecord)
        ∧ (b ≤ 47 → ∀ n ∈ input? s b, deviceKind n.device = .photo → namedAsSensor s b = true →
            refused (.retireInput body) 0x33 .inUse))

/-! ## The frames of the lines -/

/-- R174, R175: a byte on a line: a low start bit, eight data bits least significant first, odd parity, a high stop bit; it is read
back as it was sent, and it is good exactly when its parity and its stop bit are those it is sent with. R176: the frames that the part
sends, each byte so framed, the line idle high after them; a reply laid out as the table says is read as what the device said, and
(R134, R150) one whose byte is not good, or that is too short, is none. That the bytes of a frame follow each other with no idle time
between them, byte n beginning at bit time 11 n, is the model's choice (log 27): R174 gives no length. -/
def Obligations.LineFramesAreFramedAndRead : Prop :=
  (∀ b : LineByte,
    b.bits = [false, b.data[0], b.data[1], b.data[2], b.data[3], b.data[4], b.data[5], b.data[6], b.data[7],
      b.parity, b.stop]
    ∧ lineByteOf b.bits = some b
    ∧ (b.good = true ↔ b.stop = true ∧ (((b.bits.drop 1).take 9).count true) % 2 = 1)
    ∧ (b.good = true ↔ b = LineByte.sent b.data))
  ∧ (∀ f : FixtureFlight, f.frame = (match f.kind with
      | .level code => [LineByte.sent (byte (64 + f.key % 64)), .sent (byte code)]
      | _ => [LineByte.sent (byte (128 + f.key % 64))]))
  ∧ (∀ a mark, PollFlight.frame (.due a mark) = [LineByte.sent (byte (128 + a))]
      ∧ PollFlight.frame (.spot a) = [LineByte.sent (byte (128 + a))])
  ∧ (∀ (frame : List LineByte) (n j : Nat),
      (∀ b ∈ frame[n]?, j < 11 → levelAt frame (11 * n + j) = b.bits.getD j true)
      ∧ (11 * frame.length ≤ n → levelAt frame n = true))
  ∧ (∀ (s : State) (i : LineId) (n : Nat),
      (∀ f ∈ (lineOf i s).flight, fixtureTx i s n = levelAt f.frame n)
      ∧ ((lineOf i s).flight = none → fixtureTx i s n = true)
      ∧ (∀ f ∈ s.inputLine.flight, inputTx s n = levelAt f.frame n)
      ∧ (s.inputLine.flight = none → inputTx s n = true))
  ∧ (∀ (a : Nat) (d : DriverReply) (more : List LineByte), a < 64 → d.echo < 256 →
      decodeDriverReply a ((d.bytes a).map LineByte.sent ++ more) = some d)
  ∧ (∀ (a : Nat) (v : InputValue) (more : List LineByte), a < 48 →
      (∀ x, v = .photo x → x < 65536) → (∀ q b, v = .station q b → q < 16) →
      decodeInputReply a ((v.bytes a).map LineByte.sent ++ more) = some v)
  ∧ (∀ (a : Nat) (bytes : List LineByte),
      (bytes.length < 3 ∨ (∃ b ∈ bytes.take 3, b.good = false) → decodeDriverReply a bytes = none)
      ∧ (bytes.length < 4 ∨ (∃ b ∈ bytes.take 4, b.good = false) → decodeInputReply a bytes = none))

/-! ## The laws -/

/-- Every law holds right after a reset. -/
def Obligations.ResetMeetsTheLaws : Prop :=
  let s := State.reset
  (AttnOk s ∧ TablesOk s ∧ ConfigOk s ∧ RefsOk s ∧ OverridesOk s ∧ LinesOk s ∧ AwaitingOk s ∧ MissesOk s ∧ CodesOk s)
    ∧ (InputLineOk s ∧ ReportsOk s ∧ HarvestOk s ∧ DepthOk s ∧ VacantOk s ∧ TimersOk s ∧ WatchedOk s ∧ HeldOk s)
    ∧ CapsOk s ∧ MeasurementsOk s ∧ CountersOk s ∧ CurrentOk s ∧ DeliveryOk s

/-- R169: ATTN is asserted exactly when a change flag or the cold start flag is set. R2: every table keeps one place for every
key. -/
def Obligations.AttnAndTablesKept : Prop := KeptByStep fun s => AttnOk s ∧ TablesOk s

/-- R3, R6, R7, R12, R17, R18: every configuration field stays in its range, the maximum not below the
minimum, S not below C. -/
def Obligations.ConfigurationStaysInRange : Prop := KeptByStep ConfigOk

/-- R11, R13, R16, R18: every reference of the floor model stays valid, and no two luminaires share a position. -/
def Obligations.ReferencesStayValid : Prop := KeptUnder TablesOk RefsOk

/-- R101, R102, R104: the laws of the override list. -/
def Obligations.OverrideListLawsKept : Prop := KeptUnder ConfigOk OverridesOk

/-- R136, R138, R147: the laws of the level queues and the confirm lists. R151, R152, R160, R161: the input line's own law.
R27, R45, R90, R155, R158: what only a REPORTING input has. -/
def Obligations.LineLawsKept : Prop :=
  KeptByStep (fun s => LinesOk s ∧ AwaitingOk s) ∧ KeptByStep fun s => InputLineOk s ∧ ReportsOk s

/-- R25, R121, R135, R144: counts, codes, measurement records, tallies and floor-wide values stay in their ranges. -/
def Obligations.RuntimeStaysInRange : Prop :=
  KeptUnder ConfigOk fun s => MissesOk s ∧ CodesOk s ∧ MeasurementsOk s ∧ CountersOk s

/-- R50: in HARVEST, H lies between 0 and the effective cap, is 0 in DAYLIT and does not exceed C in DWELL; a MANUAL segment is
FORCED. -/
def Obligations.HarvestLawKept : Prop := KeptUnder (fun s => TablesOk s ∧ TimersOk s) HarvestOk

/-- R79: for every active depth link, the inner H is at least the smaller of the outer H and the inner effective cap. -/
def Obligations.DepthLawKept : Prop :=
  KeptUnder (fun s => TablesOk s ∧ RefsOk s ∧ TimersOk s ∧ HarvestOk s) DepthOk

/-- R94: no OCCUPANT override covers a VACANT segment; R97: sensing off means OCCUPIED; R50, R53, R65, R89: when the timers of
a segment may run. -/
def Obligations.VacancyAndTimerLawsKept : Prop := KeptUnder TablesOk fun s => VacantOk s ∧ TimersOk s

/-- R96: a segment with activity sensing on that is in SETBACK or VACANT is watched. -/
def Obligations.DimmedSegmentsStayWatched : Prop :=
  KeptUnder (fun s => TablesOk s ∧ VacantOk s ∧ TimersOk s) WatchedOk

/-- R64: the held flag is set exactly while the segment is held. R122: the effective cap is the smallest of its four bounds. -/
def Obligations.HeldFlagAndCapsKept : Prop :=
  KeptUnder (fun s => TablesOk s ∧ RefsOk s) fun s => HeldOk s ∧ CapsOk s

/-- R125 to R127: every assigned luminaire's composed level and code are at every event those of the seven stages on the
records as they stand. -/
def Obligations.CompositionStaysCurrent : Prop := KeptUnder (fun s => TablesOk s ∧ RefsOk s) CurrentOk

/-- R128, R136, R148: on a RUNNING line, what has been sent or waits to be sent to an assigned luminaire ends with its
composed code. -/
def Obligations.ComposedCodesAreDelivered : Prop :=
  KeptUnder (fun s => TablesOk s ∧ RefsOk s ∧ LinesOk s ∧ CurrentOk s) DeliveryOk

/-- R103: the governing override of a position is the first record in list order that covers it. R125: stages 1 to 3 as numbers: the
base of the mode, the activity state, the action of the governing override. R126: stages 4 to 7 as numbers, and the composer's law: a
composed level is 0 or lies between the minimum and the smaller of the maximum and the effective cap; a lit level has a code from 1 to
254. -/
def Obligations.CompositionObeysItsStages : Prop :=
  (∀ (s : State) (g : Segment) (p : Place),
    let base := if g.cfg.mode = .manual then g.cfg.manualLevel else g.h
    let active :=
      if g.activity = .occupied then base else if g.activity = .setback then min base g.cfg.setbackLevel else 0
    let covers (o : Override) := o.scope.segment = p.segment ∧ o.scope.first ≤ p.position ∧ p.position ≤ o.scope.last
    ((∀ o ∈ s.overrides.records, ¬covers o) → requestedLevel s g p = active)
    ∧ ∀ (before after : List Override) (o : Override), s.overrides.records = before ++ o :: after → covers o →
        (∀ q ∈ before, ¬covers q) →
        (∀ v, o.action = .set v → requestedLevel s g p = v)
        ∧ (o.action = .off → requestedLevel s g p = 0)
        ∧ (∀ d, o.action = .nudge d →
            requestedLevel s g p = (if (active : Int) + d < 0 then 0 else min 1000 ((active : Int) + d).toNat)))
  ∧ ∀ (l : Luminaire) (cap v : Nat), lumConfigOk l →
    let trimmed := if v = 0 then 0 else min 1000 ((v * l.trim * 2 + 100) / 200)
    let capped := min trimmed cap
    let level :=
      if capped = 0 then 0
      else if capped < l.minLevel then (if l.minLevel ≤ cap then l.minLevel else 0)
      else if l.maxLevel < capped then l.maxLevel
      else capped
    composeFrom l cap v = ⟨level, (level * 254 + 999) / 1000⟩
      ∧ (v ≠ 0 → trimmed ≠ 0)
      ∧ (level = 0 ∨ (l.minLevel ≤ level ∧ level ≤ min l.maxLevel cap))
      ∧ (level ≠ 0 → 1 ≤ (level * 254 + 999) / 1000) ∧ (level * 254 + 999) / 1000 ≤ 254

/-! ## Reads, and the luminaire table -/

/-- R22, R164, R169: NOP answers OK with an empty body; a READ of a filled place answers its record and changes nothing; R110:
READ OVERRIDES answers the count and at most 8 records from the starting index, in list order, and changes nothing (the list's
change flag stands in no byte of the answer, log 23); R177: without its body it answers BAD FIELD; READ FLOOR answers the floor,
the cold start flag as it stood, and clears that flag. R173: the 16, 46, 18 and 12 bytes of the records, a value that is not there
as its marker. -/
def Obligations.ReadsAnswerTheRecords : Prop :=
  (∀ (k : Nat) (l : Luminaire), k < 128 → lumRecord k l =
    let level := (l.composed.map (·.level)).getD 0xFFFF
    let reported := l.reportedCode.getD 0xFFFF
    let link := if l.link = .responding then 1 else if l.link = .silent then 2 else 0
    [byte (if k < 64 then k else 128 + (k - 64)),
     byte ((l.place.map (·.segment)).getD 0xFF), byte ((l.place.map (·.position)).getD 0xFF), byte l.trim,
     byte (l.minLevel / 256), byte l.minLevel, byte (l.maxLevel / 256), byte l.maxLevel,
     byte (level / 256), byte level, byte ((l.composed.map (·.code)).getD 0xFF), byte (l.sentCode.getD 0xFF),
     byte (reported / 256), byte reported,
     byte (link + 4 * (l.confirmation == .awaiting).toNat + 8 * l.lampFailed.toNat + 16 * l.hot.toNat
       + 32 * l.unconfirmed.toNat + 128 * l.changed.toNat),
     byte (l.missCount + 16 * l.mismatchCount)])
  ∧ (∀ (i : Nat) (g : Segment), segRecord i g =
    let c := g.cfg
    let ctl := match g.ctl with | .forced => 0 | .tracking => 1 | .dwell => 2 | .daylit => 3 | .strike => 4
    let activity := match g.activity with | .occupied => 0 | .setback => 1 | .vacant => 2
    [byte i, byte c.row, byte (c.outer.getD 0xFF), byte (c.primary.getD 0xFF), byte (c.secondary.getD 0xFF),
     byte (if c.mode = .harvest then 1 else 0), byte (c.manualLevel / 256), byte c.manualLevel, byte (c.target / 256),
     byte c.target, byte c.tolerance, byte (c.relightMargin / 256), byte c.relightMargin, byte c.upStep, byte c.downStep,
     byte c.upInterval, byte c.downInterval, byte (c.cutOff / 256), byte c.cutOff, byte (c.offDelay / 256), byte c.offDelay,
     byte (c.strikeLevel / 256), byte c.strikeLevel, byte (c.fallback / 256), byte c.fallback,
     byte (c.sensorless / 256), byte c.sensorless, byte c.shortfallTime, byte (c.cap / 256), byte c.cap,
     byte c.sensing.toNat, byte c.occupancyHold, byte c.setbackTime, byte (c.setbackLevel / 256), byte c.setbackLevel,
     byte c.stationOff.toNat, byte (ctl + 16 * activity),
     byte (g.held.toNat + 2 * g.blind.toNat + 4 * g.shortfall.toNat + 8 * g.changed.toNat),
     byte (g.h / 256), byte g.h, byte (g.effCap / 256), byte g.effCap,
     byte (g.tally / 16777216), byte (g.tally / 65536), byte (g.tally / 256), byte g.tally])
  ∧ (∀ (a : Nat) (n : Input), inputRecord a n =
    let link := (match n.link with | .absent => 0 | .reporting => 1 | .wrongKind => 2) + 128 * n.changed.toNat
    match n.device with
    | .photo c m =>
      let f := m.acc / 256
      let f0 := m.f0.getD 0
      let state := match m.state with | .unseeded => 0 | .settling => 1 | .settled => 2 | .quarantined => 3
      [byte a, byte 1, byte n.interval, byte n.missLimit, byte c.shift, byte (c.tolerance / 256), byte c.tolerance,
       byte (c.spike / 256), byte c.spike, byte (c.ratio / 256), byte c.ratio, byte link, byte n.missCount,
       byte state, byte (f / 256), byte f, byte (f0 / 256), byte f0]
    | .presence ids last =>
      let report := match last with | none => 0 | some .quiet => 1 | some .motion => 2
      [byte a, byte 2, byte n.interval, byte n.missLimit, byte ids.length, byte (ids.getD 0 0), byte (ids.getD 1 0),
       byte (ids.getD 2 0), byte (ids.getD 3 0), byte 0, byte 0, byte link, byte n.missCount,
       byte report, byte 0, byte 0, byte 0, byte 0]
    | .station x hold button _ =>
      let shown := match button with
        | none => 0 | some .raise => 1 | some .lower => 2 | some .on => 3 | some .off => 4 | some .resume => 5
      [byte a, byte 3, byte n.interval, byte n.missLimit, byte x.segment, byte x.first, byte x.last,
       byte (hold / 256), byte hold, byte 0, byte 0, byte link, byte n.missCount,
       byte shown, byte 0, byte 0, byte 0, byte 0])
  ∧ (∀ o : Override, overrideBytes o =
    let action := match o.action with | .set _ => 1 | .nudge _ => 2 | .off => 3
    let value := match o.action with | .set v => v | .nudge d => (d % 65536).toNat | .off => 0
    let hold := o.hold.getD 0xFFFF
    [byte (o.handle / 256), byte o.handle, (match o.origin with | .floor => byte 0xFF | .station a => byte a),
     byte (if o.cls = .occupant then 1 else 0), byte o.scope.segment, byte o.scope.first, byte o.scope.last,
     byte action, byte (value / 256), byte value, byte (hold / 256), byte hold])
  ∧ ∀ (s : State) (body : List Byte),
    (∃ t, exec (.nop body) s = .next t ∧ PortAnswers s t .ok 0x00 [] ∧ t = { s with port := t.port })
    ∧ (1 ≤ body.length →
        (∀ l ∈ lum? s (keyOfByte (byteAt body 0)), ∃ t, exec (.readLuminaire body) s = .next t ∧
          PortAnswers s t .ok 0x12 (lumRecord (keyOfByte (byteAt body 0)) l) ∧ t = { s with port := t.port })
        ∧ (byteAt body 0 ≤ 31 → ∀ g ∈ seg? s (byteAt body 0), ∃ t, exec (.readSegment body) s = .next t ∧
          PortAnswers s t .ok 0x22 (segRecord (byteAt body 0) g) ∧ t = { s with port := t.port })
        ∧ (byteAt body 0 ≤ 47 → ∀ n ∈ input? s (byteAt body 0), ∃ t, exec (.readInput body) s = .next t ∧
          PortAnswers s t .ok 0x32 (inputRecord (byteAt body 0) n) ∧ t = { s with port := t.port })
        ∧ ∃ t, exec (.readOverrides body) s = .next t ∧
            (23 < byteAt body 0 → PortAnswers s t .badField 0x52 [])
            ∧ (byteAt body 0 ≤ 23 → PortAnswers s t .ok 0x52
                (byte s.overrides.records.length
                  :: ((s.overrides.records.drop (byteAt body 0)).take 8).flatMap overrideBytes))
            ∧ t = { s with port := t.port })
    ∧ (body.length < 1 → ∃ t, exec (.readOverrides body) s = .next t ∧
        PortAnswers s t .badField 0x52 [] ∧ t = { s with port := t.port })
    ∧ ∃ t, exec (.readFloor body) s = .next t ∧
        t = { s with
              port :=
                { s.port with
                  coldStart := false
                  attn := anyChange s
                  offered :=
                    { status := .ok, echo := byte 0x61,
                      body :=
                        [byte 0x32, byte 0x16,
                         byte (s.port.coldStart.toNat + 2 * s.composer.shedAsserted.toNat
                                + 4 * s.composer.floorCapOn.toNat),
                         byte (s.composer.floorCap / 256), byte (s.composer.floorCap % 256),
                         byte ((s.lineA.state == .down).toNat + 2 * (s.lineB.state == .down).toNat
                                + 4 * (s.inputLine.state == .down).toNat),
                         byte ((s.inputLine.spotRequest.any (! ·.inFlight)).toNat
                                + 2 * (s.inputLine.spotRequest.any (·.inFlight)).toNat
                                + 4 * s.inputLine.spotResult.isSome.toNat),
                         byte (s.lums.filter (·.1 < 64)).length, byte (s.lums.filter (64 ≤ ·.1)).length,
                         byte s.segs.length, byte s.inputs.length] } } }

/-- R7, R8, R9: AMEND LUMINAIRE of every luminaire and with every set of fields that passes the checks. R8, R7: a segment
with a position, a position alone, or settings of an assigned luminaire: where the record changes, the luminaire is recomposed at
its place and (R128) handed to its line when its code is a new one. R9, R7: none as its segment, or settings of an unassigned
luminaire: where the record changes, the composed fields are absent and its level-queue entry is gone. R3: the answer is the record,
CLAMPED where a value was clamped or the maximum was raised. -/
def Obligations.AmendLuminaireAssignsAndUnassigns : Prop :=
  ∀ (s : State) (body : List Byte), 9 ≤ body.length →
    let k := keyOfByte (byteAt body 0)
    let mask := byteAt body 1
    let line := lineOf (keyLine k) s
    ∀ l ∈ lum? s k,
    let lo := if mask.testBit 3 then max 1 (min (word2At body 5) 300) else l.minLevel
    let taken : Luminaire :=
      { l with
        trim := if mask.testBit 2 then max 50 (min (byteAt body 4) 150) else l.trim
        minLevel := lo
        maxLevel := if mask.testBit 4 then max lo (min (word2At body 7) 1000) else max l.maxLevel lo }
    let exact := (mask.testBit 2 = true → taken.trim = byteAt body 4) ∧ (mask.testBit 3 = true → lo = word2At body 5)
      ∧ (if mask.testBit 4 then taken.maxLevel = word2At body 7 else taken.maxLevel = l.maxLevel)
    let named : Option Place :=
      if mask.testBit 0 then
        (if mask.testBit 1 ∧ byteAt body 2 ≤ 31 then some ⟨byteAt body 2, byteAt body 3⟩ else none)
      else if mask.testBit 1 then l.place.map fun q => ⟨q.segment, byteAt body 3⟩
      else l.place
    let leaves := mask.testBit 0 = true ∧ mask.testBit 1 = false ∧ byteAt body 2 = 255
    let stays := mask.testBit 0 = false ∧ mask.testBit 1 = false ∧ l.place = none
    let rest (t : State) (u : Luminaire) := OtherLumsSame s t k ∧ SameButFixtures s t
      ∧ (∀ i : LineId, i ≠ keyLine k → lineOf i t = lineOf i s)
      ∧ PortAnswers s t (if exact then .ok else .clamped) 0x11 (lumRecord k u)
    (∀ p ∈ named, ∀ g ∈ seg? s p.segment, (mask.testBit 1 = true → p.position ≤ 15) →
      (mask.testBit 0 = true ∨ mask.testBit 1 = true → ∀ e ∈ s.lums, e.1 ≠ k → e.2.place ≠ some p) →
      let c := composeFrom taken g.effCap (requestedLevel s g p)
      let moves := { taken with place := some p } ≠ l
      let fresh := moves ∧ l.composed.map (·.code) ≠ some c.code
      let new : Luminaire :=
        if moves then
          { taken with
            place := some p
            composed := some c
            unconfirmed := if fresh then false else l.unconfirmed
            mismatchCount := if fresh then 0 else l.mismatchCount }
        else l
      ∃ t, exec (.amendLuminaire body) s = .next t ∧
        lum? t k = some new
        ∧ lineOf (keyLine k) t =
            (if fresh then
              chooseFrame
                { line with queue := if line.state = .running then coalesce line.queue k c.code else line.queue }
             else line)
        ∧ rest t new)
    ∧ (leaves ∨ stays →
        let bare : Luminaire := { taken with place := none }
        let new : Luminaire := if bare = l then l else { bare with composed := none }
        ∃ t, exec (.amendLuminaire body) s = .next t ∧
          lum? t k = some new
          ∧ lineOf (keyLine k) t =
              (if bare = l then line else { line with queue := line.queue.filter fun q => q.key != k })
          ∧ rest t new)

/-- R6: ENROL LUMINAIRE at a free key: the record it creates, its answer, and nothing else. R10, R146: RETIRE LUMINAIRE empties the
place, the luminaire's entries and its scan slot go, and a frame in flight that names it acts on no record. -/
def Obligations.LuminairesAreEnrolledAndRetired : Prop :=
  (∀ (s : State) (body : List Byte), 9 ≤ body.length → lum? s (keyOfByte (byteAt body 0)) = none →
      (byteAt body 1).testBit 0 = false → (byteAt body 1).testBit 1 = false →
      let k := keyOfByte (byteAt body 0)
      let mask := byteAt body 1
      let lo := if mask.testBit 3 then max 1 (min (word2At body 5) 300) else 10
      let new : Luminaire :=
        { place := none
          trim := if mask.testBit 2 then max 50 (min (byteAt body 4) 150) else 100
          minLevel := lo
          maxLevel := if mask.testBit 4 then max lo (min (word2At body 7) 1000) else 1000
          composed := none, sentCode := none, reportedCode := none, link := .unknown, missCount := 0,
          confirmation := .confirmed, mismatchCount := 0, lampFailed := false, hot := false, unconfirmed := false,
          changed := false }
      let exact := (mask.testBit 2 = true → new.trim = byteAt body 4) ∧ (mask.testBit 3 = true → lo = word2At body 5)
        ∧ (mask.testBit 4 = true → new.maxLevel = word2At body 7)
      ∃ t, exec (.enrolLuminaire body) s = .next t ∧
        lum? t k = some new ∧ OtherLumsSame s t k ∧ SameButFixtures s t ∧ t.lineA = s.lineA ∧ t.lineB = s.lineB
        ∧ PortAnswers s t (if exact then .ok else .clamped) 0x10 (lumRecord k new))
  ∧ ∀ (s : State) (body : List Byte), 1 ≤ body.length → (lum? s (keyOfByte (byteAt body 0))).isSome = true →
      let k := keyOfByte (byteAt body 0)
      let line := lineOf (keyLine k) s
      ∃ t, exec (.retireLuminaire body) s = .next t ∧
        lum? t k = none ∧ OtherLumsSame s t k ∧ SameButFixtures s t
        ∧ lineOf (keyLine k) t =
            { line with
              queue := line.queue.filter fun q => q.key != k
              confirm := line.confirm.filter fun c => c != k
              slot := if line.slot = some k then none else line.slot
              flight := line.flight.map fun f => if f.key = k then { f with retired := true } else f }
        ∧ (∀ i : LineId, i ≠ keyLine k → lineOf i t = lineOf i s)
        ∧ PortAnswers s t .ok 0x13 []

/-! ## The segment table -/

/-- R3, R7, R12, R173, R177: the fields of a segment request, each from its bytes where its mask bit is set and as held where it is
not, a numeric one at the nearest limit of its range, S kept between C and 1000; whether a value was clamped or adjusted; which
enumerations are members. R13: which references are fit. -/
def Obligations.SegmentFieldsAreTakenFromTheirBytes : Prop :=
  (∀ (body : List Byte) (held : SegConfig),
    let mask := word4At body 1
    let b := byteAt body
    let w := word2At body
    let ref (n v : Nat) (old : Option Nat) := if mask.testBit n then (if v = 255 then none else some v) else old
    let num (n v lo hi old : Nat) := if mask.testBit n then max lo (min v hi) else old
    let fits (n v lo hi : Nat) := mask.testBit n = true → lo ≤ v ∧ v ≤ hi
    let cut := num 13 (w 21) 0 500 held.cutOff
    let taken := takeSegNumbers body (takeSegStructure body held)
    taken.1 =
      { row := if mask.testBit 0 then b 5 else held.row
        outer := ref 1 (b 6) held.outer, primary := ref 2 (b 7) held.primary, secondary := ref 3 (b 8) held.secondary
        mode := if mask.testBit 4 then (if b 9 = 1 then .harvest else .manual) else held.mode
        manualLevel := num 5 (w 10) 0 1000 held.manualLevel, target := num 6 (w 12) 0 2000 held.target
        tolerance := num 7 (b 14) 0 255 held.tolerance, relightMargin := num 8 (w 15) 0 500 held.relightMargin
        upStep := num 9 (b 17) 1 200 held.upStep, downStep := num 10 (b 18) 1 200 held.downStep
        upInterval := num 11 (b 19) 1 255 held.upInterval, downInterval := num 12 (b 20) 1 255 held.downInterval
        cutOff := cut, offDelay := num 14 (w 23) 1 3600 held.offDelay
        strikeLevel := if mask.testBit 15 then max cut (min (w 25) 1000) else max held.strikeLevel cut
        fallback := num 16 (w 27) 0 1000 held.fallback, sensorless := num 17 (w 29) 1 600 held.sensorless
        shortfallTime := num 18 (b 31) 1 255 held.shortfallTime, cap := num 19 (w 32) 0 1000 held.cap
        sensing := if mask.testBit 20 then b 34 == 1 else held.sensing
        occupancyHold := num 21 (b 35) 1 120 held.occupancyHold, setbackTime := num 22 (b 36) 1 120 held.setbackTime
        setbackLevel := num 23 (w 37) 0 1000 held.setbackLevel
        stationOff := if mask.testBit 24 then b 39 == 1 else held.stationOff }
    ∧ (taken.2 = false ↔
        (fits 5 (w 10) 0 1000 ∧ fits 6 (w 12) 0 2000 ∧ fits 8 (w 15) 0 500 ∧ fits 9 (b 17) 1 200 ∧ fits 10 (b 18) 1 200
          ∧ fits 11 (b 19) 1 255 ∧ fits 12 (b 20) 1 255 ∧ fits 13 (w 21) 0 500 ∧ fits 14 (w 23) 1 3600)
        ∧ (if mask.testBit 15 then cut ≤ w 25 ∧ w 25 ≤ 1000 else cut ≤ held.strikeLevel)
        ∧ fits 16 (w 27) 0 1000 ∧ fits 17 (w 29) 1 600 ∧ fits 18 (b 31) 1 255 ∧ fits 19 (w 32) 0 1000
        ∧ fits 21 (b 35) 1 120 ∧ fits 22 (b 36) 1 120 ∧ fits 23 (w 37) 0 1000)
    ∧ (segEnumsOk body = true ↔ fits 0 (b 5) 1 4 ∧ fits 4 (b 9) 0 1 ∧ fits 20 (b 34) 0 1 ∧ fits 24 (b 39) 0 1)
    ∧ ((segField body 0).isSome = mask.testBit 0)
    ∧ (carriesRefs body = (mask.testBit 0 || mask.testBit 1 || mask.testBit 2 || mask.testBit 3))
    ∧ (clearsShortfall body = mask.testBit 25))
  ∧ ∀ (s : State) (i : Nat) (c : SegConfig),
    let isPhoto (a : Nat) := ∃ n ∈ input? s a, deviceKind n.device = .photo
    refsFit s i c = true ↔
      (∀ o ∈ c.outer, o ≠ i ∧ ∃ u ∈ seg? s o, u.cfg.row + 1 = c.row) ∧ (∀ a ∈ c.primary, isPhoto a)
      ∧ (∀ a ∈ c.secondary, isPhoto a) ∧ (c.primary = none ∨ c.primary ≠ c.secondary)

/-- R12, R15, R70: DEFINE SEGMENT at a free id, in either mode: the record it creates, and (R3) its answer. R85, R86: in HARVEST mode
it takes a depth raise from the outer segment of an active link. Where it lands in DWELL its off-delay timer starts, as R70 and R77
say against the table of R15 (log 25). -/
def Obligations.DefineSegmentStartsItsRuntime : Prop :=
  ∀ (s : State) (body : List Byte), TablesOk s → RefsOk s → 40 ≤ body.length → byteAt body 0 ≤ 31 →
    seg? s (byteAt body 0) = none → (segField body 0).isSome = true → segEnumsOk body = true →
    refsFit s (byteAt body 0) (takeSegStructure body segDefaults) = true →
    let i := byteAt body 0
    let taken := takeSegNumbers body (takeSegStructure body segDefaults)
    let c := taken.1
    let cap := effectiveCap s.composer c.cap
    let manual : Segment :=
      { cfg := c, ctl := .forced, h := 0, held := false, blind := false, shortfall := false, stepTimer := none,
        offTimer := none, blindTimer := none, shortTimer := none, activity := .occupied,
        holdTimer := if c.sensing then some (c.occupancyHold * 600) else none, setbackTimer := none, effCap := cap,
        tally := 0, changed := false }
    let dwells := 0 < c.cutOff ∧ min c.manualLevel cap ≤ c.cutOff
    let started : Segment :=
      { manual with
        h := min c.manualLevel cap
        ctl := if dwells then .dwell else .tracking
        offTimer := if dwells then some (c.offDelay * 10) else none
        stepTimer := some (min c.upInterval c.downInterval) }
    let new := if c.mode = .manual then manual else afterRaise (linkedH s started) started
    ∃ t, exec (.defineSegment body) s = .next t ∧
      seg? t i = some new ∧ PortAnswers s t (if taken.2 then .clamped else .ok) 0x20 (segRecord i new)
      ∧ OtherSegsSame s t i ∧ SameAround s t ∧ OnlyRecomposed s t

/-- R14: AMEND SEGMENT with any set of fields that passes the checks, its effects in their order, and (R3) its answer: the new
effective cap (R122); from MANUAL to HARVEST (R70) or from HARVEST to MANUAL (R71); the cap-change event (R68); a changed C tested
against the controller state (R75); the activity sensing (R97); the clear-shortfall option. R85, R86, R87: a changed outer link, the
entry to HARVEST and a rise of the cap give a depth raise where the link is active; the inner segments of active links then take
theirs at an entry, and (R82) at a rise of H. -/
def Obligations.AmendSegmentChangesSettingsAndMode : Prop :=
  ∀ (s : State) (body : List Byte), TablesOk s → RefsOk s → 40 ≤ body.length → byteAt body 0 ≤ 31 →
    segEnumsOk body = true →
    let i := byteAt body 0
    ∀ g ∈ seg? s i,
    let taken := takeSegNumbers body (takeSegStructure body g.cfg)
    let c := taken.1
    (carriesRefs body = true → refsFit s i (takeSegStructure body g.cfg) = true) →
    (c.row ≠ g.cfg.row → ∀ e ∈ s.segs, e.2.cfg.outer ≠ some i) → (c.sensing = g.cfg.sensing ∨ HeldOk s) →
    let cap := if c.cap = g.cfg.cap then g.effCap else effectiveCap s.composer c.cap
    let new : Segment :=
      { g with cfg := c, effCap := cap, shortfall := g.shortfall && !(word4At body 1).testBit 25 }
    let raise (u : Segment) := afterRaise (linkedH s new) u
    let enters := g.cfg.mode = .manual ∧ c.mode = .harvest
    let leaves := g.cfg.mode = .harvest ∧ c.mode = .manual
    let h := min c.manualLevel cap
    let dwells := 0 < c.cutOff ∧ h ≤ c.cutOff
    let moded : Segment :=
      if enters then
        raise { new with
          h := h
          ctl := if dwells then .dwell else .tracking
          offTimer := if dwells ∧ g.held = false then some (c.offDelay * 10) else none
          stepTimer := some (min c.upInterval c.downInterval)
          blind := false, blindTimer := none, shortTimer := none }
      else if leaves then
        { new with
          ctl := .forced, stepTimer := none, offTimer := none, blindTimer := none, shortTimer := none, blind := false }
      else new
    let clamps := c.mode = .harvest ∧ cap ≠ g.effCap ∧ cap < moded.h
    let clampDwells := clamps ∧ moded.ctl = .tracking ∧ 0 < c.cutOff ∧ cap ≤ c.cutOff
    let clamped : Segment :=
      { moded with
        h := if clamps then cap else moded.h
        ctl := if clampDwells then .dwell else moded.ctl
        offTimer := if clampDwells then (if g.held then none else some (c.offDelay * 10)) else moded.offTimer }
    let capped := if g.effCap < cap ∧ ¬clamps then raise clamped else clamped
    let lifts := capped.ctl = .dwell ∧ c.cutOff ≠ g.cfg.cutOff ∧ (c.cutOff = 0 ∨ c.cutOff < capped.h)
    let cut : Segment :=
      { capped with
        ctl := if lifts then .tracking else capped.ctl
        offTimer := if lifts then none else capped.offTimer }
    let sensed : Segment :=
      if c.sensing = g.cfg.sensing then cut
      else if c.sensing then { cut with holdTimer := some (c.occupancyHold * 600) }
      else
        { cut with
          activity := .occupied, holdTimer := none, setbackTimer := none
          held := s.overrides.records.any fun o => o.scope.segment == i }
    let result := if c.outer = g.cfg.outer then sensed else raise sensed
    ∃ t, exec (.amendSegment body) s = .next t ∧
      seg? t i = some result ∧ PortAnswers s t (if taken.2 then .clamped else .ok) 0x21 (segRecord i result)
      ∧ (¬enters → result.h ≤ g.h → OtherSegsSame s t i)
      ∧ (enters ∨ g.h < result.h → InnerTakeRaise s t i result.h)
      ∧ SameAround s t ∧ OnlyRecomposed s t

/-- R68, R87, R122: AMEND SEGMENT of the segment cap: the new effective cap, H clamped under it, or at a rise raised to the outer
segment's H of an active link. R97: of the activity sensing: turned off, the segment is OCCUPIED with no timer; turned on, its hold
timer starts. R3: the answer. The mode, the references and C are kept. -/
def Obligations.AmendSegmentChangesCapAndSensing : Prop :=
  ∀ (s : State) (body : List Byte), TablesOk s → RefsOk s → HeldOk s → 40 ≤ body.length → byteAt body 0 ≤ 31 →
    segEnumsOk body = true → carriesRefs body = false →
    let i := byteAt body 0
    ∀ g ∈ seg? s i,
    let taken := takeSegNumbers body (takeSegStructure body g.cfg)
    let c := taken.1
    c.mode = g.cfg.mode → c.cutOff = g.cfg.cutOff → (word4At body 1).testBit 25 = false →
    let cap := if c.cap = g.cfg.cap then g.effCap else effectiveCap s.composer c.cap
    let clamps := g.cfg.mode = .harvest ∧ cap ≠ g.effCap ∧ cap < g.h
    let dwells := clamps ∧ g.ctl = .tracking ∧ 0 < c.cutOff ∧ cap ≤ c.cutOff
    let capped : Segment :=
      { g with
        cfg := c
        effCap := cap
        h := if clamps then cap else g.h
        ctl := if dwells then .dwell else g.ctl
        offTimer := if dwells then (if g.held then none else some (c.offDelay * 10)) else g.offTimer }
    let new := if g.effCap < cap ∧ ¬clamps then afterRaise (linkedH s capped) capped else capped
    let result : Segment :=
      if c.sensing = g.cfg.sensing then new
      else if c.sensing then { new with holdTimer := some (c.occupancyHold * 600) }
      else
        { new with
          activity := .occupied, holdTimer := none, setbackTimer := none
          held := s.overrides.records.any fun o => o.scope.segment == i }
    ∃ t, exec (.amendSegment body) s = .next t ∧
      seg? t i = some result ∧ PortAnswers s t (if taken.2 then .clamped else .ok) 0x21 (segRecord i result)
      ∧ (result.h ≤ g.h → OtherSegsSame s t i) ∧ (g.h < result.h → InnerTakeRaise s t i result.h)
      ∧ SameAround s t ∧ OnlyRecomposed s t

/-- R16: RETIRE SEGMENT of a segment that nothing refers to: its record and its override records go, and the list's change
flag is set where it had one (log 14). -/
def Obligations.RetireSegmentTakesItsOverrides : Prop :=
  ∀ (s : State) (body : List Byte), 1 ≤ body.length → byteAt body 0 ≤ 31 →
    (seg? s (byteAt body 0)).isSome = true → segReferenced s (byteAt body 0) = false →
    let i := byteAt body 0
    ∃ t, exec (.retireSegment body) s = .next t ∧
      seg? t i = none ∧ OtherSegsSame s t i ∧ t.lums = s.lums ∧ t.inputs = s.inputs ∧ SameFloor s t
      ∧ t.lineA = s.lineA ∧ t.lineB = s.lineB
      ∧ t.overrides =
          { s.overrides with
            records := s.overrides.records.filter fun o => o.scope.segment != i
            changed := s.overrides.changed || s.overrides.records.any fun o => o.scope.segment == i }
      ∧ PortAnswers s t .ok 0x23 []

/-! ## The input table -/

/-- R17, R21: ENROL INPUT of each kind at a free address: the record it creates, its answer, and nothing else. R18: the coverage that
a body carries, from its bytes: an id count of 1 to 4 and as many distinct defined segments; when a scope is fit. -/
def Obligations.EnrolInputCreatesTheRecord : Prop :=
  (∀ (s : State) (body : List Byte) (ids : List Nat), coverageIn s body = some ids ↔
      1 ≤ byteAt body 5 ∧ byteAt body 5 ≤ 4 ∧ ids.length = byteAt body 5
        ∧ (∀ j < byteAt body 5, ids[j]? = some (byteAt body (6 + j)))
        ∧ ids.Nodup ∧ ∀ i ∈ ids, (seg? s i).isSome = true)
  ∧ (∀ (s : State) (x : Scope), scopeOk s x = true ↔
      x.segment ≤ 31 ∧ (seg? s x.segment).isSome = true ∧ x.first ≤ x.last ∧ x.last ≤ 15)
  ∧ ∀ (s : State) (body : List Byte), 12 ≤ body.length → byteAt body 0 ≤ 47 → input? s (byteAt body 0) = none →
    let a := byteAt body 0
    let mask := byteAt body 1
    let made (d : Device) (interval : Nat) : Input :=
      let p := if mask.testBit 0 then max 2 (min (byteAt body 3) 50) else interval
      { device := d, interval := p, missLimit := if mask.testBit 1 then max 1 (min (byteAt body 4) 15) else 3,
        link := .absent, missCount := 0, pollTimer := some p, changed := false }
    let photo : Device :=
      .photo
        { shift := if mask.testBit 2 then min (byteAt body 5) 6 else 3
          tolerance := if mask.testBit 3 then max 1 (min (word2At body 6) 1000) else 50
          spike := if mask.testBit 4 then word2At body 8 else 1500
          ratio := if mask.testBit 5 then max 1 (min (word2At body 10) 4095) else 1024 }
        { state := .unseeded, acc := 0, f0 := none, settleCount := 0, pendingJump := false, window := none,
          quarantineTimer := none }
    let station : Device :=
      .station ⟨byteAt body 5, byteAt body 6, byteAt body 7⟩
        (if mask.testBit 3 then max 1 (min (word2At body 8) 720) else 120) none none
    let exact (n : Input) := (mask.testBit 0 = true → n.interval = byteAt body 3)
      ∧ (mask.testBit 1 = true → n.missLimit = byteAt body 4)
    let creates (n : Input) (exactKind : Prop) := ∃ t, exec (.enrolInput body) s = .next t ∧
      input? t a = some n ∧ OtherInputsSame s t a ∧ t = { s with inputs := t.inputs, port := t.port }
      ∧ (exact n ∧ exactKind → PortAnswers s t .ok 0x30 (inputRecord a n))
      ∧ (¬(exact n ∧ exactKind) → PortAnswers s t .clamped 0x30 (inputRecord a n))
    (byteAt body 2 = 1 → creates (made photo 5)
      ((mask.testBit 2 = true → byteAt body 5 ≤ 6)
        ∧ (mask.testBit 3 = true → 1 ≤ word2At body 6 ∧ word2At body 6 ≤ 1000)
        ∧ (mask.testBit 5 = true → 1 ≤ word2At body 10 ∧ word2At body 10 ≤ 4095)))
    ∧ (byteAt body 2 = 2 → mask.testBit 2 = true → mask.testBit 3 = false → mask.testBit 4 = false →
        mask.testBit 5 = false → ∀ ids ∈ coverageIn s body, creates (made (.presence ids none) 10) True)
    ∧ (byteAt body 2 = 3 → mask.testBit 2 = true → mask.testBit 4 = false → mask.testBit 5 = false →
        scopeOk s ⟨byteAt body 5, byteAt body 6, byteAt body 7⟩ = true →
        creates (made station 2) (mask.testBit 3 = true → 1 ≤ word2At body 8 ∧ word2At body 8 ≤ 720))

/-- R19, R46: AMEND INPUT of a photosensor or a station: the carried settings are taken, all else is kept. R96: of a presence
sensor: a changed coverage makes its segments re-resolve, without a change flag. R3: the answer is the record, CLAMPED where a value
was clamped. -/
def Obligations.AmendInputTakesItsSettings : Prop :=
  ∀ (s : State) (body : List Byte), TablesOk s → 12 ≤ body.length → byteAt body 0 ≤ 47 →
    let a := byteAt body 0
    let mask := byteAt body 1
    ∀ n ∈ input? s a, byteAt body 2 = 0 ∨ byteAt body 2 = (deviceKind n.device).code →
    let kept : Input :=
      { n with
        interval := if mask.testBit 0 then max 2 (min (byteAt body 3) 50) else n.interval
        missLimit := if mask.testBit 1 then max 1 (min (byteAt body 4) 15) else n.missLimit }
    let exact := (mask.testBit 0 = true → kept.interval = byteAt body 3)
      ∧ (mask.testBit 1 = true → kept.missLimit = byteAt body 4)
    let answers (t : State) (d : Device) (exactKind : Prop) :=
      input? t a = some { kept with device := d } ∧ OtherInputsSame s t a
      ∧ (exact ∧ exactKind → PortAnswers s t .ok 0x31 (inputRecord a { kept with device := d }))
      ∧ (¬(exact ∧ exactKind) → PortAnswers s t .clamped 0x31 (inputRecord a { kept with device := d }))
    (∀ c m, n.device = .photo c m → ∃ t, exec (.amendInput body) s = .next t ∧
      answers t
        (.photo
          { shift := if mask.testBit 2 then min (byteAt body 5) 6 else c.shift
            tolerance := if mask.testBit 3 then max 1 (min (word2At body 6) 1000) else c.tolerance
            spike := if mask.testBit 4 then word2At body 8 else c.spike
            ratio := if mask.testBit 5 then max 1 (min (word2At body 10) 4095) else c.ratio } m)
        ((mask.testBit 2 = true → byteAt body 5 ≤ 6)
          ∧ (mask.testBit 3 = true → 1 ≤ word2At body 6 ∧ word2At body 6 ≤ 1000)
          ∧ (mask.testBit 5 = true → 1 ≤ word2At body 10 ∧ word2At body 10 ≤ 4095))
      ∧ t = { s with inputs := t.inputs, port := t.port })
    ∧ (∀ x hold b q, n.device = .station x hold b q → mask.testBit 4 = false → mask.testBit 5 = false →
        (mask.testBit 2 = true → scopeOk s ⟨byteAt body 5, byteAt body 6, byteAt body 7⟩ = true) →
        ∃ t, exec (.amendInput body) s = .next t ∧
          answers t
            (.station
              (if mask.testBit 2 then ⟨byteAt body 5, byteAt body 6, byteAt body 7⟩ else x)
              (if mask.testBit 3 then max 1 (min (word2At body 8) 720) else hold) b q)
            (mask.testBit 3 = true → 1 ≤ word2At body 8 ∧ word2At body 8 ≤ 720)
          ∧ t = { s with inputs := t.inputs, port := t.port })
    ∧ (∀ old last, n.device = .presence old last → mask.testBit 3 = false → mask.testBit 4 = false →
        mask.testBit 5 = false → ∀ ids ∈ (if mask.testBit 2 then coverageIn s body else some old),
        ∃ t, exec (.amendInput body) s = .next t ∧
          answers t (.presence ids last) True
          ∧ (∀ j : Nat, ∀ g ∈ seg? s j,
              if (old.contains j != ids.contains j) = true ∧ g.cfg.sensing = true ∧ g.activity ≠ .occupied
                  ∧ watched t j = false then
                ∃ u ∈ seg? t j, u.activity = .occupied ∧ u.holdTimer = some (g.cfg.occupancyHold * 600)
                  ∧ u.setbackTimer = none ∧ u.changed = g.changed ∧ u.cfg = g.cfg ∧ u.h = g.h ∧ u.ctl = g.ctl
              else seg? t j = some g)
          ∧ t.overrides = s.overrides ∧ SameFloor s t ∧ OnlyRecomposed s t)

/-- R20: RETIRE INPUT empties the place and the due-list entry, and a poll of it in flight acts on no record, all else of the
input line being kept; a photosensor that no segment names leaves nothing else behind; the segments that a presence sensor covered
re-resolve (R96); a station takes its override records with it, sets the list's change flag where it had one (log 14), and
releases the segments that nothing else holds. -/
def Obligations.RetireInputForgetsIt : Prop :=
  ∀ (s : State) (body : List Byte), 1 ≤ body.length → byteAt body 0 ≤ 47 →
    let a := byteAt body 0
    ∀ n ∈ input? s a, (deviceKind n.device = .photo → namedAsSensor s a = false) →
    ∃ t, exec (.retireInput body) s = .next t ∧
      input? t a = none ∧ OtherInputsSame s t a
      ∧ t.inputLine =
          { s.inputLine with
            due := s.inputLine.due.filter fun b => b != a
            flight := s.inputLine.flight.map fun f =>
              match f with
              | .due b mark => .due b (if b = a then .retired else mark)
              | spot => spot }
      ∧ (deviceKind n.device = .photo → t.segs = s.segs ∧ SameFixtures s t)
      ∧ (deviceKind n.device = .presence → ∀ j : Nat, ∀ g ∈ seg? s j,
          if j ∈ coverageOf n.device ∧ g.cfg.sensing = true ∧ g.activity ≠ .occupied ∧ watched t j = false then
            ∃ u ∈ seg? t j, u.activity = .occupied ∧ u.holdTimer = some (g.cfg.occupancyHold * 600)
              ∧ u.setbackTimer = none ∧ u.changed = g.changed ∧ u.cfg = g.cfg ∧ u.h = g.h ∧ u.ctl = g.ctl
          else seg? t j = some g)
      ∧ (deviceKind n.device = .station → HeldOk s → ∀ j : Nat, ∀ g ∈ seg? s j, seg? t j = some
          { g with held := g.activity != .occupied || t.overrides.records.any fun o => o.scope.segment == j })
      ∧ t.overrides =
          (if deviceKind n.device = .station then
            { s.overrides with
              records := s.overrides.records.filter fun o => o.origin != .station a
              changed := s.overrides.changed || s.overrides.records.any fun o => o.origin == .station a }
           else s.overrides)
      ∧ t.composer = s.composer ∧ t.time = s.time ∧ t.pending = s.pending ∧ OnlyRecomposed s t
      ∧ PortAnswers s t .ok 0x33 []

/-- R39, R26: REINSTATE INPUT, every case of the table; only a QUARANTINED record is changed, and it enters UNSEEDED; R177: without
its body it answers BAD FIELD. -/
def Obligations.ReinstateReleasesQuarantine : Prop :=
  ∀ (s : State) (body : List Byte),
    let a := byteAt body 0
    let refuses (st : Status) := ∃ t, exec (.reinstateInput body) s = .next t ∧
      PortAnswers s t st 0x34 [] ∧ t = { s with port := t.port }
    (body.length < 1 ∨ 47 < a → refuses .badField)
    ∧ (1 ≤ body.length → a ≤ 47 → input? s a = none → refuses .noRecord)
    ∧ (1 ≤ body.length → a ≤ 47 → ∀ n ∈ input? s a,
        (deviceKind n.device ≠ .photo → refuses .badField)
        ∧ ∀ c m, n.device = .photo c m →
          (m.state ≠ .quarantined → refuses .notNow)
          ∧ (m.state = .quarantined →
              let new : Input :=
                { n with
                  device := .photo c
                    { state := .unseeded, acc := 0, f0 := none, settleCount := 0, pendingJump := false, window := none,
                      quarantineTimer := none } }
              ∃ t, exec (.reinstateInput body) s = .next t ∧
                input? t a = some new ∧ OtherInputsSame s t a ∧ PortAnswers s t .ok 0x34 (inputRecord a new)
                ∧ t = { s with inputs := t.inputs, port := t.port }))

/-- R43, R44: CALIBRATE: the first failing check answers; otherwise K becomes M × 1024 / F rounded to nearest with halves up,
limited to 1 to 4095, and nothing else of any record changes; R177: a body of less than 3 bytes answers BAD FIELD. -/
def Obligations.CalibrateSetsTheRatio : Prop :=
  ∀ (s : State) (body : List Byte),
    let i := byteAt body 0
    let m := min (word2At body 1) 2000
    let refuses (st : Status) := ∃ t, exec (.calibrate body) s = .next t ∧
      PortAnswers s t st 0x40 [] ∧ t = { s with port := t.port }
    (body.length < 3 ∨ 31 < i → refuses .badField)
    ∧ (3 ≤ body.length → i ≤ 31 → seg? s i = none → refuses .noRecord)
    ∧ (3 ≤ body.length → i ≤ 31 → ∀ g ∈ seg? s i,
        (activeSensor s g = none → refuses .notNow)
        ∧ ∀ a ∈ activeSensor s g, ∀ n ∈ input? s a, ∀ c meas, n.device = .photo c meas →
          let f := meas.acc / 256
          (f = 0 → refuses .notNow)
          ∧ (f ≠ 0 →
              let k := max 1 (min ((2 * m * 1024 + f) / (2 * f)) 4095)
              let exact := m = word2At body 1 ∧ k = (2 * m * 1024 + f) / (2 * f)
              ∃ t, exec (.calibrate body) s = .next t ∧
                input? t a = some { n with device := .photo { c with ratio := k } meas } ∧ OtherInputsSame s t a
                ∧ PortAnswers s t (if exact then .ok else .clamped) 0x40
                    ([byte i, byte a] ++ bytes2 f ++ bytes2 k)
                ∧ t = { s with inputs := t.inputs, port := t.port }))

/-! ## Spot reads -/

/-- R159: SPOT READ, every case of its table; R177: without its body it answers BAD FIELD. R160: the end of a spot poll empties
the request, keeps the valid reply of any kind or NO REPLY, sets the floor change flag, and touches no input; FETCH SPOT answers
PENDING, NO RECORD or the result. R173: the 4 bytes of a result. -/
def Obligations.SpotReadsAreTakenEndedAndFetched : Prop :=
  (∀ a : Nat, spotBytes ⟨a, none⟩ = [byte a, byte 0xFF, byte 0, byte 0]
    ∧ (∀ x, spotBytes ⟨a, some (.photo x)⟩ = [byte a, byte 1, byte (x / 256), byte x])
    ∧ (∀ moved : Bool, spotBytes ⟨a, some (.presence moved)⟩ = [byte a, byte 2, byte moved.toNat, byte 0])
    ∧ ∀ q b, spotBytes ⟨a, some (.station q b)⟩ = [byte a, byte 3, byte q, b])
  ∧ ∀ (s : State) (body : List Byte) (bytes : List LineByte),
    let a := byteAt body 0
    let l := s.inputLine
    let refuses (st : Status) := ∃ t, exec (.spotRead body) s = .next t ∧
      PortAnswers s t st 0x41 [] ∧ t = { s with port := t.port }
    (body.length < 1 → refuses .badField)
    ∧ (1 ≤ body.length →
      (47 < a → refuses .badField)
      ∧ (a ≤ 47 → l.spotRequest.isSome = true → refuses .notNow)
      ∧ (a ≤ 47 → l.spotRequest = none → l.state = .running → ∃ t, exec (.spotRead body) s = .next t ∧
          t.inputLine = choosePoll { l with spotRequest := some ⟨a, false⟩ } ∧ PortAnswers s t .ok 0x41 []
          ∧ t = { s with inputLine := t.inputLine, port := t.port })
      ∧ (a ≤ 47 → l.spotRequest = none → l.state = .down → ∃ t, exec (.spotRead body) s = .next t ∧
          t.inputLine = { l with spotResult := some ⟨a, none⟩ }
          ∧ t.port = { s.port with floorChanged := true, attn := true, offered := ⟨.ok, byte 0x41, []⟩ }
          ∧ t = { s with inputLine := t.inputLine, port := t.port }))
    ∧ (∀ b : Nat, l.flight = some (.spot b) → ∃ t, exec (.spotPollEnd bytes) s = .next t ∧
        t.inputLine = choosePoll
          { l with flight := none, spotRequest := none, spotResult := some ⟨b, decodeInputReply b bytes⟩ }
        ∧ PortFlagsFloor s t ∧ t = { s with inputLine := t.inputLine, port := t.port })
    ∧ (∃ t, exec (.fetchSpot body) s = .next t ∧
        (l.spotRequest.isSome = true → PortAnswers s t .pending 0x42 [])
        ∧ (l.spotRequest = none → l.spotResult = none → PortAnswers s t .noRecord 0x42 [])
        ∧ (l.spotRequest = none → ∀ r ∈ l.spotResult, PortAnswers s t .ok 0x42 (spotBytes r))
        ∧ t = { s with port := t.port })

/-! ## Overrides -/

/-- R105 to R108: PLACE OVERRIDE refreshes the FLOOR record of its scope under its own handle, or creates one with the next free
handle, displacing the last OCCUPANT record of a full list; the record goes to the front of its class; the list's change flag is
set only at a displacement; with class OCCUPANT the segment is OCCUPIED. R105: the checks in their order: BAD FIELD for the layout
(R177), the scope, the class and the action; the values clamped; FULL for a new record in a list of 24 FACILITY records. R102: the
front of a class. -/
def Obligations.PlaceOverridePlacesTheRecord : Prop :=
  (∀ v : Int,
    actionOf 1 v = some (.set (if v < 0 then 0 else min v.toNat 1000), decide (v < 0 ∨ 1000 < v))
    ∧ actionOf 2 v = some (.nudge (if v < -500 then -500 else if 500 < v then 500 else v), decide (v < -500 ∨ 500 < v))
    ∧ actionOf 3 v = some (.off, false))
  ∧ (∀ (cls : OvClass) (h : Nat), holdOf cls h =
      if h = 65535 then (if cls = .facility then (none, false) else (some 720, true))
      else (some (max 1 (min h 720)), decide (h = 0 ∨ 720 < h)))
  ∧ (∀ (o : Override) (l : List Override), l.Pairwise (fun p q => p.cls = .facility ∨ q.cls = .occupant) →
      insertFront o l =
        if o.cls = .facility then o :: l
        else l.filter (fun p => p.cls == .facility) ++ o :: l.filter fun p => p.cls == .occupant)
  ∧ ∀ (s : State) (body : List Byte),
    let scope : Scope := ⟨byteAt body 1, byteAt body 2, byteAt body 3⟩
    let l := s.overrides
    let old := findRecord .floor scope l.records
    let last := (l.records.reverse.find? fun o => o.cls == .occupant)
    let fits := byteAt body 1 ≤ 31 ∧ (seg? s (byteAt body 1)).isSome = true ∧ byteAt body 2 ≤ byteAt body 3
      ∧ byteAt body 3 ≤ 15 ∧ byteAt body 0 ≤ 1 ∧ 1 ≤ byteAt body 4 ∧ byteAt body 4 ≤ 3
    let refuses (st : Status) := ∃ t, exec (.placeOverride body) s = .next t ∧
      PortAnswers s t st 0x50 [] ∧ t = { s with port := t.port }
    (body.length < 9 ∨ ¬fits → refuses .badField)
    ∧ (9 ≤ body.length → fits → (∀ o ∈ l.records, o.origin = .floor → o.scope ≠ scope) → 24 ≤ l.records.length →
        (∀ o ∈ l.records, o.cls = .facility) → refuses .full)
    ∧ (TablesOk s → OverridesOk s → 9 ≤ body.length →
      scopeOk s scope = true → ∀ cls ∈ classOf (byteAt body 0),
      ∀ a ∈ actionOf (byteAt body 4) (signed2 (word2At body 5)), (old = none → l.records.length = 24 → last ≠ none) →
      let hold := holdOf cls (word2At body 7)
      let room := if old = none ∧ l.records.length = 24 then l.records.filter (fun o => some o.handle != last.map (·.handle))
        else l.records
      let h := freeHandle room 25 l.counter
      let made : Override :=
        { handle := ((old.map (·.handle)).getD h), origin := .floor, cls := cls, scope := scope, action := a.1,
          hold := hold.1 }
      let displaced := if old = none ∧ l.records.length = 24 then (last.map (·.handle)).getD 0 else 0
      ∃ t, exec (.placeOverride body) s = .next t ∧
        t.overrides =
          { records := insertFront made (room.filter fun o => some o.handle != old.map (·.handle))
            counter := if old = none then handleAfter h else l.counter
            changed := l.changed || displaced != 0 }
        ∧ (∀ o ∈ room, old = none → o.handle ≠ h)
        ∧ PortAnswers s t (if a.2 || hold.2 then .clamped else .ok) 0x50
            (overrideBytes made ++ [byte (if old = none then 0 else 1)] ++ bytes2 displaced)
        ∧ (∀ g ∈ seg? s scope.segment, (seg? t scope.segment).map (fun u => (u.held, u.cfg, u.h, u.ctl, u.changed))
            = some (true, g.cfg, g.h, g.ctl, g.changed) ∨ old ≠ none)
        ∧ (cls = .occupant → ∀ g ∈ seg? s scope.segment, g.cfg.sensing = true →
            (seg? t scope.segment).map (fun u => (u.activity, u.holdTimer, u.setbackTimer))
              = some (.occupied, some (g.cfg.occupancyHold * 600), none))
        ∧ (∀ j : Nat, j ≠ scope.segment → last.map (·.scope.segment) ≠ some j → seg? t j = seg? s j)
        ∧ t.inputs = s.inputs ∧ SameFloor s t ∧ OnlyRecomposed s t)

/-- R109: CANCEL OVERRIDE retires the record of a handle, without the list's change flag, and its segment is released when
nothing else holds it. Handle 0 and (R177) a body of one byte or none answer BAD FIELD, a handle that no record holds NO RECORD. -/
def Obligations.CancelOverrideRetiresOneRecord : Prop :=
  ∀ (s : State) (body : List Byte),
    let refuses (st : Status) := ∃ t, exec (.cancelOverride body) s = .next t ∧
      PortAnswers s t st 0x51 [] ∧ t = { s with port := t.port }
    (body.length < 2 ∨ word2At body 0 = 0 → refuses .badField)
    ∧ (2 ≤ body.length → word2At body 0 ≠ 0 → (∀ r ∈ s.overrides.records, r.handle ≠ word2At body 0) →
        refuses .noRecord)
    ∧ (TablesOk s → OverridesOk s → HeldOk s → 2 ≤ body.length →
    ∀ r ∈ s.overrides.records, r.handle = word2At body 0 →
    let left := s.overrides.records.filter fun o => o.handle != word2At body 0
    ∃ t, exec (.cancelOverride body) s = .next t ∧
      t.overrides = { s.overrides with records := left }
      ∧ (∀ g ∈ seg? s r.scope.segment, seg? t r.scope.segment = some
          { g with held := g.activity != .occupied || left.any fun o => o.scope.segment == r.scope.segment })
      ∧ OtherSegsSame s t r.scope.segment ∧ t.inputs = s.inputs ∧ SameFloor s t ∧ OnlyRecomposed s t
      ∧ PortAnswers s t .ok 0x51 [])

/-! ## The floor cap, the change flags, the tallies -/

/-- R124, R122, R68, R69: SET FLOOR CAP stores the value and the enable, and every segment takes its new effective cap, the smallest of
1000, its segment cap, the enabled floor cap and the contact cap while ASSERTED: a cap below H clamps H; R87: at a rise a segment takes
a depth raise from the outer segment of an active link, here where that one has no active link itself and keeps its H; a segment
without an outer link whose H stays under its cap keeps all else. An enable above 1 and (R177) a short body answer BAD FIELD. -/
def Obligations.SetFloorCapRecomputesEveryCap : Prop :=
  ∀ (s : State) (body : List Byte),
    let v := min (word2At body 0) 1000
    let c : Composer := { s.composer with floorCap := v, floorCapOn := byteAt body 2 == 1 }
    let capOf (segmentCap : Nat) := min (min 1000 segmentCap)
      (min (if byteAt body 2 = 1 then v else 1000) (if s.composer.shedAsserted then 600 else 1000))
    (body.length < 3 ∨ 1 < byteAt body 2 → ∃ t, exec (.setFloorCap body) s = .next t ∧
      PortAnswers s t .badField 0x60 [] ∧ t = { s with port := t.port })
    ∧ (TablesOk s → HarvestOk s → 3 ≤ body.length → byteAt body 2 ≤ 1 → ∃ t, exec (.setFloorCap body) s = .next t ∧
        t.composer = c
        ∧ (∀ i : Nat, ∀ g ∈ seg? s i,
            let cap := capOf g.cfg.cap
            let dwells := g.ctl = .tracking ∧ 0 < g.cfg.cutOff ∧ cap ≤ g.cfg.cutOff
            let capped : Segment := { g with effCap := cap }
            let clamped : Segment :=
              { capped with
                h := cap
                ctl := if dwells then .dwell else g.ctl
                offTimer := if dwells then (if g.held then none else some (g.cfg.offDelay * 10)) else g.offTimer }
            (seg? t i).map (·.effCap) = some cap
            ∧ (g.cfg.outer = none → g.h ≤ cap ∨ g.cfg.mode = .manual → seg? t i = some capped)
            ∧ ((∀ e ∈ s.segs, capOf e.2.cfg.cap ≤ e.2.effCap) → g.cfg.mode = .harvest → cap < g.h →
                seg? t i = some clamped)
            ∧ (∀ o ∈ g.cfg.outer, ∀ u ∈ seg? s o, u.cfg.mode = .harvest → u.cfg.outer = none → u.h ≤ capOf u.cfg.cap →
                g.cfg.mode = .harvest →
                seg? t i = some
                  (if cap < g.h then clamped else if g.effCap < cap then afterRaise u.h capped else capped)))
        ∧ PortAnswers s t (if v = word2At body 0 then .ok else .clamped) 0x60 (bytes2 v ++ [byte (byteAt body 2)])
        ∧ t.inputs = s.inputs ∧ t.overrides = s.overrides ∧ t.inputLine = s.inputLine ∧ t.time = s.time
        ∧ t.pending = s.pending ∧ OnlyRecomposed s t)

/-- R168: READ CHANGES returns the first 16 set flags in walk order, clears exactly those, and says whether one is still set. R173: the
2 bytes of a pair; R168: the walk, the floor, the list, luminaires, segments, inputs, each table by ascending key. -/
def Obligations.ReadChangesReturnsAndClears : Prop :=
  (flagBytes .floor = [byte 0, byte 0] ∧ flagBytes .list = [byte 1, byte 0]
    ∧ (∀ k < 128, flagBytes (.lum k) = [byte 2, byte (if k < 64 then k else 128 + (k - 64))])
    ∧ (∀ i, flagBytes (.segment i) = [byte 3, byte i]) ∧ ∀ a, flagBytes (.input a) = [byte 4, byte a])
  ∧ (∀ s : State, TablesOk s → setFlags s =
      (if s.port.floorChanged then [FlagKey.floor] else []) ++ (if s.overrides.changed then [FlagKey.list] else [])
        ++ ((List.range 128).filter fun k => (lum? s k).any (·.changed)).map FlagKey.lum
        ++ ((List.range 32).filter fun i => (seg? s i).any (·.changed)).map FlagKey.segment
        ++ ((List.range 48).filter fun a => (input? s a).any (·.changed)).map FlagKey.input)
  ∧ ∀ (s : State) (body : List Byte), TablesOk s →
    let flags := setFlags s
    ∃ t, exec (.readChanges body) s = .next t ∧
      PortAnswers { s with port := { s.port with floorChanged := false } } t .ok 0x62
        ([byte (flags.take 16).length, byte (if 16 < flags.length then 1 else 0)]
          ++ (flags.take 16).flatMap flagBytes)
      ∧ setFlags t = flags.drop 16
      ∧ (∀ k : Nat, (lum? t k).map (fun l => { l with changed := false })
          = (lum? s k).map (fun l => { l with changed := false }))
      ∧ (∀ k : Nat, (seg? t k).map (fun g => { g with changed := false })
          = (seg? s k).map (fun g => { g with changed := false }))
      ∧ (∀ k : Nat, (input? t k).map (fun n => { n with changed := false })
          = (input? s k).map (fun n => { n with changed := false }))
      ∧ t.overrides = { s.overrides with changed := false } ∧ t.lineA = s.lineA ∧ t.lineB = s.lineB ∧ SameFloor s t

/-- R131, R132: SNAPSHOT TALLY captures the 32 tallies and raises the snapshot number, 255 being followed by 1; READ TALLY
answers at most 8 entries from its id; R177: without its body it answers BAD FIELD. -/
def Obligations.TalliesAreCapturedAndRead : Prop :=
  ∀ (s : State) (body : List Byte),
    let n := if s.composer.snapshotNumber < 255 then s.composer.snapshotNumber + 1 else 1
    (∃ t, exec (.snapshotTally body) s = .next t ∧
      t.composer.snapshot.length = 32
      ∧ (∀ i ∈ List.range 32, t.composer.snapshot[i]? = some (((seg? s i).map (·.tally)).getD 0))
      ∧ t.composer = { s.composer with snapshot := t.composer.snapshot, snapshotNumber := n }
      ∧ PortAnswers s t .ok 0x63 [byte n] ∧ t = { s with composer := t.composer, port := t.port })
    ∧ (body.length < 1 → ∃ t, exec (.readTally body) s = .next t ∧
        PortAnswers s t .badField 0x64 [] ∧ t = { s with port := t.port })
    ∧ (1 ≤ body.length → ∃ t, exec (.readTally body) s = .next t ∧
        (31 < byteAt body 0 → PortAnswers s t .badField 0x64 [])
        ∧ (byteAt body 0 ≤ 31 → PortAnswers s t .ok 0x64
            ([byte s.composer.snapshotNumber, byte (byteAt body 0)]
              ++ ((s.composer.snapshot.drop (byteAt body 0)).take 8).flatMap bytes4))
        ∧ t = { s with port := t.port })

/-! ## Resets and the time base -/

/-- R24, R78, R100, R120, R133, R149, R163, R170: WARM RESET keeps every configuration field, the tallies, the floor cap and the
lines' states, and reinitialises the runtime of every record; every assigned luminaire is composed afresh, a RUNNING line takes the
full refresh in ascending address order, and the reply of a due poll in flight is marked to be discarded; its answer is OK. -/
def Obligations.WarmResetKeepsConfiguration : Prop :=
  ∀ (s : State) (body : List Byte), TablesOk s →
    ∃ t, exec (.warmReset body) s = .next t ∧
      (∀ i : Nat, ∀ g ∈ seg? s i, ∃ u ∈ seg? t i,
        u.cfg = g.cfg ∧ u.tally = g.tally ∧ u.effCap = effectiveCap s.composer g.cfg.cap ∧ u.activity = .occupied
        ∧ u.held = false ∧ u.shortfall = false ∧ u.changed = false ∧ u.offTimer = none ∧ u.shortTimer = none
        ∧ u.setbackTimer = none ∧ u.holdTimer = (if g.cfg.sensing then some (g.cfg.occupancyHold * 600) else none)
        ∧ (g.cfg.mode = .manual → u.ctl = .forced ∧ u.h = g.h ∧ u.blind = false ∧ u.stepTimer = none)
        ∧ (g.cfg.mode = .harvest → u.ctl = .tracking ∧ u.blind = true ∧ min g.cfg.fallback u.effCap ≤ u.h
            ∧ u.stepTimer = some (min g.cfg.upInterval g.cfg.downInterval)
            ∧ u.blindTimer = some (g.cfg.sensorless * 10))
        ∧ (g.cfg.mode = .harvest → g.cfg.outer = none → u.h = min g.cfg.fallback u.effCap))
      ∧ (∀ k : Nat, ∀ l ∈ lum? s k, (lum? t k).map (fun u => { u with composed := none })
          = some { l with composed := none, mismatchCount := 0, unconfirmed := false, changed := false })
      ∧ (∀ a : Nat, ∀ n ∈ input? s a, ∃ u ∈ input? t a,
          u.link = .absent ∧ u.missCount = 0 ∧ u.changed = false ∧ u.interval = n.interval
          ∧ u.missLimit = n.missLimit ∧ deviceKind u.device = deviceKind n.device
          ∧ (s.inputLine.state = .running → u.pollTimer = some n.interval)
          ∧ (∀ c m, n.device = .photo c m → u.device = .photo c unseeded)
          ∧ (∀ x last, n.device = .presence x last → u.device = .presence x none)
          ∧ (∀ x h b q, n.device = .station x h b q → u.device = .station x h none none))
      ∧ t.overrides = { records := [], counter := 1, changed := false }
      ∧ t.composer = { s.composer with snapshot := List.replicate 32 0, snapshotNumber := 0 }
      ∧ t.inputLine =
          { s.inputLine with
            due := []
            flight := s.inputLine.flight.map fun f =>
              match f with
              | .due a .live => .due a .discard
              | other => other }
      ∧ (∀ k : Nat, ∀ l ∈ lum? t k, ∀ p ∈ l.place, ∀ g ∈ seg? t p.segment,
          l.composed = some (composeFrom l g.effCap (requestedLevel t g p)))
      ∧ (∀ i : LineId,
          let cleared : FixtureLine := { lineOf i s with queue := [], confirm := [], slot := none }
          lineOf i t =
            (if cleared.state = .running then
              chooseFrame
                { cleared with
                  queue := t.lums.filterMap fun e =>
                    if keyLine e.1 = i ∧ e.2.place.isSome = true then e.2.composed.map fun c => ⟨e.1, c.code⟩ else none }
             else cleared))
      ∧ t.time = s.time ∧ t.pending = s.pending
      ∧ t.port = { s.port with floorChanged := true, attn := true, offered := ⟨.ok, byte 0x7F, []⟩ }

/-- R171 and the cold reset values of every chapter: the tables and the list empty, the lines RUNNING and idle, the floor cap off
at 1000, the contact taken from the pin (log 3), the cold start and floor change flags set, ATTN asserted, a NOP's answer offered. The
receive pins keep their levels, and so do the model's own queue and draw counter (log 7). -/
def Obligations.ColdResetStartsAfresh : Prop :=
  ∀ (s : State) (low : Bool),
    let line (rx : Bool) : FixtureLine :=
      { state := .running, queue := [], confirm := [], slot := none, mark := none, flight := none, rxHigh := rx }
    ∃ t, exec (.coldReset low) s = .next t ∧
      t = { lums := [], segs := [], inputs := [],
            overrides := { records := [], counter := 1, changed := false },
            composer :=
              { shedAsserted := low, shedPinLow := low, floorCap := 1000, floorCapOn := false,
                snapshot := List.replicate 32 0, snapshotNumber := 0 },
            lineA := line s.lineA.rxHigh, lineB := line s.lineB.rxHigh,
            inputLine :=
              { state := .running, due := [], spotRequest := none, spotResult := none, flight := none,
                rxHigh := s.inputLine.rxHigh },
            port :=
              { offered := { status := .ok, echo := 0#8, body := [] }, coldStart := true, floorChanged := true,
                attn := true },
            time := { phase := 0, tallyDue := false, holdsDue := false }, draws := s.draws, pending := s.pending }

/-- R1: a tenth takes every running timer one tenth on, and every 600th makes a minute event due. R123: the contact state changes
where two tenths in a row differ from it, with the floor change flag; R122, R68, R69: every segment then takes its new effective
cap, a cap below H clamps H, R87: at a rise a segment takes a depth raise, and nothing but its cap, H, controller state, off-delay
and step timer may differ. R139: the empty scan slot of a RUNNING line takes the next enrolled luminaire; at a tenth that changes
the contact this may come before or after the hand-overs (log 4). The pin's level is the command's operand (log 3); a timer without a tenth left stays due (log 2). That a change of the contact acts before
every expiry and minute half of the same tenth, on the ticked records, and that the scan slots are filled before them, are the
model's choices (logs 24 and 28). -/
def Obligations.TenthCountsAndSamples : Prop :=
  ∀ (s : State) (low : Bool),
    let changes := s.composer.shedPinLow = low ∧ s.composer.shedAsserted ≠ low
    let tick (x : Timer) : Timer := x.map (· - 1)
    let ticked (g : Segment) : Segment :=
      { g with
        stepTimer := tick g.stepTimer, offTimer := tick g.offTimer, blindTimer := tick g.blindTimer,
        shortTimer := tick g.shortTimer, holdTimer := tick g.holdTimer, setbackTimer := tick g.setbackTimer }
    let pick (i : LineId) : Option Nat :=
      let line := lineOf i s
      let keys := enrolledOn i s
      let above := keys.filter fun k => line.mark.all (· < keyAddress k) && line.mark.isSome
      if line.state = .running ∧ line.slot = none then (if above = [] then keys.head? else above.head?) else none
    let filled (i : LineId) : FixtureLine :=
      { lineOf i s with slot := pick i, mark := (pick i).map keyAddress }
    let c : Composer :=
      { s.composer with shedAsserted := if changes then low else s.composer.shedAsserted, shedPinLow := low }
    ∃ t, exec (.tenth low) s = .next t ∧
      t.composer = c
      ∧ t.time =
          (if s.time.phase + 1 < 600 then { s.time with phase := s.time.phase + 1 }
           else { phase := 0, tallyDue := true, holdsDue := true })
      ∧ t.port = { s.port with floorChanged := s.port.floorChanged || decide changes, attn := t.port.attn }
      ∧ (∀ a : Nat, ∀ n ∈ input? s a, ∃ u ∈ input? t a,
          u.pollTimer = tick n.pollTimer ∧ { u with pollTimer := none, device := n.device } = { n with pollTimer := none }
          ∧ (∀ c m, n.device = .photo c m → u.device = .photo c { m with quarantineTimer := tick m.quarantineTimer })
          ∧ (deviceKind n.device ≠ .photo → u.device = n.device))
      ∧ (¬changes →
          (∀ i : Nat, seg? t i = (seg? s i).map ticked)
          ∧ t.lums = s.lums
          ∧ ∀ i : LineId, lineOf i t = (if (pick i).isSome then chooseFrame (filled i) else lineOf i s))
      ∧ (changes → TablesOk s → HarvestOk s →
          (∀ i : Nat, ∀ g ∈ seg? s i,
            let cap := effectiveCap c g.cfg.cap
            (∃ u ∈ seg? t i, u.effCap = cap
              ∧ { u with effCap := g.effCap, h := g.h, ctl := g.ctl, offTimer := g.offTimer, stepTimer := g.stepTimer }
                = { ticked g with offTimer := g.offTimer, stepTimer := g.stepTimer })
            ∧ (g.cfg.outer = none → g.h ≤ cap ∨ g.cfg.mode = .manual → seg? t i = some { ticked g with effCap := cap })
            ∧ (∀ o ∈ g.cfg.outer, ∀ u ∈ seg? s o, u.cfg.mode = .harvest → u.cfg.outer = none →
                u.h ≤ effectiveCap c u.cfg.cap → g.cfg.mode = .harvest → g.h ≤ cap → g.effCap < cap →
                seg? t i = some (afterRaise u.h { ticked g with effCap := cap }))
            ∧ ((∀ e ∈ s.segs, effectiveCap c e.2.cfg.cap ≤ e.2.effCap) → g.cfg.mode = .harvest → cap < g.h →
                let dwells := g.ctl = .tracking ∧ 0 < g.cfg.cutOff ∧ cap ≤ g.cfg.cutOff
                seg? t i = some
                  { ticked g with
                    effCap := cap
                    h := cap
                    ctl := if dwells then .dwell else g.ctl
                    offTimer :=
                      if dwells then (if g.held then none else some (g.cfg.offDelay * 10)) else tick g.offTimer }))
          ∧ (∀ k : Nat, (lum? t k).map lumSettings = (lum? s k).map lumSettings)
          ∧ ∀ i : LineId, lineSettings (lineOf i t) =
              lineSettings (if (pick i).isSome then filled i else lineOf i s))
      ∧ t.overrides = s.overrides ∧ t.inputLine = s.inputLine ∧ t.pending = s.pending

/-- R130, R111: at a minute event every tally rises by its members' composed levels and saturates, and every numeric hold is
reduced by 1, the records that reach 0 leaving the list. R130: at OVERRIDE_HOLD_EXPIRY the override list takes its half first, and
MINUTE_EVENT then takes the tallies alone; a half that has been taken is not taken again (log 5). The list's change flag is set where a
record leaves it (log 14). -/
def Obligations.MinuteEventCountsOnce : Prop :=
  ∀ (s : State) (handle : Nat), TablesOk s → RefsOk s →
    let l := s.overrides
    let counted := l.records.map fun o => { o with hold := o.hold.map (· - 1) }
    let list : OverrideList :=
      { l with
        records := counted.filter fun o => o.hold != some 0
        changed := l.changed || counted.any fun o => o.hold == some 0 }
    let levels (i : Nat) := ((s.lums.filter fun e => e.2.place.any fun p => p.segment == i).map fun e =>
      (e.2.composed.map (·.level)).getD 0).sum
    (∃ t, exec .minuteEvent s = .next t ∧
      (∀ i : Nat, (seg? t i).map (·.tally) = (seg? s i).map (fun g =>
        if s.time.tallyDue then min 4294967295 (g.tally + levels i) else g.tally))
      ∧ t.overrides = (if s.time.holdsDue then list else l)
      ∧ t.time = { s.time with tallyDue := false, holdsDue := false }
      ∧ (s.time.holdsDue = false → (∀ i : Nat, (seg? t i).map (fun g => { g with tally := 0 })
          = (seg? s i).map (fun g => { g with tally := 0 })) ∧ SameFixtures s t)
      ∧ t.inputs = s.inputs ∧ t.composer = s.composer ∧ t.inputLine = s.inputLine ∧ t.pending = s.pending
      ∧ SamePort s t ∧ OnlyRecomposed s t)
    ∧ (s.time.holdsDue = true → l.records.any (fun o => o.handle == handle && o.hold == some 1) = true →
        ∃ t, exec (.overrideHoldExpiry handle) s = .next t ∧
          t.overrides = list ∧ t.time = { s.time with holdsDue := false }
          ∧ (∀ i : Nat, (seg? t i).map (·.tally) = (seg? s i).map (·.tally))
          ∧ t.inputs = s.inputs ∧ t.composer = s.composer ∧ t.inputLine = s.inputLine ∧ t.pending = s.pending
          ∧ SamePort s t ∧ OnlyRecomposed s t)

/-! ## The harvest controller

An expiry is due at a timer that runs and has no tenth left (log 2). -/

/-- R54, R57, R58, R72: a step event at a TRACKING or DWELL segment that is not held and has an active sensor: the step toward the
band, the test against C, the reload of the step timer, the shortfall monitor; R66: the blind flag cleared. R82: a rise reaches a
TRACKING inner segment. -/
def Obligations.StepEventStepsTowardTheBand : Prop :=
  ∀ (s : State) (i : Nat), TablesOk s → RefsOk s → ∀ g ∈ seg? s i, ∀ e ∈ estimate s g,
    timerDue g.stepTimer = true → g.held = false → (g.ctl = .tracking ∨ (g.ctl = .dwell ∧ g.h ≤ g.cfg.cutOff)) →
    let low := e + g.cfg.tolerance < g.cfg.target
    let high := g.cfg.target + g.cfg.tolerance < e
    let h :=
      if low then min (g.h + g.cfg.upStep) g.effCap
      else if high then min g.h (max (g.h - g.cfg.downStep) (depthFloor s g))
      else g.h
    let enters := g.ctl = .tracking ∧ h ≠ g.h ∧ 0 < g.cfg.cutOff ∧ h ≤ g.cfg.cutOff
    let leaves := g.ctl = .dwell ∧ g.cfg.cutOff < h
    ∃ t, exec (.stepEvent i) s = .next t ∧
      seg? t i = some
        { g with
          h := h
          ctl := if enters then .dwell else if leaves then .tracking else g.ctl
          offTimer :=
            if enters then some (g.cfg.offDelay * 10)
            else if leaves then none
            else if g.ctl = .dwell then some (g.offTimer.getD (g.cfg.offDelay * 10))
            else g.offTimer
          stepTimer := some
            (if h = g.h then min g.cfg.upInterval g.cfg.downInterval
             else if low then g.cfg.upInterval else g.cfg.downInterval)
          shortTimer :=
            if low ∧ g.h = g.effCap then
              (if g.shortTimer = none ∧ g.shortfall = false then some (g.cfg.shortfallTime * 600) else g.shortTimer)
            else none
          blind := false
          blindTimer := none
          changed := g.changed || g.blind }
      ∧ (h ≤ g.h → OtherSegsSame s t i)
      ∧ (∀ j : Nat, ∀ u ∈ seg? s j, g.h < h → g.cfg.mode = .harvest → u.cfg.mode = .harvest → u.cfg.outer = some i →
          u.ctl = .tracking → (seg? t j).map (·.h) = some (max u.h (min h u.effCap)))
      ∧ SameAround s t ∧ SamePort s t ∧ OnlyRecomposed s t

/-- R60: in STRIKE the step event ends the strike hold. R55: at a held segment it makes no evaluation. R56: without an active
sensor the segment is blind. R59: in DAYLIT it strikes below the relight threshold, and only then. -/
def Obligations.StepEventElsewhere : Prop :=
  ∀ (s : State) (i : Nat), TablesOk s → RefsOk s → ∀ g ∈ seg? s i, timerDue g.stepTimer = true → g.ctl ≠ .forced →
    let shorter := some (min g.cfg.upInterval g.cfg.downInterval)
    let still (u : Segment) := ∃ t, exec (.stepEvent i) s = .next t ∧
      seg? t i = some u ∧ OtherSegsSame s t i ∧ SameFixtures s t ∧ SameAround s t ∧ SamePort s t
    (g.ctl = .strike → still { g with ctl := .tracking, stepTimer := shorter })
    ∧ (g.ctl ≠ .strike → g.held = true → still { g with stepTimer := shorter })
    ∧ (g.ctl ≠ .strike → g.held = false → activeSensor s g = none → still
        { g with
          stepTimer := shorter
          blind := true
          changed := g.changed || !g.blind
          blindTimer := some (g.blindTimer.getD (g.cfg.sensorless * 10))
          shortTimer := none
          offTimer := if g.ctl = .dwell then some (g.offTimer.getD (g.cfg.offDelay * 10)) else g.offTimer })
    ∧ (∀ e ∈ estimate s g, g.ctl = .daylit → g.held = false →
        let sees : Segment := { g with blind := false, blindTimer := none, changed := g.changed || g.blind }
        let threshold := max 1 (g.cfg.target - g.cfg.tolerance - g.cfg.relightMargin)
        (threshold ≤ e → still { sees with stepTimer := shorter })
        ∧ (e < threshold → ∃ t, exec (.stepEvent i) s = .next t ∧
            seg? t i = some
              { sees with
                ctl := .strike
                h := min (max g.cfg.strikeLevel (((activeOuter s g).map (·.h)).getD 0)) g.effCap
                stepTimer := some g.cfg.upInterval }
            ∧ SameAround s t ∧ SamePort s t ∧ OnlyRecomposed s t))

/-- R62: at its off-delay expiry a segment restarts the timer while the outer segment of its active link is lit, and goes DAYLIT
otherwise. R67: at its blind expiry H rises to the fallback level under the cap, and the segment goes TRACKING; R81, R82: the rise
strikes a DAYLIT inner segment. -/
def Obligations.OffDelayAndBlindExpiries : Prop :=
  ∀ (s : State) (i : Nat), TablesOk s → RefsOk s → ∀ g ∈ seg? s i,
    (timerDue g.offTimer = true → ∃ t, exec (.offDelayExpiry i) s = .next t ∧
      seg? t i = some
        (if 0 < ((activeOuter s g).map (·.h)).getD 0 then { g with offTimer := some (g.cfg.offDelay * 10) }
         else { g with ctl := .daylit, h := 0, offTimer := none, shortTimer := none })
      ∧ OtherSegsSame s t i ∧ SameAround s t ∧ SamePort s t ∧ OnlyRecomposed s t)
    ∧ (timerDue g.blindTimer = true →
        let h := max g.h (min g.cfg.fallback g.effCap)
        ∃ t, exec (.blindTimerExpiry i) s = .next t ∧
          seg? t i = some
            { g with
              h := h
              ctl := .tracking
              offTimer := if g.ctl = .dwell then none else g.offTimer
              blindTimer := none }
          ∧ (h = g.h → OtherSegsSame s t i)
          ∧ (∀ j : Nat, ∀ u ∈ seg? s j, g.h < h → g.cfg.mode = .harvest → u.cfg.mode = .harvest →
              u.cfg.outer = some i → u.ctl = .daylit → u.h < min h u.effCap →
              seg? t j = some
                { u with
                  ctl := .strike
                  h := min (max u.cfg.strikeLevel h) u.effCap
                  stepTimer := some u.cfg.upInterval })
          ∧ SameAround s t ∧ SamePort s t ∧ OnlyRecomposed s t)

/-- R73: at its shortfall expiry a segment's shortfall flag and change flag are set. R38: at its quarantine expiry a photosensor
enters UNSEEDED with its change flag set. R152: at its poll expiry an input's timer restarts, and on a RUNNING line it joins the
due list. -/
def Obligations.ShortfallQuarantineAndPollExpiries : Prop :=
  ∀ (s : State) (i : Nat),
    (∀ g ∈ seg? s i, timerDue g.shortTimer = true → ∃ t, exec (.shortfallTimerExpiry i) s = .next t ∧
      seg? t i = some { g with shortfall := true, changed := true, shortTimer := none } ∧ OtherSegsSame s t i
      ∧ SameFixtures s t ∧ SameAround s t ∧ t.port = { s.port with attn := true })
    ∧ (∀ n ∈ input? s i, ∀ c m, n.device = .photo c m → timerDue m.quarantineTimer = true →
        ∃ t, exec (.quarantineTimerExpiry i) s = .next t ∧
          input? t i = some
            { n with
              changed := true
              device := .photo c
                { state := .unseeded, acc := 0, f0 := none, settleCount := 0, pendingJump := false, window := none,
                  quarantineTimer := none } }
          ∧ OtherInputsSame s t i ∧ t.port = { s.port with attn := true }
          ∧ t = { s with inputs := t.inputs, port := t.port })
    ∧ (∀ n ∈ input? s i, timerDue n.pollTimer = true → ∃ t, exec (.pollTimerExpiry i) s = .next t ∧
        let l := s.inputLine
        input? t i = some { n with pollTimer := some n.interval } ∧ OtherInputsSame s t i
        ∧ t.inputLine =
            (if l.state = .running then choosePoll { l with due := if i ∈ l.due then l.due else l.due ++ [i] } else l)
        ∧ SamePort s t ∧ t = { s with inputs := t.inputs, inputLine := t.inputLine, port := t.port })

/-! ## Occupancy -/

/-- R93: at its occupancy-hold expiry a watched segment goes to SETBACK and is held, an unwatched one restarts its timer. R94: at
its setback expiry a segment goes VACANT, and its OCCUPANT records are retired, the list's change flag being set where it had one
(log 14). An expiry is due at a timer with no tenth left (log 2). -/
def Obligations.OccupancyTimersDimTheSegment : Prop :=
  ∀ (s : State) (i : Nat), ∀ g ∈ seg? s i,
    (timerDue g.holdTimer = true → ∃ t, exec (.occupancyHoldExpiry i) s = .next t ∧
      seg? t i = some
        (if watched s i then
          { g with
            activity := .setback, holdTimer := none, setbackTimer := some (g.cfg.setbackTime * 600), changed := true,
            held := true, offTimer := if g.held then g.offTimer else none,
            shortTimer := if g.held then g.shortTimer else none }
         else { g with holdTimer := some (g.cfg.occupancyHold * 600) })
      ∧ (watched s i = false → SameFixtures s t)
      ∧ OtherSegsSame s t i ∧ SameAround s t ∧ SamePort s t ∧ OnlyRecomposed s t)
    ∧ (timerDue g.setbackTimer = true → ∃ t, exec (.setbackTimerExpiry i) s = .next t ∧
        seg? t i = some
          { g with
            activity := .vacant, setbackTimer := none, changed := true, held := true,
            offTimer := if g.held then g.offTimer else none, shortTimer := if g.held then g.shortTimer else none }
        ∧ t.overrides =
            { s.overrides with
              records := s.overrides.records.filter fun o => o.scope.segment != i || o.cls == .facility
              changed := s.overrides.changed
                || s.overrides.records.any fun o => o.scope.segment == i && o.cls != .facility }
        ∧ OtherSegsSame s t i ∧ t.inputs = s.inputs ∧ SameFloor s t ∧ SamePort s t ∧ OnlyRecomposed s t)

/-! ## The input line -/

/-- R27 to R37: a sample at a measurement record, state by state. R29: a feed leaves A between what it was and S × 256. R35: a sample
in an open window takes one from its samples remaining, and the window closes where none is left. -/
def Obligations.SamplesFollowTheirRules : Prop :=
  ∀ (c : PhotoConfig) (m : Measurement) (x : Nat),
    let f := m.acc / 256
    let far := (x - f) + (f - x)
    let fed := feedAcc c.shift m.acc x
    let counted (w : Option Window) : Option Window :=
      w.bind fun v => if v.remaining ≤ 1 then none else some ⟨v.remaining - 1, v.reseeds⟩
    let moved (a : Nat) (f0 : Nat) := decide (c.tolerance < (a / 256 - f0) + (f0 - a / 256))
    (min m.acc (x * 256) ≤ fed ∧ fed ≤ max m.acc (x * 256) ∧ (c.shift = 0 → fed = x * 256)
      ∧ fed = ((m.acc : Int) + ((x * 256 : Nat) - (m.acc : Int)).tdiv (2 ^ c.shift)).toNat)
    ∧ (m.state = .unseeded →
        sample c m x = ({ m with acc := x * 256, settleCount := 0, state := .settling }, false))
    ∧ (m.state = .settling → c.tolerance < far → sample c m x = ({ m with acc := x * 256, settleCount := 0 }, false))
    ∧ (m.state = .settling → far ≤ c.tolerance → m.settleCount = 3 →
        sample c m x = ({ m with acc := fed, state := .settled, f0 := some (fed / 256), settleCount := 0 }, false))
    ∧ (m.state = .settling → far ≤ c.tolerance → m.settleCount ≠ 3 →
        sample c m x = ({ m with acc := fed, settleCount := m.settleCount + 1 }, false))
    ∧ (m.state = .settled → c.spike = 0 ∨ far ≤ c.spike → ∀ f0 ∈ m.f0,
        sample c m x =
          ({ m with
              acc := fed, pendingJump := false, window := counted m.window,
              f0 := if moved fed f0 then some (fed / 256) else some f0 }, moved fed f0))
    ∧ (m.state = .settled → c.spike ≠ 0 → c.spike < far → m.pendingJump = false →
        sample c m x = ({ m with pendingJump := true, window := counted m.window }, false))
    ∧ (m.state = .settled → c.spike ≠ 0 → c.spike < far → m.pendingJump = true →
        (∀ w ∈ m.window, 2 ≤ w.reseeds →
          sample c m x =
            ({ m with
                acc := x * 256, pendingJump := false, state := .quarantined, window := none,
                quarantineTimer := some 9000 }, false))
        ∧ ∀ f0 ∈ m.f0, (∀ w ∈ m.window, w.reseeds < 2) →
          sample c m x =
            ({ m with
                acc := x * 256, pendingJump := false,
                f0 := if moved (x * 256) f0 then some (x * 256 / 256) else some f0,
                window := if m.window = none then some ⟨16, 1⟩
                  else counted (m.window.map fun w => { w with reseeds := w.reseeds + 1 }) },
              moved (x * 256) f0))
    ∧ (m.state = .quarantined → sample c m x = (m, false))

/-- R154, R27, R47: the valid reply of a photosensor makes it REPORTING and is one sample. R41: without a sky change no segment
takes anything; with one, exactly those whose active sensor it is. R63: such a segment, in HARVEST and not held, makes an early up
step in TRACKING or DWELL below band, and strikes in DAYLIT below the relight threshold; where its step timer is due, that step
event may be taken first, on the F that the sample left, and the sky change then acts on what it leaves: the order is free (log 4).
Its whole record is given where it alone names the sensor or its link is not active, and in every order of the segments (log 4) an
H at least as high. No other segment's H falls. That the sky changes are taken in the sample's own command, with no other event
between, is the model's choice (log 26). -/
def Obligations.PhotoRepliesAreSamples : Prop :=
  ∀ (s : State) (a x : Nat) (bytes : List LineByte), TablesOk s → RefsOk s → s.inputLine.flight = some (.due a .live) →
    decodeInputReply a bytes = some (.photo x) → ∀ n ∈ input? s a, ∀ c m, n.device = .photo c m →
    let r := sample c m x
    let new : Input :=
      { n with
        device := .photo c r.1
        link := .reporting
        missCount := 0
        changed := n.changed || n.link != .reporting || (r.1.state == .quarantined && m.state != .quarantined) }
    let e := min (r.1.acc / 256 * c.ratio / 1024) 65535
    let takes (g : Segment) := activeSensor s g = some a ∧ g.cfg.mode = .harvest ∧ g.held = false
    let steps (g : Segment) := takes g ∧ (g.ctl = .tracking ∨ g.ctl = .dwell) ∧ e + g.cfg.tolerance < g.cfg.target
    let strikes (g : Segment) := takes g ∧ g.ctl = .daylit
      ∧ e < max 1 (g.cfg.target - g.cfg.tolerance - g.cfg.relightMargin)
    let up (g : Segment) := min (g.h + g.cfg.upStep) g.effCap
    let early (g : Segment) : Segment :=
      if steps g ∧ up g ≠ g.h then
        { g with
          h := up g
          ctl := if g.ctl = .tracking ∧ 0 < g.cfg.cutOff ∧ up g ≤ g.cfg.cutOff then .dwell
            else if g.ctl = .dwell ∧ g.cfg.cutOff < up g then .tracking
            else g.ctl
          offTimer := if g.ctl = .tracking ∧ 0 < g.cfg.cutOff ∧ up g ≤ g.cfg.cutOff then some (g.cfg.offDelay * 10)
            else if g.ctl = .dwell ∧ g.cfg.cutOff < up g then none
            else g.offTimer
          stepTimer := some g.cfg.upInterval }
      else if strikes g then
        { g with
          ctl := .strike
          h := min (max g.cfg.strikeLevel (((activeOuter s g).map (·.h)).getD 0)) g.effCap
          stepTimer := some g.cfg.upInterval }
      else g
    ∃ t, exec (.inputReply bytes) s = .next t ∧
      input? t a = some new ∧ OtherInputsSame s t a
      ∧ t.inputLine = choosePoll { s.inputLine with flight := none }
      ∧ (r.2 = false → t.segs = s.segs ∧ SameFixtures s t)
      ∧ (∀ i : Nat, ∀ g ∈ seg? s i, r.2 = true →
          let due := timerDue g.stepTimer = true ∧ activeSensor s g = some a
          (activeOuter s g = none
              ∨ (∀ j : Nat, ∀ u ∈ seg? s j, j ≠ i → u.cfg.primary ≠ some a ∧ u.cfg.secondary ≠ some a) →
            seg? t i = some (early g)
            ∨ (due ∧ ∃ v, exec (.stepEvent i) { s with inputs := t.inputs } = .next v
                ∧ seg? t i = (seg? v i).map early))
          ∧ (HarvestOk s → ∃ u ∈ seg? t i, u.cfg = g.cfg ∧ (¬due → g.h ≤ u.h) ∧ (steps g → up g ≤ u.h)
              ∧ (strikes g → u.ctl = .strike ∧ min g.cfg.strikeLevel g.effCap ≤ u.h)))
      ∧ t.overrides = s.overrides ∧ t.composer = s.composer ∧ t.time = s.time ∧ t.pending = s.pending
      ∧ SamePort s t ∧ OnlyRecomposed s t

/-- R154, R90, R92: the valid reply of a presence sensor: its last report, and for MOTION every covered segment whose sensing is on
becomes OCCUPIED with its hold timer restarted; no other segment is touched. -/
def Obligations.PresenceRepliesGiveMotion : Prop :=
  ∀ (s : State) (a : Nat) (bytes : List LineByte), TablesOk s → HeldOk s →
    s.inputLine.flight = some (.due a .live) → ∀ n ∈ input? s a, ∀ coverage last, n.device = .presence coverage last →
    ∀ v ∈ decodeInputReply a bytes, v.kind = .presence →
    let isMotion := v == .presence true
    ∃ t, exec (.inputReply bytes) s = .next t ∧
      input? t a = some
        { n with
          device := .presence coverage (some (if isMotion then .motion else .quiet))
          link := .reporting, missCount := 0, changed := n.changed || n.link != .reporting }
      ∧ OtherInputsSame s t a ∧ t.inputLine = choosePoll { s.inputLine with flight := none }
      ∧ (∀ j : Nat, ∀ g ∈ seg? s j,
          seg? t j = some
            (if isMotion = true ∧ j ∈ coverage ∧ g.cfg.sensing = true then
              { g with
                activity := .occupied, holdTimer := some (g.cfg.occupancyHold * 600), setbackTimer := none,
                changed := g.changed || g.activity != .occupied,
                held := s.overrides.records.any fun o => o.scope.segment == j }
             else g))
      ∧ (isMotion = false → SameFixtures s t)
      ∧ t.overrides = s.overrides ∧ t.composer = s.composer ∧ t.time = s.time ∧ t.pending = s.pending
      ∧ SamePort s t ∧ OnlyRecomposed s t

/-- R114, R115: what RAISE, LOWER, ON and OFF give on the station's own record, or without one. R155, R113, R116, R117: a reply
whose sequence differs from the recorded one is one press: the own record is refreshed at the front of the OCCUPANT records, or a
new one enters there; a full list displaces its last OCCUPANT record, or refuses the press where all its records are FACILITY; RESUME
retires every record of the station; R91, R92: the press is motion at the segment of the scope; R64, R65: each segment is then held or
released as the list says; a reply with the recorded sequence, or the first one, is no press. The list's change flag is set where a
record is retired (log 14). -/
def Obligations.StationPressesActOnTheirRecord : Prop :=
  (∀ (g : Segment) (v : Nat) (d : Int),
    pressAction g .raise (some (.set v)) = some (.set (min (v + 100) 1000))
    ∧ pressAction g .raise (some (.nudge d)) = some (.nudge (min (d + 100) 500))
    ∧ pressAction g .raise (some .off) = some (.set 100) ∧ pressAction g .raise none = some (.nudge 100)
    ∧ pressAction g .lower (some (.set v)) = some (.set (v - 100))
    ∧ pressAction g .lower (some (.nudge d)) = some (.nudge (max (d - 100) (-500)))
    ∧ pressAction g .lower (some .off) = some .off ∧ pressAction g .lower none = some (.nudge (-100))
    ∧ (∀ own, pressAction g .on own = some (.set 1000))
    ∧ ∀ own, pressAction g .off own = some (if g.cfg.stationOff then .off else .set g.cfg.setbackLevel))
  ∧ ∀ (s : State) (a q : Nat) (code : Byte) (bytes : List LineByte), TablesOk s → OverridesOk s →
    s.inputLine.flight = some (.due a .live) → decodeInputReply a bytes = some (.station q code) →
    ∀ n ∈ input? s a, ∀ scope hold shown recorded, n.device = .station scope hold shown recorded →
    let l := s.overrides
    let own := findRecord (.station a) scope l.records
    let last := l.records.reverse.find? fun o => o.cls == .occupant
    let answered (d : Device) (flag : Bool) : Input :=
      { n with device := d, link := .reporting, missCount := 0, changed := n.changed || flag || n.link != .reporting }
    let fresh (h : Nat) (act : OvAction) : Override :=
      { handle := h, origin := .station a, cls := .occupant, scope := scope, action := act, hold := some hold }
    ((recorded = none ∨ recorded = some q ∨ buttonOfCode code.toNat = none) →
      ∃ t, exec (.inputReply bytes) s = .next t ∧
        input? t a = some (answered (.station scope hold shown (some q)) false) ∧ OtherInputsSame s t a
        ∧ t.inputLine = choosePoll { s.inputLine with flight := none } ∧ SamePort s t
        ∧ t = { s with inputs := t.inputs, inputLine := t.inputLine, port := t.port })
    ∧ (∀ r ∈ recorded, r ≠ q → ∀ b ∈ buttonOfCode code.toNat, ∀ g ∈ seg? s scope.segment,
        ∃ t, exec (.inputReply bytes) s = .next t ∧
          input? t a = some (answered (.station scope hold (some b) (some q)) true) ∧ OtherInputsSame s t a
          ∧ (g.cfg.sensing = true → (seg? t scope.segment).map (fun u => (u.activity, u.holdTimer, u.setbackTimer))
              = some (.occupied, some (g.cfg.occupancyHold * 600), none))
          ∧ (HeldOk s → TimersOk s → ∀ j : Nat, ∀ u ∈ seg? s j,
              let moved : Segment :=
                if j = scope.segment ∧ u.cfg.sensing = true then
                  { u with
                    activity := .occupied, holdTimer := some (u.cfg.occupancyHold * 600), setbackTimer := none,
                    changed := u.changed || u.activity != .occupied }
                else u
              let held := moved.activity != .occupied || t.overrides.records.any fun o => o.scope.segment == j
              seg? t j = some
                { moved with
                  held := held
                  offTimer := if held then none else u.offTimer
                  shortTimer := if held then none else u.shortTimer })
          ∧ (b = .resume → t.overrides =
              { l with
                records := l.records.filter fun o => o.origin != .station a
                changed := l.changed || l.records.any fun o => o.origin == .station a })
          ∧ (∀ act ∈ pressAction g b (own.map Override.action),
              (∀ o ∈ own, t.overrides =
                { l with
                  records := insertFront { o with cls := .occupant, action := act, hold := some hold }
                    (l.records.filter fun p => p.handle != o.handle) })
              ∧ (own = none → l.records.length < 24 →
                  let h := freeHandle l.records 25 l.counter
                  t.overrides =
                    { l with records := insertFront (fresh h act) l.records, counter := handleAfter h })
              ∧ (own = none → l.records.length = 24 → ∀ d ∈ last,
                  let room := l.records.filter fun o => o.handle != d.handle
                  let h := freeHandle room 25 l.counter
                  t.overrides =
                    { records := insertFront (fresh h act) room, counter := handleAfter h, changed := true })
              ∧ (own = none → l.records.length = 24 → (l.records.all fun o => o.cls == .facility) = true →
                  t.overrides = l))
          ∧ t.inputLine = choosePoll { s.inputLine with flight := none } ∧ SamePort s t
          ∧ t.composer = s.composer ∧ t.time = s.time ∧ t.pending = s.pending ∧ OnlyRecomposed s t)

/-- R156: a valid reply of another kind: WRONG KIND, miss count 0. R157: no reply: the miss count rises to the limit, and the input
becomes ABSENT there. R158: where the link leaves REPORTING, a photosensor's record that was settling or settled enters UNSEEDED, a
presence sensor loses its last report, a station its sequence. R20, R163: a valid reply to a poll whose record was retired, or whose
reply a warm reset discards, acts on nothing, nor does a missing one where the record was retired; a missing reply counts as a miss
where a warm reset had marked the poll (log 9). R96, R98: where a presence sensor leaves REPORTING, each segment it covers that is in
SETBACK or VACANT with its sensing on and is now unwatched becomes OCCUPIED with its hold timer started and its change flag set; no other
segment changes. -/
def Obligations.LostLinksAreHandedOn : Prop :=
  ∀ (s : State) (a : Nat) (bytes : List LineByte) (mark : PollMark),
    s.inputLine.flight = some (.due a mark) →
    let free := choosePoll { s.inputLine with flight := none }
    let rest (t : State) := t.inputLine = free ∧ OtherInputsSame s t a ∧ t.overrides = s.overrides
      ∧ t.composer = s.composer ∧ t.time = s.time ∧ SamePort s t ∧ OnlyRecomposed s t
    let nothing (t : State) := t = { s with inputLine := free, port := t.port } ∧ SamePort s t
    (mark = .retired → ∃ t, exec .pollNoReply s = .next t ∧ nothing t)
    ∧ (mark ≠ .live → (decodeInputReply a bytes).isSome = true →
        (∃ t, exec (.inputReply bytes) s = .next t ∧ nothing t)
        ∧ ∃ t, exec (.inputReplyWrongKind bytes) s = .next t ∧ nothing t)
    ∧ ∀ n ∈ input? s a,
      let gone (link : InputLink) (misses : Nat) : Input :=
        { n with
          link := link, missCount := misses, changed := n.changed || n.link != link
          device := if n.link = .reporting then deviceLost n.device else n.device }
      let resolved (t : State) := HeldOk s → ∀ j : Nat, ∀ g ∈ seg? s j, seg? t j = some
        (if n.link = .reporting ∧ j ∈ coverageOf n.device ∧ g.cfg.sensing = true ∧ g.activity ≠ .occupied
            ∧ watched t j = false then
          { g with
            activity := .occupied, holdTimer := some (g.cfg.occupancyHold * 600), setbackTimer := none, changed := true,
            held := s.overrides.records.any fun o => o.scope.segment == j }
         else g)
      (mark = .live → ∀ v ∈ decodeInputReply a bytes, v.kind ≠ deviceKind n.device →
        ∃ t, exec (.inputReplyWrongKind bytes) s = .next t ∧ input? t a = some (gone .wrongKind 0) ∧ rest t ∧ resolved t)
      ∧ (mark ≠ .retired → n.link = .absent ∨ n.missCount + 1 < n.missLimit → ∃ t, exec .pollNoReply s = .next t ∧
          input? t a = some { n with missCount := min (n.missCount + 1) n.missLimit } ∧ t.segs = s.segs ∧ rest t)
      ∧ (mark ≠ .retired → n.link ≠ .absent → n.missLimit ≤ n.missCount + 1 → ∃ t, exec .pollNoReply s = .next t ∧
          input? t a = some (gone .absent n.missLimit) ∧ rest t ∧ resolved t)
      ∧ (∀ c m, n.device = .photo c m → deviceLost n.device =
          .photo c (if m.state = .settling ∨ m.state = .settled then
            { state := .unseeded, acc := 0, f0 := none, settleCount := 0, pendingJump := false, window := none,
              quarantineTimer := none } else m))
      ∧ (∀ x last, n.device = .presence x last → deviceLost n.device = .presence x none)
      ∧ (∀ x h b q, n.device = .station x h b q → deviceLost n.device = .station x h b none)

/-- R161: a RUNNING input line whose pin stays low goes DOWN: no poll, no due input, an outstanding spot read ended with NO REPLY,
every input ABSENT with no miss, the floor change flag set and no input's; R96, R98: every segment that a presence sensor covers
and that is in SETBACK or VACANT with its sensing on becomes OCCUPIED with its change flag set (log 16), and no other changes.
R162: a DOWN line recovers with every poll timer restarted. R153: the pin's return high lets the arbiter choose; its fall is
noted. The times that the pin is held are the sender's (log 7). -/
def Obligations.InputLineGoesDownAndRecovers : Prop :=
  ∀ (s : State),
    let l := s.inputLine
    (l.state = .running → l.rxHigh = false → ∃ t, exec .inputLineDown s = .next t ∧
      t.inputLine =
        { l with
          state := .down, due := [], flight := none, spotRequest := none
          spotResult := if l.spotRequest = none then l.spotResult else l.spotRequest.map fun r => ⟨r.address, none⟩ }
      ∧ (∀ a : Nat, input? t a = (input? s a).map fun n =>
          { n with
            link := .absent, missCount := 0
            device := if n.link = .reporting then deviceLost n.device else n.device })
      ∧ (HeldOk s → ∀ j : Nat, ∀ g ∈ seg? s j, seg? t j = some
          (if (∃ e ∈ s.inputs, j ∈ coverageOf e.2.device) ∧ g.cfg.sensing = true ∧ g.activity ≠ .occupied then
            { g with
              activity := .occupied, holdTimer := some (g.cfg.occupancyHold * 600), setbackTimer := none, changed := true,
              held := s.overrides.records.any fun o => o.scope.segment == j }
           else g))
      ∧ PortFlagsFloor s t ∧ t.overrides = s.overrides ∧ t.composer = s.composer ∧ t.time = s.time ∧ t.pending = s.pending
      ∧ OnlyRecomposed s t)
    ∧ (l.state = .down → l.rxHigh = true → ∃ t, exec .inputLineRecovery s = .next t ∧
        t.inputLine = choosePoll { l with state := .running }
        ∧ (∀ a : Nat, input? t a = (input? s a).map fun n => { n with pollTimer := some n.interval })
        ∧ PortFlagsFloor s t ∧ t = { s with inputs := t.inputs, inputLine := t.inputLine, port := t.port })
    ∧ (l.rxHigh = false → ∃ t, exec .inrxReturnsHigh s = .next t ∧
        t.inputLine = choosePoll { l with rxHigh := true } ∧ SamePort s t
        ∧ t = { s with inputLine := t.inputLine, port := t.port })
    ∧ ∃ t, exec .inrxFallsLow s = .next t ∧
        t.inputLine = { l with rxHigh := false } ∧ SamePort s t ∧ t = { s with inputLine := t.inputLine, port := t.port }

/-! ## The fixture lines -/

/-- R141: the end of a LEVEL frame: sent code, AWAITING, the confirm list unless SILENT. R144: a QUERY without reply: the miss
count, SILENT at three, back to the confirm list when it came from there. R146: neither acts on a record retired meanwhile. The
arbiter then chooses. -/
def Obligations.FramesEndAtTheirLuminaire : Prop :=
  ∀ (s : State) (i : LineId),
    let line := lineOf i s
    let others (t : State) := SameButFixtures s t ∧ SamePort s t ∧ ∀ j : LineId, j ≠ i → lineOf j t = lineOf j s
    (∀ f ∈ line.flight, f.retired = true →
      (f.levelCode.isSome = true → ∃ t, exec (.levelFrameEnd i) s = .next t ∧
        t.lums = s.lums ∧ lineOf i t = chooseFrame { line with flight := none } ∧ others t)
      ∧ (f.levelCode = none → ∃ t, exec (.queryNoReply i) s = .next t ∧
        t.lums = s.lums ∧ lineOf i t = chooseFrame { line with flight := none } ∧ others t))
    ∧ (∀ f ∈ line.flight, f.retired = false → ∀ l ∈ lum? s f.key,
        (∀ code ∈ f.levelCode, ∃ t, exec (.levelFrameEnd i) s = .next t ∧
          lum? t f.key = some { l with sentCode := some code, confirmation := .awaiting } ∧ OtherLumsSame s t f.key
          ∧ lineOf i t = chooseFrame
              { line with
                flight := none
                confirm := if l.link = .silent ∨ f.key ∈ line.confirm then line.confirm else line.confirm ++ [f.key] }
          ∧ others t)
        ∧ (f.levelCode = none →
            let misses := min (l.missCount + 1) 3
            let link := if misses = 3 then LumLink.silent else l.link
            let rejoins := f.kind = .confirmQuery ∧ l.confirmation = .awaiting ∧ link ≠ .silent ∧ f.key ∉ line.confirm
            ∃ t, exec (.queryNoReply i) s = .next t ∧
              lum? t f.key = some { l with missCount := misses, link := link, changed := l.changed || l.link != link }
              ∧ OtherLumsSame s t f.key
              ∧ lineOf i t = chooseFrame
                  { line with
                    flight := none
                    confirm := if rejoins then line.confirm ++ [f.key] else line.confirm }
              ∧ SameButFixtures s t ∧ (∀ j : LineId, j ≠ i → lineOf j t = lineOf j s)))

/-- R142, R143, R145: a valid reply to a QUERY: RESPONDING, the faults as told, the reported code, and the confirmation settled row
by row: a matching echo confirms; the first two mismatches resend, the third gives UNCONFIRMED; a CONFIRMED luminaire that lost its
level is sent its code again. R146: a valid reply whose record was retired meanwhile is discarded. -/
def Obligations.DriverRepliesSettleConfirmation : Prop :=
  ∀ (s : State) (i : LineId) (bytes : List LineByte), ∀ f ∈ (lineOf i s).flight,
    f.levelCode = none → ∀ d ∈ decodeDriverReply (keyAddress f.key) bytes,
    let line := lineOf i s
    let others (t : State) := SameButFixtures s t ∧ SamePort s t ∧ ∀ j : LineId, j ≠ i → lineOf j t = lineOf j s
    (f.retired = true → ∃ t, exec (.driverReply i bytes) s = .next t ∧
      t.lums = s.lums ∧ lineOf i t = chooseFrame { line with flight := none } ∧ others t)
    ∧ (f.retired = false → keyLine f.key = i → ∀ l ∈ lum? s f.key,
        let same := l.sentCode = some d.echo
        let tries := l.place ≠ none ∧ l.unconfirmed = false
        let counts := l.confirmation = .awaiting ∧ ¬same ∧ tries
        let stays := counts ∧ l.mismatchCount + 1 < 3
        let gives := counts ∧ ¬l.mismatchCount + 1 < 3
        let resends := stays ∨ (l.confirmation = .confirmed ∧ ¬same ∧ tries)
        let gave := l.unconfirmed || decide gives
        ∃ t, exec (.driverReply i bytes) s = .next t ∧
          lum? t f.key = some
            { l with
              link := .responding, missCount := 0, lampFailed := d.lampFailed, hot := d.hot,
              reportedCode := some d.echo,
              confirmation := if stays then .awaiting else .confirmed,
              mismatchCount :=
                if counts then l.mismatchCount + 1
                else if l.confirmation = .awaiting ∧ same then 0 else l.mismatchCount
              unconfirmed := gave
              changed := l.changed || l.link != .responding || l.lampFailed != d.lampFailed || l.hot != d.hot
                || l.unconfirmed != gave }
          ∧ lineOf i t = chooseFrame
              { line with
                flight := none
                confirm := if stays then line.confirm else line.confirm.filter fun k => k != f.key
                queue := if resends ∧ line.state = .running then
                    (l.composed.map fun c => coalesce line.queue f.key c.code).getD line.queue
                  else line.queue }
          ∧ OtherLumsSame s t f.key ∧ others t)

/-- R147: a RUNNING line whose pin stays low goes DOWN, its collections emptied, its luminaires UNKNOWN with unknown sent code.
R148: a DOWN line recovers with the full refresh, in ascending address order. R140: the pin's return high lets the arbiter choose;
its fall is noted. The times that the pin is held are the sender's (log 7). -/
def Obligations.FixtureLinesGoDownAndRecover : Prop :=
  ∀ (s : State) (i : LineId), TablesOk s → LinesOk s →
    let line := lineOf i s
    let others (t : State) := SameButFixtures s t ∧ ∀ j : LineId, j ≠ i → lineOf j t = lineOf j s
    (line.state = .running → line.rxHigh = false → ∃ t, exec (.fixtureLineDown i) s = .next t ∧
      lineOf i t = { line with state := .down, queue := [], confirm := [], slot := none, flight := none }
      ∧ (∀ k : Nat, lum? t k = (lum? s k).map fun l =>
          if keyLine k = i then { l with link := .unknown, sentCode := none, missCount := 0 } else l)
      ∧ PortFlagsFloor s t ∧ others t)
    ∧ (line.state = .down → line.rxHigh = true → ∃ t, exec (.fixtureLineRecovery i) s = .next t ∧
        lineOf i t = chooseFrame
          { line with
            state := .running
            queue := s.lums.filterMap fun e =>
              if keyLine e.1 = i ∧ e.2.place.isSome = true then e.2.composed.map fun c => ⟨e.1, c.code⟩ else none }
        ∧ t.lums = s.lums ∧ PortFlagsFloor s t ∧ others t)
    ∧ (line.rxHigh = false → ∃ t, exec (.fixtureRxReturnsHigh i) s = .next t ∧
        lineOf i t = chooseFrame { line with rxHigh := true } ∧ t.lums = s.lums ∧ SamePort s t ∧ others t)
    ∧ ∃ t, exec (.fixtureRxFallsLow i) s = .next t ∧
        lineOf i t = { line with rxHigh := false } ∧ t.lums = s.lums ∧ SamePort s t ∧ others t
end

