-- ==== Sys2Proof/Laws/Tab.lean ====
section
/-! SUPPORT. The laws of the tables (R2): what each table operation leaves at every key, and that it keeps the canonical
form. -/

namespace Sys2Proof.Machine

variable {α : Type}

/-! ## Reading -/

@[simp] theorem tabGet_nil (i : Nat) : tabGet ([] : Tab α) i = none := rfl

theorem tabGet_cons (k : Nat) (v : α) (t : Tab α) (i : Nat) :
    tabGet ((k, v) :: t) i = if i = k then some v else tabGet t i := rfl

/-- What is read from a table is one of its entries. -/
theorem mem_of_tabGet {t : Tab α} {i : Nat} {v : α} (h : tabGet t i = some v) : (i, v) ∈ t := by
  induction t with
  | nil => cases h
  | cons e t ih =>
    obtain ⟨k, w⟩ := e
    rw [tabGet_cons] at h
    split at h
    · cases h; subst_vars; exact List.mem_cons_self
    · exact List.mem_cons_of_mem _ (ih h)

/-- A key below every key of a table is not in it. -/
theorem tabGet_none_of_lt {t : Tab α} {i : Nat} (h : ∀ e ∈ t, i < e.1) : tabGet t i = none := by
  cases hg : tabGet t i with
  | none => rfl
  | some v => exact absurd (h _ (mem_of_tabGet hg)) (Nat.lt_irrefl _)

/-- In a canonical table every entry is what is read at its key. -/
theorem tabGet_of_mem {t : Tab α} (hs : t.Pairwise fun a b => a.1 < b.1) {e : Nat × α} (h : e ∈ t) :
    tabGet t e.1 = some e.2 := by
  induction t with
  | nil => cases h
  | cons a t ih =>
    obtain ⟨k, w⟩ := a
    rw [List.pairwise_cons] at hs
    rcases List.mem_cons.mp h with rfl | h'
    · simp [tabGet_cons]
    · have := hs.1 e h'
      rw [tabGet_cons, if_neg (by omega)]
      exact ih hs.2 h'

theorem tabGet_isSome_iff {t : Tab α} {i : Nat} : (tabGet t i).isSome = true ↔ i ∈ t.map (·.1) := by
  induction t with
  | nil => simp
  | cons e t ih =>
    obtain ⟨k, w⟩ := e
    rw [tabGet_cons, List.map_cons, List.mem_cons, ← ih]
    by_cases h : i = k <;> simp [h]

/-- What holds of every entry holds of what is read. -/
theorem tabGet_forall {t : Tab α} {p : Nat → α → Prop} (h : ∀ e ∈ t, p e.1 e.2) {i : Nat} {v : α}
    (hg : tabGet t i = some v) : p i v := h _ (mem_of_tabGet hg)

/-! ## Putting -/

@[simp] theorem tabGet_put_self (t : Tab α) (i : Nat) (v : α) : tabGet (tabPut t i v) i = some v := by
  induction t with
  | nil => simp [tabPut, tabGet_cons]
  | cons e t ih =>
    obtain ⟨k, w⟩ := e
    simp only [tabPut]
    split
    · simp [tabGet_cons]
    · split
      · simp [tabGet_cons]
      · rename_i h
        simpa [tabGet_cons, h] using ih

@[simp] theorem tabGet_put_ne (t : Tab α) {i j : Nat} (v : α) (h : j ≠ i) : tabGet (tabPut t i v) j = tabGet t j := by
  induction t with
  | nil => simp [tabPut, tabGet_cons, h]
  | cons e t ih =>
    obtain ⟨k, w⟩ := e
    simp only [tabPut]
    split
    · simp [tabGet_cons, h]
    · split
      · rename_i hk; subst hk; simp [tabGet_cons, h]
      · simp only [tabGet_cons, ih]

theorem tabGet_put (t : Tab α) (i j : Nat) (v : α) :
    tabGet (tabPut t i v) j = if j = i then some v else tabGet t j := by
  by_cases h : j = i
  · subst h; simp
  · simp [h]

/-- An entry after a put is the one put, or one that was there. -/
theorem mem_tabPut {t : Tab α} {i : Nat} {v : α} {e : Nat × α} (h : e ∈ tabPut t i v) : e = (i, v) ∨ e ∈ t := by
  induction t with
  | nil => simpa [tabPut] using h
  | cons a t ih =>
    obtain ⟨k, w⟩ := a
    simp only [tabPut] at h
    split at h
    · simpa using h
    · split at h
      · rcases List.mem_cons.mp h with h | h
        · exact .inl h
        · exact .inr (List.mem_cons_of_mem _ h)
      · rcases List.mem_cons.mp h with h | h
        · exact .inr (h ▸ List.mem_cons_self)
        · exact (ih h).imp_right (List.mem_cons_of_mem _)

/-- A put keeps what holds of every entry, if it holds of the record put. -/
theorem tabPut_forall {t : Tab α} {p : Nat × α → Prop} {i : Nat} {v : α} (h : ∀ e ∈ t, p e) (hv : p (i, v)) :
    ∀ e ∈ tabPut t i v, p e := fun _ he => (mem_tabPut he).elim (fun h' => h' ▸ hv) (h _)

/-- A put keeps the canonical form (R2). -/
theorem tabWf_put {n : Nat} {t : Tab α} {i : Nat} {v : α} (h : tabWf n t) (hi : i < n) : tabWf n (tabPut t i v) := by
  refine ⟨?_, tabPut_forall h.2 hi⟩
  have hs := h.1
  clear h
  induction t with
  | nil => simp [tabPut]
  | cons a t ih =>
    obtain ⟨k, w⟩ := a
    rw [List.pairwise_cons] at hs
    simp only [tabPut]
    split
    · rename_i hk
      refine List.pairwise_cons.mpr ⟨fun e he => ?_, List.pairwise_cons.mpr hs⟩
      rcases List.mem_cons.mp he with rfl | he
      · exact hk
      · exact Nat.lt_trans hk (hs.1 _ he)
    · split
      · rename_i hk; subst hk; exact List.pairwise_cons.mpr hs
      · refine List.pairwise_cons.mpr ⟨fun e he => ?_, ih hs.2⟩
        rcases mem_tabPut he with rfl | he
        · simp only; omega
        · exact hs.1 _ he

/-- Putting the record that is there changes nothing in a canonical table. -/
theorem tabPut_same {t : Tab α} (hs : t.Pairwise fun a b => a.1 < b.1) {i : Nat} {v : α} (h : tabGet t i = some v) :
    tabPut t i v = t := by
  induction t with
  | nil => cases h
  | cons a t ih =>
    obtain ⟨k, w⟩ := a
    rw [List.pairwise_cons] at hs
    rw [tabGet_cons] at h
    simp only [tabPut]
    split
    · rename_i hk
      rw [if_neg (by omega), tabGet_none_of_lt fun e he => Nat.lt_trans hk (hs.1 e he)] at h
      cases h
    · split
      · rename_i hk; subst hk; simp only [if_pos] at h; cases h; rfl
      · rename_i hk; rw [if_neg hk] at h; rw [ih hs.2 h]

/-- A put at a filled place leaves the keys of a canonical table. -/
theorem tabPut_keys {t : Tab α} (hs : t.Pairwise fun a b => a.1 < b.1) {i : Nat} {v : α}
    (h : (tabGet t i).isSome = true) : (tabPut t i v).map (·.1) = t.map (·.1) := by
  induction t with
  | nil => cases h
  | cons a t ih =>
    obtain ⟨k, w⟩ := a
    rw [List.pairwise_cons] at hs
    rw [tabGet_cons] at h
    simp only [tabPut]
    split
    · rename_i hk
      rw [if_neg (by omega), tabGet_none_of_lt fun e he => Nat.lt_trans hk (hs.1 e he)] at h
      cases h
    · split
      · rename_i hk; subst hk; rfl
      · rename_i hk; rw [if_neg hk] at h; simp [ih hs.2 h]

/-! ## Deleting -/

@[simp] theorem tabGet_del_self (t : Tab α) (i : Nat) : tabGet (tabDel t i) i = none := by
  induction t with
  | nil => rfl
  | cons e t ih =>
    obtain ⟨k, w⟩ := e
    simp only [tabDel, List.filter_cons]
    split
    · rename_i h
      have hk : k ≠ i := by simpa using h
      rw [tabGet_cons, if_neg hk.symm]; exact ih
    · exact ih

@[simp] theorem tabGet_del_ne (t : Tab α) {i j : Nat} (h : j ≠ i) : tabGet (tabDel t i) j = tabGet t j := by
  induction t with
  | nil => rfl
  | cons e t ih =>
    obtain ⟨k, w⟩ := e
    simp only [tabDel, List.filter_cons]
    split
    · rw [tabGet_cons, tabGet_cons]; split
      · rfl
      · exact ih
    · rename_i hk
      have hk : k = i := by simpa using hk
      rw [tabGet_cons, if_neg (by omega)]; exact ih

theorem mem_tabDel {t : Tab α} {i : Nat} {e : Nat × α} (h : e ∈ tabDel t i) : e ∈ t := List.mem_of_mem_filter h

/-- A deletion keeps the canonical form (R2). -/
theorem tabWf_del {n : Nat} {t : Tab α} (h : tabWf n t) (i : Nat) : tabWf n (tabDel t i) :=
  ⟨h.1.filter _, fun e he => h.2 e (mem_tabDel he)⟩

/-! ## Changing every record -/

@[simp] theorem tabGet_map (t : Tab α) (f : α → α) (i : Nat) : tabGet (tabMap t f) i = (tabGet t i).map f := by
  induction t with
  | nil => rfl
  | cons e t ih =>
    obtain ⟨k, w⟩ := e
    simp only [tabMap, List.map_cons, tabGet_cons] at ih ⊢
    split
    · rfl
    · exact ih

@[simp] theorem tabMap_keys (t : Tab α) (f : α → α) : (tabMap t f).map (·.1) = t.map (·.1) := by
  simp [tabMap, Function.comp_def]

/-- A change of every record keeps the canonical form (R2). -/
theorem tabWf_map {n : Nat} {t : Tab α} (h : tabWf n t) (f : α → α) : tabWf n (tabMap t f) := by
  refine ⟨?_, fun e he => ?_⟩
  · simpa [tabMap, List.pairwise_map] using h.1
  · obtain ⟨a, ha, rfl⟩ := List.mem_map.mp he
    exact h.2 a ha

/-- Two canonical tables that read alike are equal. -/
theorem tab_ext {t u : Tab α} (ht : t.Pairwise fun a b => a.1 < b.1) (hu : u.Pairwise fun a b => a.1 < b.1)
    (h : ∀ i : Nat, tabGet t i = tabGet u i) : t = u := by
  have key : ∀ {x y : Tab α}, (x.Pairwise fun a b => a.1 < b.1) → (∀ i : Nat, tabGet x i = tabGet y i) →
      ∀ e ∈ x, e ∈ y := fun hx hxy e he => mem_of_tabGet ((hxy e.1).symm.trans (tabGet_of_mem hx he))
  refine List.Perm.eq_of_pairwise (le := fun a b => a.1 < b.1) (fun a b _ _ h1 h2 => absurd (Nat.lt_trans h1 h2) (Nat.lt_irrefl _)) ht hu ?_
  refine (List.perm_ext_iff_of_nodup (ht.imp fun h => ?_) (hu.imp fun h => ?_)).mpr fun e =>
    ⟨key ht h e, key hu (fun i => (h i).symm) e⟩
  · intro he; subst he; exact Nat.lt_irrefl _ h
  · intro he; subst he; exact Nat.lt_irrefl _ h

end Sys2Proof.Machine
end

