-- ==== Sys2Proof/Laws/State.lean ====
section
/-! SUPPORT. Each update of the state, field by field, and what it leaves at every record: no later proof unfolds an
update. -/

namespace Sys2Proof.Machine

/-! ## putSeg -/

@[simp] theorem putSeg_lums (i : Nat) (g : Segment) (s : State) : (putSeg i g s).lums = s.lums := rfl

@[simp] theorem putSeg_segs (i : Nat) (g : Segment) (s : State) : (putSeg i g s).segs = tabPut s.segs i g := rfl

@[simp] theorem putSeg_inputs (i : Nat) (g : Segment) (s : State) : (putSeg i g s).inputs = s.inputs := rfl

@[simp] theorem putSeg_overrides (i : Nat) (g : Segment) (s : State) : (putSeg i g s).overrides = s.overrides := rfl

@[simp] theorem putSeg_composer (i : Nat) (g : Segment) (s : State) : (putSeg i g s).composer = s.composer := rfl

@[simp] theorem putSeg_lineA (i : Nat) (g : Segment) (s : State) : (putSeg i g s).lineA = s.lineA := rfl

@[simp] theorem putSeg_lineB (i : Nat) (g : Segment) (s : State) : (putSeg i g s).lineB = s.lineB := rfl

@[simp] theorem putSeg_inputLine (i : Nat) (g : Segment) (s : State) : (putSeg i g s).inputLine = s.inputLine := rfl

@[simp] theorem putSeg_port (i : Nat) (g : Segment) (s : State) : (putSeg i g s).port = s.port := rfl

@[simp] theorem putSeg_time (i : Nat) (g : Segment) (s : State) : (putSeg i g s).time = s.time := rfl

@[simp] theorem putSeg_draws (i : Nat) (g : Segment) (s : State) : (putSeg i g s).draws = s.draws := rfl

@[simp] theorem putSeg_pending (i : Nat) (g : Segment) (s : State) : (putSeg i g s).pending = s.pending := rfl

/-! ## putLum -/

@[simp] theorem putLum_lums (k : Nat) (l : Luminaire) (s : State) : (putLum k l s).lums = tabPut s.lums k l := rfl

@[simp] theorem putLum_segs (k : Nat) (l : Luminaire) (s : State) : (putLum k l s).segs = s.segs := rfl

@[simp] theorem putLum_inputs (k : Nat) (l : Luminaire) (s : State) : (putLum k l s).inputs = s.inputs := rfl

@[simp] theorem putLum_overrides (k : Nat) (l : Luminaire) (s : State) : (putLum k l s).overrides = s.overrides := rfl

@[simp] theorem putLum_composer (k : Nat) (l : Luminaire) (s : State) : (putLum k l s).composer = s.composer := rfl

@[simp] theorem putLum_lineA (k : Nat) (l : Luminaire) (s : State) : (putLum k l s).lineA = s.lineA := rfl

@[simp] theorem putLum_lineB (k : Nat) (l : Luminaire) (s : State) : (putLum k l s).lineB = s.lineB := rfl

@[simp] theorem putLum_inputLine (k : Nat) (l : Luminaire) (s : State) : (putLum k l s).inputLine = s.inputLine := rfl

@[simp] theorem putLum_port (k : Nat) (l : Luminaire) (s : State) : (putLum k l s).port = s.port := rfl

@[simp] theorem putLum_time (k : Nat) (l : Luminaire) (s : State) : (putLum k l s).time = s.time := rfl

@[simp] theorem putLum_draws (k : Nat) (l : Luminaire) (s : State) : (putLum k l s).draws = s.draws := rfl

@[simp] theorem putLum_pending (k : Nat) (l : Luminaire) (s : State) : (putLum k l s).pending = s.pending := rfl

/-! ## putInput -/

@[simp] theorem putInput_lums (a : Nat) (n : Input) (s : State) : (putInput a n s).lums = s.lums := rfl

@[simp] theorem putInput_segs (a : Nat) (n : Input) (s : State) : (putInput a n s).segs = s.segs := rfl

@[simp] theorem putInput_inputs (a : Nat) (n : Input) (s : State) :
    (putInput a n s).inputs = tabPut s.inputs a n := rfl

@[simp] theorem putInput_overrides (a : Nat) (n : Input) (s : State) : (putInput a n s).overrides = s.overrides := rfl

@[simp] theorem putInput_composer (a : Nat) (n : Input) (s : State) : (putInput a n s).composer = s.composer := rfl

@[simp] theorem putInput_lineA (a : Nat) (n : Input) (s : State) : (putInput a n s).lineA = s.lineA := rfl

@[simp] theorem putInput_lineB (a : Nat) (n : Input) (s : State) : (putInput a n s).lineB = s.lineB := rfl

@[simp] theorem putInput_inputLine (a : Nat) (n : Input) (s : State) : (putInput a n s).inputLine = s.inputLine := rfl

@[simp] theorem putInput_port (a : Nat) (n : Input) (s : State) : (putInput a n s).port = s.port := rfl

@[simp] theorem putInput_time (a : Nat) (n : Input) (s : State) : (putInput a n s).time = s.time := rfl

@[simp] theorem putInput_draws (a : Nat) (n : Input) (s : State) : (putInput a n s).draws = s.draws := rfl

@[simp] theorem putInput_pending (a : Nat) (n : Input) (s : State) : (putInput a n s).pending = s.pending := rfl

/-! ## putOverrides -/

@[simp] theorem putOverrides_lums (o : OverrideList) (s : State) : (putOverrides o s).lums = s.lums := rfl

@[simp] theorem putOverrides_segs (o : OverrideList) (s : State) : (putOverrides o s).segs = s.segs := rfl

@[simp] theorem putOverrides_inputs (o : OverrideList) (s : State) : (putOverrides o s).inputs = s.inputs := rfl

@[simp] theorem putOverrides_overrides (o : OverrideList) (s : State) : (putOverrides o s).overrides = o := rfl

@[simp] theorem putOverrides_composer (o : OverrideList) (s : State) : (putOverrides o s).composer = s.composer := rfl

@[simp] theorem putOverrides_lineA (o : OverrideList) (s : State) : (putOverrides o s).lineA = s.lineA := rfl

@[simp] theorem putOverrides_lineB (o : OverrideList) (s : State) : (putOverrides o s).lineB = s.lineB := rfl

@[simp] theorem putOverrides_inputLine (o : OverrideList) (s : State) :
    (putOverrides o s).inputLine = s.inputLine := rfl

@[simp] theorem putOverrides_port (o : OverrideList) (s : State) : (putOverrides o s).port = s.port := rfl

@[simp] theorem putOverrides_time (o : OverrideList) (s : State) : (putOverrides o s).time = s.time := rfl

@[simp] theorem putOverrides_draws (o : OverrideList) (s : State) : (putOverrides o s).draws = s.draws := rfl

@[simp] theorem putOverrides_pending (o : OverrideList) (s : State) : (putOverrides o s).pending = s.pending := rfl

/-! ## putInputLine -/

@[simp] theorem putInputLine_lums (l : InputLine) (s : State) : (putInputLine l s).lums = s.lums := rfl

@[simp] theorem putInputLine_segs (l : InputLine) (s : State) : (putInputLine l s).segs = s.segs := rfl

@[simp] theorem putInputLine_inputs (l : InputLine) (s : State) : (putInputLine l s).inputs = s.inputs := rfl

@[simp] theorem putInputLine_overrides (l : InputLine) (s : State) : (putInputLine l s).overrides = s.overrides := rfl

@[simp] theorem putInputLine_composer (l : InputLine) (s : State) : (putInputLine l s).composer = s.composer := rfl

@[simp] theorem putInputLine_lineA (l : InputLine) (s : State) : (putInputLine l s).lineA = s.lineA := rfl

@[simp] theorem putInputLine_lineB (l : InputLine) (s : State) : (putInputLine l s).lineB = s.lineB := rfl

@[simp] theorem putInputLine_inputLine (l : InputLine) (s : State) : (putInputLine l s).inputLine = l := rfl

@[simp] theorem putInputLine_port (l : InputLine) (s : State) : (putInputLine l s).port = s.port := rfl

@[simp] theorem putInputLine_time (l : InputLine) (s : State) : (putInputLine l s).time = s.time := rfl

@[simp] theorem putInputLine_draws (l : InputLine) (s : State) : (putInputLine l s).draws = s.draws := rfl

@[simp] theorem putInputLine_pending (l : InputLine) (s : State) : (putInputLine l s).pending = s.pending := rfl

/-! ## flagFloor -/

@[simp] theorem flagFloor_lums (s : State) : (flagFloor s).lums = s.lums := rfl

@[simp] theorem flagFloor_segs (s : State) : (flagFloor s).segs = s.segs := rfl

@[simp] theorem flagFloor_inputs (s : State) : (flagFloor s).inputs = s.inputs := rfl

@[simp] theorem flagFloor_overrides (s : State) : (flagFloor s).overrides = s.overrides := rfl

@[simp] theorem flagFloor_composer (s : State) : (flagFloor s).composer = s.composer := rfl

@[simp] theorem flagFloor_lineA (s : State) : (flagFloor s).lineA = s.lineA := rfl

@[simp] theorem flagFloor_lineB (s : State) : (flagFloor s).lineB = s.lineB := rfl

@[simp] theorem flagFloor_inputLine (s : State) : (flagFloor s).inputLine = s.inputLine := rfl

@[simp] theorem flagFloor_port (s : State) : (flagFloor s).port = { s.port with floorChanged := true } := rfl

@[simp] theorem flagFloor_time (s : State) : (flagFloor s).time = s.time := rfl

@[simp] theorem flagFloor_draws (s : State) : (flagFloor s).draws = s.draws := rfl

@[simp] theorem flagFloor_pending (s : State) : (flagFloor s).pending = s.pending := rfl

/-! ## answer -/

@[simp] theorem answer_lums (st : Status) (code : Nat) (body : List Byte) (s : State) :
    (answer st code body s).lums = s.lums := rfl

@[simp] theorem answer_segs (st : Status) (code : Nat) (body : List Byte) (s : State) :
    (answer st code body s).segs = s.segs := rfl

@[simp] theorem answer_inputs (st : Status) (code : Nat) (body : List Byte) (s : State) :
    (answer st code body s).inputs = s.inputs := rfl

@[simp] theorem answer_overrides (st : Status) (code : Nat) (body : List Byte) (s : State) :
    (answer st code body s).overrides = s.overrides := rfl

@[simp] theorem answer_composer (st : Status) (code : Nat) (body : List Byte) (s : State) :
    (answer st code body s).composer = s.composer := rfl

@[simp] theorem answer_lineA (st : Status) (code : Nat) (body : List Byte) (s : State) :
    (answer st code body s).lineA = s.lineA := rfl

@[simp] theorem answer_lineB (st : Status) (code : Nat) (body : List Byte) (s : State) :
    (answer st code body s).lineB = s.lineB := rfl

@[simp] theorem answer_inputLine (st : Status) (code : Nat) (body : List Byte) (s : State) :
    (answer st code body s).inputLine = s.inputLine := rfl

@[simp] theorem answer_port (st : Status) (code : Nat) (body : List Byte) (s : State) :
    (answer st code body s).port = { s.port with offered := { status := st, echo := byte code, body := body } } := rfl

@[simp] theorem answer_time (st : Status) (code : Nat) (body : List Byte) (s : State) :
    (answer st code body s).time = s.time := rfl

@[simp] theorem answer_draws (st : Status) (code : Nat) (body : List Byte) (s : State) :
    (answer st code body s).draws = s.draws := rfl

@[simp] theorem answer_pending (st : Status) (code : Nat) (body : List Byte) (s : State) :
    (answer st code body s).pending = s.pending := rfl

/-! ## withAttn -/

@[simp] theorem withAttn_lums (s : State) : (withAttn s).lums = s.lums := rfl

@[simp] theorem withAttn_segs (s : State) : (withAttn s).segs = s.segs := rfl

@[simp] theorem withAttn_inputs (s : State) : (withAttn s).inputs = s.inputs := rfl

@[simp] theorem withAttn_overrides (s : State) : (withAttn s).overrides = s.overrides := rfl

@[simp] theorem withAttn_composer (s : State) : (withAttn s).composer = s.composer := rfl

@[simp] theorem withAttn_lineA (s : State) : (withAttn s).lineA = s.lineA := rfl

@[simp] theorem withAttn_lineB (s : State) : (withAttn s).lineB = s.lineB := rfl

@[simp] theorem withAttn_inputLine (s : State) : (withAttn s).inputLine = s.inputLine := rfl

@[simp] theorem withAttn_port (s : State) : (withAttn s).port = { s.port with attn := attnLevel s } := rfl

@[simp] theorem withAttn_time (s : State) : (withAttn s).time = s.time := rfl

@[simp] theorem withAttn_draws (s : State) : (withAttn s).draws = s.draws := rfl

@[simp] theorem withAttn_pending (s : State) : (withAttn s).pending = s.pending := rfl

/-! ## putLine -/

@[simp] theorem putLine_lums (i : LineId) (l : FixtureLine) (s : State) : (putLine i l s).lums = s.lums := by
  cases i <;> rfl

@[simp] theorem putLine_segs (i : LineId) (l : FixtureLine) (s : State) : (putLine i l s).segs = s.segs := by
  cases i <;> rfl

@[simp] theorem putLine_inputs (i : LineId) (l : FixtureLine) (s : State) : (putLine i l s).inputs = s.inputs := by
  cases i <;> rfl

@[simp] theorem putLine_overrides (i : LineId) (l : FixtureLine) (s : State) :
    (putLine i l s).overrides = s.overrides := by
  cases i <;> rfl

@[simp] theorem putLine_composer (i : LineId) (l : FixtureLine) (s : State) :
    (putLine i l s).composer = s.composer := by
  cases i <;> rfl

@[simp] theorem putLine_inputLine (i : LineId) (l : FixtureLine) (s : State) :
    (putLine i l s).inputLine = s.inputLine := by
  cases i <;> rfl

@[simp] theorem putLine_port (i : LineId) (l : FixtureLine) (s : State) : (putLine i l s).port = s.port := by
  cases i <;> rfl

@[simp] theorem putLine_time (i : LineId) (l : FixtureLine) (s : State) : (putLine i l s).time = s.time := by
  cases i <;> rfl

@[simp] theorem putLine_draws (i : LineId) (l : FixtureLine) (s : State) : (putLine i l s).draws = s.draws := by
  cases i <;> rfl

@[simp] theorem putLine_pending (i : LineId) (l : FixtureLine) (s : State) : (putLine i l s).pending = s.pending := by
  cases i <;> rfl

@[simp] theorem lineOf_putLine_self (i : LineId) (l : FixtureLine) (s : State) : lineOf i (putLine i l s) = l := by
  cases i <;> rfl

@[simp] theorem lineOf_putLine_ne {i j : LineId} (h : j ≠ i) (l : FixtureLine) (s : State) :
    lineOf j (putLine i l s) = lineOf j s := by
  cases i <;> cases j <;> first | rfl | exact absurd rfl h

theorem lineOf_putLine (i j : LineId) (l : FixtureLine) (s : State) :
    lineOf j (putLine i l s) = if j = i then l else lineOf j s := by
  by_cases h : j = i
  · subst h; simp
  · simp [h]

@[simp] theorem putLine_lineOf (i : LineId) (s : State) : putLine i (lineOf i s) s = s := by cases i <;> rfl

@[simp] theorem putLine_putLine (i : LineId) (l m : FixtureLine) (s : State) :
    putLine i m (putLine i l s) = putLine i m s := by
  cases i <;> rfl

/-! ## The lines under the other updates -/

@[simp] theorem lineOf_putSeg (z : LineId) (i : Nat) (g : Segment) (s : State) : lineOf z (putSeg i g s) = lineOf z s := by
  cases z <;> rfl

@[simp] theorem lineOf_putLum (z : LineId) (k : Nat) (l : Luminaire) (s : State) : lineOf z (putLum k l s) = lineOf z s := by
  cases z <;> rfl

@[simp] theorem lineOf_putInput (z : LineId) (a : Nat) (n : Input) (s : State) : lineOf z (putInput a n s) = lineOf z s := by
  cases z <;> rfl

@[simp] theorem lineOf_putOverrides (z : LineId) (o : OverrideList) (s : State) : lineOf z (putOverrides o s) = lineOf z s := by
  cases z <;> rfl

@[simp] theorem lineOf_putInputLine (z : LineId) (l : InputLine) (s : State) : lineOf z (putInputLine l s) = lineOf z s := by
  cases z <;> rfl

@[simp] theorem lineOf_flagFloor (z : LineId) (s : State) : lineOf z (flagFloor s) = lineOf z s := by
  cases z <;> rfl

@[simp] theorem lineOf_answer (z : LineId) (st : Status) (code : Nat) (body : List Byte) (s : State) : lineOf z (answer st code body s) = lineOf z s := by
  cases z <;> rfl

@[simp] theorem lineOf_withAttn (z : LineId) (s : State) : lineOf z (withAttn s) = lineOf z s := by
  cases z <;> rfl

/-! ## The records under each update -/

@[simp] theorem seg?_putSeg_self (i : Nat) (g : Segment) (s : State) : seg? (putSeg i g s) i = some g := tabGet_put_self _ _ _

@[simp] theorem seg?_putSeg_ne {i j : Nat} (g : Segment) (s : State) (h : j ≠ i) : seg? (putSeg i g s) j = seg? s j :=
  tabGet_put_ne _ _ h

theorem seg?_putSeg (i : Nat) (g : Segment) (s : State) (j : Nat) :
    seg? (putSeg i g s) j = if j = i then some g else seg? s j := tabGet_put _ _ _ _

@[simp] theorem lum?_putSeg (i : Nat) (g : Segment) (s : State) (j : Nat) : lum? (putSeg i g s) j = lum? s j := rfl

@[simp] theorem input?_putSeg (i : Nat) (g : Segment) (s : State) (j : Nat) :
    input? (putSeg i g s) j = input? s j := rfl

@[simp] theorem seg?_putLum (k : Nat) (l : Luminaire) (s : State) (j : Nat) : seg? (putLum k l s) j = seg? s j := rfl

@[simp] theorem lum?_putLum_self (k : Nat) (l : Luminaire) (s : State) : lum? (putLum k l s) k = some l := tabGet_put_self _ _ _

@[simp] theorem lum?_putLum_ne {k j : Nat} (l : Luminaire) (s : State) (h : j ≠ k) : lum? (putLum k l s) j = lum? s j :=
  tabGet_put_ne _ _ h

theorem lum?_putLum (k : Nat) (l : Luminaire) (s : State) (j : Nat) :
    lum? (putLum k l s) j = if j = k then some l else lum? s j := tabGet_put _ _ _ _

@[simp] theorem input?_putLum (k : Nat) (l : Luminaire) (s : State) (j : Nat) :
    input? (putLum k l s) j = input? s j := rfl

@[simp] theorem seg?_putInput (a : Nat) (n : Input) (s : State) (j : Nat) : seg? (putInput a n s) j = seg? s j := rfl

@[simp] theorem lum?_putInput (a : Nat) (n : Input) (s : State) (j : Nat) : lum? (putInput a n s) j = lum? s j := rfl

@[simp] theorem input?_putInput_self (a : Nat) (n : Input) (s : State) : input? (putInput a n s) a = some n := tabGet_put_self _ _ _

@[simp] theorem input?_putInput_ne {a j : Nat} (n : Input) (s : State) (h : j ≠ a) : input? (putInput a n s) j = input? s j :=
  tabGet_put_ne _ _ h

theorem input?_putInput (a : Nat) (n : Input) (s : State) (j : Nat) :
    input? (putInput a n s) j = if j = a then some n else input? s j := tabGet_put _ _ _ _

@[simp] theorem seg?_putOverrides (o : OverrideList) (s : State) (j : Nat) :
    seg? (putOverrides o s) j = seg? s j := rfl

@[simp] theorem lum?_putOverrides (o : OverrideList) (s : State) (j : Nat) :
    lum? (putOverrides o s) j = lum? s j := rfl

@[simp] theorem input?_putOverrides (o : OverrideList) (s : State) (j : Nat) :
    input? (putOverrides o s) j = input? s j := rfl

@[simp] theorem seg?_putInputLine (l : InputLine) (s : State) (j : Nat) : seg? (putInputLine l s) j = seg? s j := rfl

@[simp] theorem lum?_putInputLine (l : InputLine) (s : State) (j : Nat) : lum? (putInputLine l s) j = lum? s j := rfl

@[simp] theorem input?_putInputLine (l : InputLine) (s : State) (j : Nat) :
    input? (putInputLine l s) j = input? s j := rfl

@[simp] theorem seg?_flagFloor (s : State) (j : Nat) : seg? (flagFloor s) j = seg? s j := rfl

@[simp] theorem lum?_flagFloor (s : State) (j : Nat) : lum? (flagFloor s) j = lum? s j := rfl

@[simp] theorem input?_flagFloor (s : State) (j : Nat) : input? (flagFloor s) j = input? s j := rfl

@[simp] theorem seg?_answer (st : Status) (code : Nat) (body : List Byte) (s : State) (j : Nat) :
    seg? (answer st code body s) j = seg? s j := rfl

@[simp] theorem lum?_answer (st : Status) (code : Nat) (body : List Byte) (s : State) (j : Nat) :
    lum? (answer st code body s) j = lum? s j := rfl

@[simp] theorem input?_answer (st : Status) (code : Nat) (body : List Byte) (s : State) (j : Nat) :
    input? (answer st code body s) j = input? s j := rfl

@[simp] theorem seg?_withAttn (s : State) (j : Nat) : seg? (withAttn s) j = seg? s j := rfl

@[simp] theorem lum?_withAttn (s : State) (j : Nat) : lum? (withAttn s) j = lum? s j := rfl

@[simp] theorem input?_withAttn (s : State) (j : Nat) : input? (withAttn s) j = input? s j := rfl

@[simp] theorem seg?_putLine (i : LineId) (l : FixtureLine) (s : State) (j : Nat) :
    seg? (putLine i l s) j = seg? s j := by cases i <;> rfl

@[simp] theorem lum?_putLine (i : LineId) (l : FixtureLine) (s : State) (j : Nat) :
    lum? (putLine i l s) j = lum? s j := by cases i <;> rfl

@[simp] theorem input?_putLine (i : LineId) (l : FixtureLine) (s : State) (j : Nat) :
    input? (putLine i l s) j = input? s j := by cases i <;> rfl

/-! ## Settings of fields that an operation writes in place -/

@[simp] theorem seg?_draws (s : State) (n i : Nat) : seg? { s with draws := n } i = seg? s i := rfl

@[simp] theorem lum?_draws (s : State) (n k : Nat) : lum? { s with draws := n } k = lum? s k := rfl

@[simp] theorem input?_draws (s : State) (n a : Nat) : input? { s with draws := n } a = input? s a := rfl

/-! ## The end of a command -/

/-- R169: a command ends in the state it has made, ATTN following the flags. -/
theorem done_eq (s : State) : done s = .next (withAttn s) := rfl

theorem done_next {s t : State} : done s = .next t ↔ t = withAttn s := by
  simp [done_eq, eq_comm]

/-- R166: a request that is not taken ends with its status and an empty body. -/
theorem deny_eq (st : Status) (code : Nat) (s : State) : deny st code s = .next (withAttn (answer st code [] s)) := rfl

/-- The flags do not read ATTN, nor the offered response. -/
@[simp] theorem anyChange_withAttn (s : State) : anyChange (withAttn s) = anyChange s := rfl

@[simp] theorem anyChange_answer (st : Status) (code : Nat) (body : List Byte) (s : State) :
    anyChange (answer st code body s) = anyChange s := rfl

@[simp] theorem attnLevel_answer (st : Status) (code : Nat) (body : List Byte) (s : State) :
    attnLevel (answer st code body s) = attnLevel s := rfl

end Sys2Proof.Machine
end

