-- ==== Sys2Proof/Laws/Ops.lean ====
section
/-! SUPPORT. What the shared operations over records and lists of keys can do: an operation on one record, an operation for
each key, the free orders. -/

namespace Sys2Proof.Machine

/-! ## An operation on one record -/

theorem onSeg_some {i : Nat} {s : State} {g : Segment} (h : seg? s i = some g) (f : Segment → State → State) :
    onSeg i f s = f g s := by simp [onSeg, h]

theorem onSeg_none {i : Nat} {s : State} (h : seg? s i = none) (f : Segment → State → State) : onSeg i f s = s := by
  simp [onSeg, h]

theorem onLum_some {k : Nat} {s : State} {l : Luminaire} (h : lum? s k = some l) (f : Luminaire → State → State) :
    onLum k f s = f l s := by simp [onLum, h]

theorem onLum_none {k : Nat} {s : State} (h : lum? s k = none) (f : Luminaire → State → State) : onLum k f s = s := by
  simp [onLum, h]

theorem onInput_some {a : Nat} {s : State} {n : Input} (h : input? s a = some n) (f : Input → State → State) :
    onInput a f s = f n s := by simp [onInput, h]

theorem onInput_none {a : Nat} {s : State} (h : input? s a = none) (f : Input → State → State) : onInput a f s = s := by
  simp [onInput, h]

/-- A relation that holds of a state with itself, and that the operation has at every record, holds of the operation. -/
theorem onSeg_rel {R : State → State → Prop} {i : Nat} {f : Segment → State → State} {s : State} (refl : R s s)
    (h : ∀ g, seg? s i = some g → R s (f g s)) : R s (onSeg i f s) := by
  cases hg : seg? s i with
  | none => rwa [onSeg_none hg]
  | some g => rw [onSeg_some hg]; exact h g hg

theorem onLum_rel {R : State → State → Prop} {k : Nat} {f : Luminaire → State → State} {s : State} (refl : R s s)
    (h : ∀ l, lum? s k = some l → R s (f l s)) : R s (onLum k f s) := by
  cases hl : lum? s k with
  | none => rwa [onLum_none hl]
  | some l => rw [onLum_some hl]; exact h l hl

theorem onInput_rel {R : State → State → Prop} {a : Nat} {f : Input → State → State} {s : State} (refl : R s s)
    (h : ∀ n, input? s a = some n → R s (f n s)) : R s (onInput a f s) := by
  cases hn : input? s a with
  | none => rwa [onInput_none hn]
  | some n => rw [onInput_some hn]; exact h n hn

/-! ## An operation for each key of a list -/

@[simp] theorem forEach_nil (f : Nat → State → State) (s : State) : forEach [] f s = s := rfl

@[simp] theorem forEach_cons (k : Nat) (ks : List Nat) (f : Nat → State → State) (s : State) :
    forEach (k :: ks) f s = forEach ks f (f k s) := rfl

theorem forEach_append (ks ls : List Nat) (f : Nat → State → State) (s : State) :
    forEach (ks ++ ls) f s = forEach ls f (forEach ks f s) := by simp [forEach]

/-- A law that the operation keeps at every key is kept by all of them. -/
theorem forEach_keeps {P : State → Prop} {f : Nat → State → State} {ks : List Nat}
    (h : ∀ k ∈ ks, ∀ s, P s → P (f k s)) : ∀ {s : State}, P s → P (forEach ks f s) := by
  induction ks with
  | nil => exact id
  | cons k ks ih =>
    intro s hs
    exact ih (fun j hj => h j (List.mem_cons_of_mem _ hj)) (h k List.mem_cons_self s hs)

/-- A relation that every application has, and that composes, holds of all of them. -/
theorem forEach_rel {R : State → State → Prop} (refl : ∀ s, R s s) (trans : ∀ {s t u}, R s t → R t u → R s u)
    {f : Nat → State → State} {ks : List Nat} (h : ∀ k ∈ ks, ∀ s, R s (f k s)) (s : State) : R s (forEach ks f s) :=
  forEach_keeps (P := R s) (fun k hk t ht => trans ht (h k hk t)) (refl s)

/-! ## Free orders -/

theorem insertFree_perm (n x : Nat) (ks : List Nat) : (insertFree n x ks).Perm (x :: ks) := by
  induction ks with
  | nil => exact .refl _
  | cons y ks ih =>
    simp only [insertFree]
    split
    · exact .refl _
    · exact (ih.cons y).trans (.swap x y ks)

/-- A free order takes each key once. -/
theorem freeOrder_perm (n : Nat) (ks : List Nat) : (freeOrder n ks).Perm ks := by
  induction ks with
  | nil => exact .refl _
  | cons x ks ih => exact (insertFree_perm n x _).trans (ih.cons x)

/-- What is done with keys in a free order: it is done with them in some order, and the draw counter may move. -/
theorem inFreeOrder_eq (ks : List Nat) (f : List Nat → State → State) (s : State) :
    ∃ (ls : List Nat) (n : Nat), ls.Perm ks ∧ inFreeOrder ks f s = f ls { s with draws := n } := by
  simp only [inFreeOrder]
  split
  · exact ⟨ks, s.draws, .refl _, rfl⟩
  · exact ⟨_, _, freeOrder_perm _ _, rfl⟩

/-- What an operation in a free order can do: it is applied for each key in some order, and the draw counter may move. -/
theorem forEachFree_eq (ks : List Nat) (f : Nat → State → State) (s : State) :
    ∃ (ls : List Nat) (n : Nat), ls.Perm ks ∧ forEachFree ks f s = forEach ls f { s with draws := n } :=
  inFreeOrder_eq ks _ s

/-- At most one key: no order is drawn. -/
theorem forEachFree_of_length_le {ks : List Nat} (h : ks.length ≤ 1) (f : Nat → State → State) (s : State) :
    forEachFree ks f s = forEach ks f s := by simp [forEachFree, inFreeOrder, h]

/-- A law that the operation and the draw counter keep is kept in every order. -/
theorem forEachFree_keeps {P : State → Prop} {f : Nat → State → State} {ks : List Nat}
    (hd : ∀ s n, P s → P { s with draws := n }) (h : ∀ k ∈ ks, ∀ s, P s → P (f k s)) {s : State} (hs : P s) :
    P (forEachFree ks f s) := by
  obtain ⟨ls, n, hp, he⟩ := forEachFree_eq ks f s
  rw [he]
  exact forEach_keeps (fun k hk => h k (hp.mem_iff.mp hk)) (hd s n hs)

/-- A relation that every application and the draw counter have, and that composes, holds in every order. -/
theorem forEachFree_rel {R : State → State → Prop} (trans : ∀ {s t u}, R s t → R t u → R s u)
    (hd : ∀ s n, R s { s with draws := n }) {f : Nat → State → State} {ks : List Nat}
    (h : ∀ k ∈ ks, ∀ s, R s (f k s)) (s : State) : R s (forEachFree ks f s) :=
  forEachFree_keeps (P := R s) (fun t n ht => trans ht (hd t n)) (fun k hk t ht => trans ht (h k hk t))
    (hd s s.draws)

/-- Two operations in either order: one of the two orders. -/
theorem inEitherOrder_cases (f g : State → State) (s : State) :
    inEitherOrder f g s = g (f { s with draws := s.draws + 1 })
      ∨ inEitherOrder f g s = f (g { s with draws := s.draws + 1 }) := by
  simp only [inEitherOrder]
  split
  · exact .inl rfl
  · exact .inr rfl

end Sys2Proof.Machine
end

