-- ==== Sys2Proof/Laws/Frames.lean ====
section
/-! SUPPORT. What each shared operation leaves alone, said once: as a relation of the state before and the state after. -/

namespace Sys2Proof.Machine

/-! ## The relations -/

/-- Nothing changes but the luminaires, the fixture lines and the draw counter. -/
def FixturesOnly (s t : State) : Prop :=
  t = { s with lums := t.lums, lineA := t.lineA, lineB := t.lineB, draws := t.draws }

/-- Nothing changes but the segments. -/
def SegsOnly (s t : State) : Prop := t = { s with segs := t.segs }

/-- Nothing changes but the segments and the override list. -/
def ListOnly (s t : State) : Prop := t = { s with segs := t.segs, overrides := t.overrides }

/-- The luminaires and the fixture lines change by recompositions, and nothing else but the draw counter changes. -/
def Recomposes (s t : State) : Prop := FixturesOnly s t ∧ OnlyRecomposed s t

/-- Nothing changes but the segments, the override list, the luminaires and lines by recompositions, and the draw counter. -/
def EventOnly (s t : State) : Prop :=
  (t = { s with
      segs := t.segs, overrides := t.overrides, lums := t.lums, lineA := t.lineA, lineB := t.lineB, draws := t.draws })
    ∧ OnlyRecomposed s t

theorem FixturesOnly.refl (s : State) : FixturesOnly s s := rfl
theorem SegsOnly.refl (s : State) : SegsOnly s s := rfl
theorem ListOnly.refl (s : State) : ListOnly s s := rfl

theorem onlyRecomposed_refl (s : State) : OnlyRecomposed s s := ⟨fun _ => rfl, rfl, rfl⟩

theorem onlyRecomposed_trans {s t u : State} (h : OnlyRecomposed s t) (k : OnlyRecomposed t u) : OnlyRecomposed s u :=
  ⟨fun j => (k.1 j).trans (h.1 j), k.2.1.trans h.2.1, k.2.2.trans h.2.2⟩

theorem Recomposes.refl (s : State) : Recomposes s s := ⟨.refl s, onlyRecomposed_refl s⟩
theorem EventOnly.refl (s : State) : EventOnly s s := ⟨rfl, onlyRecomposed_refl s⟩

theorem FixturesOnly.trans {s t u : State} (h : FixturesOnly s t) (k : FixturesOnly t u) : FixturesOnly s u := by
  unfold FixturesOnly at *; rw [h] at k; exact k

theorem SegsOnly.trans {s t u : State} (h : SegsOnly s t) (k : SegsOnly t u) : SegsOnly s u := by
  unfold SegsOnly at *; rw [h] at k; exact k

theorem ListOnly.trans {s t u : State} (h : ListOnly s t) (k : ListOnly t u) : ListOnly s u := by
  unfold ListOnly at *; rw [h] at k; exact k

theorem Recomposes.trans {s t u : State} (h : Recomposes s t) (k : Recomposes t u) : Recomposes s u :=
  ⟨h.1.trans k.1, onlyRecomposed_trans h.2 k.2⟩

theorem EventOnly.trans {s t u : State} (h : EventOnly s t) (k : EventOnly t u) : EventOnly s u := by
  refine ⟨?_, onlyRecomposed_trans h.2 k.2⟩
  have hk := k.1
  rw [h.1] at hk
  exact hk

theorem SegsOnly.listOnly {s t : State} (h : SegsOnly s t) : ListOnly s t := by
  unfold SegsOnly at h; unfold ListOnly; rw [h]

theorem ListOnly.eventOnly {s t : State} (h : ListOnly s t) : EventOnly s t := by
  unfold ListOnly at h; rw [h]; exact ⟨rfl, fun _ => rfl, rfl, rfl⟩

theorem SegsOnly.eventOnly {s t : State} (h : SegsOnly s t) : EventOnly s t := h.listOnly.eventOnly

theorem Recomposes.eventOnly {s t : State} (h : Recomposes s t) : EventOnly s t := by
  refine ⟨?_, h.2⟩
  have h1 := h.1
  unfold FixturesOnly at h1
  rw [h1]

theorem FixturesOnly.same {s t : State} (h : FixturesOnly s t) : SameButFixtures s t ∧ t.port = s.port := by
  unfold FixturesOnly at h; rw [h]; exact ⟨⟨rfl, rfl, rfl, rfl, rfl, rfl, rfl⟩, rfl⟩

theorem ListOnly.same {s t : State} (h : ListOnly s t) :
    SameFixtures s t ∧ SameFloor s t ∧ t.inputs = s.inputs ∧ t.port = s.port ∧ t.draws = s.draws := by
  unfold ListOnly at h; rw [h]; exact ⟨⟨rfl, rfl, rfl⟩, ⟨rfl, rfl, rfl, rfl⟩, rfl, rfl, rfl⟩

theorem SegsOnly.same {s t : State} (h : SegsOnly s t) :
    SameFixtures s t ∧ SameAround s t ∧ t.port = s.port ∧ t.draws = s.draws := by
  unfold SegsOnly at h; rw [h]; exact ⟨⟨rfl, rfl, rfl⟩, ⟨rfl, rfl, rfl, rfl, rfl, rfl⟩, rfl, rfl⟩

theorem EventOnly.same {s t : State} (h : EventOnly s t) : t.inputs = s.inputs ∧ SameFloor s t ∧ t.port = s.port := by
  have h1 := h.1
  rw [h1]; exact ⟨rfl, ⟨rfl, rfl, rfl, rfl⟩, rfl⟩

/-! ## The fixture lines -/

/-- R140: the arbiter takes at most one entry and begins at most one frame. -/
@[simp] theorem lineSettings_chooseFrame (l : FixtureLine) : lineSettings (chooseFrame l) = lineSettings l := by
  unfold chooseFrame
  split
  · split <;> rfl
  · rfl

/-- Putting a line whose settings stand changes that line alone. -/
theorem putLine_recomposes {i : LineId} {l : FixtureLine} {s : State} (h : lineSettings l = lineSettings (lineOf i s)) :
    Recomposes s (putLine i l s) := by
  cases i
  · exact ⟨rfl, fun _ => rfl, h, rfl⟩
  · exact ⟨rfl, fun _ => rfl, rfl, h⟩

/-- Putting a luminaire record whose settings stand. -/
theorem putLum_recomposes {k : Nat} {l m : Luminaire} {s : State} (hk : lum? s k = some m)
    (h : lumSettings l = lumSettings m) : Recomposes s (putLum k l s) := by
  refine ⟨rfl, fun j => ?_, rfl, rfl⟩
  rw [lum?_putLum]
  split
  · rename_i hj; subst hj; rw [hk]; simp [h]
  · rfl

theorem arbitrate_recomposes (i : LineId) (s : State) : Recomposes s (arbitrate i s) :=
  putLine_recomposes (lineSettings_chooseFrame _)

/-- R136: an entry joins the level queue of a RUNNING line. -/
theorem enqueue_recomposes (k code : Nat) (s : State) : Recomposes s (enqueue k code s) := by
  unfold enqueue
  simp only
  split
  · exact putLine_recomposes rfl
  · exact .refl s

/-- R137: a hand-over. -/
theorem handOver_recomposes (k code : Nat) (s : State) : Recomposes s (handOver k code s) := by
  unfold handOver
  refine (Recomposes.trans ?_ (enqueue_recomposes _ _ _)).trans (arbitrate_recomposes _ _)
  exact onLum_rel (R := Recomposes) (.refl s) fun l hl => putLum_recomposes hl rfl

/-- R127: one luminaire recomposed. -/
theorem recomposeLum_recomposes (k : Nat) (s : State) : Recomposes s (recomposeLum k s) := by
  unfold recomposeLum
  refine onLum_rel (R := Recomposes) (.refl s) fun l hl => ?_
  split
  · exact .refl s
  · refine onSeg_rel (R := Recomposes) (.refl s) fun g _ => ?_
    have hp (c : Composed) : Recomposes s (putLum k { l with composed := some c } s) := putLum_recomposes hl rfl
    simp only
    split
    · exact hp _
    · exact (hp _).trans (handOver_recomposes _ _ _)

/-- R127: a segment recomposed. -/
theorem recomposeSeg_recomposes (i : Nat) (s : State) : Recomposes s (recomposeSeg i s) :=
  forEach_rel (R := Recomposes) .refl .trans (fun k _ t => recomposeLum_recomposes k t) s

theorem draws_recomposes (s : State) (n : Nat) : Recomposes s { s with draws := n } := ⟨rfl, fun _ => rfl, rfl, rfl⟩

/-- R127: the recompositions at the end of an event. -/
theorem settle_recomposes (s t : State) : Recomposes t (settle s t) :=
  forEachFree_rel (R := Recomposes) .trans draws_recomposes (fun i _ u => recomposeSeg_recomposes i u) t

/-- One event: what it changes, and recompositions. -/
theorem event_eventOnly {f : State → State} {s : State} (h : EventOnly s (f s)) : EventOnly s (event f s) :=
  h.trans (settle_recomposes s (f s)).eventOnly

/-- What an event leaves of everything but fixtures is what its own change leaves. -/
theorem event_same (f : State → State) (s : State) :
    SameButFixtures (f s) (event f s) ∧ (event f s).port = (f s).port := (settle_recomposes s (f s)).1.same

/-- An event leaves every segment as its own change leaves it. -/
@[simp] theorem seg?_event (f : State → State) (s : State) (i : Nat) : seg? (event f s) i = seg? (f s) i := by
  simp only [seg?, (event_same f s).1.1]

@[simp] theorem input?_event (f : State → State) (s : State) (a : Nat) : input? (event f s) a = input? (f s) a := by
  simp only [input?, (event_same f s).1.2.1]

/-! ## The harvest controllers and the depth ordering -/

theorem putSeg_segsOnly (i : Nat) (g : Segment) (s : State) : SegsOnly s (putSeg i g s) := rfl

/-- R81, R82: a depth raise changes segments alone. -/
theorem depthRaise_segsOnly (n : Nat) : ∀ (i : Nat) (s : State), SegsOnly s (depthRaise n i s) := by
  induction n with
  | zero => exact fun _ s => .refl s
  | succ n ih =>
    intro i s
    unfold depthRaise
    split
    · exact .refl s
    · split
      · exact .refl s
      · exact (putSeg_segsOnly _ _ s).trans (forEach_rel (R := SegsOnly) .refl .trans (fun k _ t => ih k t) _)

theorem raiseInner_segsOnly (i : Nat) (s : State) : SegsOnly s (raiseInner i s) :=
  forEach_rel (R := SegsOnly) .refl .trans (fun k _ t => depthRaise_segsOnly 3 k t) s

theorem putRising_segsOnly (i : Nat) (old new : Segment) (s : State) : SegsOnly s (putRising i old new s) := by
  unfold putRising
  split
  · exact (putSeg_segsOnly i new s).trans (raiseInner_segsOnly i _)
  · exact putSeg_segsOnly i new s

theorem skyChange_segsOnly (i : Nat) (s : State) : SegsOnly s (skyChange i s) :=
  onSeg_rel (R := SegsOnly) (.refl s) fun g _ => putRising_segsOnly i g _ s

/-- R64: the held flag recomputed at one segment. -/
theorem recomputeHeld_segsOnly (i : Nat) (s : State) : SegsOnly s (recomputeHeld i s) := by
  refine onSeg_rel (R := SegsOnly) (.refl s) fun g _ => ?_
  simp only
  split <;> exact putSeg_segsOnly i _ s

theorem capChange_segsOnly (i old : Nat) (s : State) : SegsOnly s (capChange i old s) := by
  refine onSeg_rel (R := SegsOnly) (.refl s) fun g _ => ?_
  split
  · split
    · exact putSeg_segsOnly i _ s
    · split
      · exact depthRaise_segsOnly 4 i s
      · exact .refl s
  · exact .refl s

theorem recomputeCap_segsOnly (i : Nat) (s : State) : SegsOnly s (recomputeCap i s) := by
  refine onSeg_rel (R := SegsOnly) (.refl s) fun g _ => ?_
  simp only
  split
  · exact .refl s
  · exact (putSeg_segsOnly i _ s).trans (capChange_segsOnly i _ _)

theorem leaveHarvest_segsOnly (i : Nat) (s : State) : SegsOnly s (leaveHarvest i s) :=
  onSeg_rel (R := SegsOnly) (.refl s) fun _ _ => putSeg_segsOnly i _ s

theorem enterHarvest_segsOnly (i : Nat) (s : State) : SegsOnly s (enterHarvest i s) :=
  ((onSeg_rel (R := SegsOnly) (f := fun g => putSeg i (enteredHarvest g)) (.refl s) fun _ _ =>
    putSeg_segsOnly i _ s).trans (depthRaise_segsOnly 4 i _)).trans (raiseInner_segsOnly i _)

theorem cutOffChanged_segsOnly (i : Nat) (s : State) : SegsOnly s (cutOffChanged i s) := by
  refine onSeg_rel (R := SegsOnly) (.refl s) fun g _ => ?_
  split
  · exact putSeg_segsOnly i _ s
  · exact .refl s

/-- An expiry at a segment whose action changes segments alone. -/
theorem segExpiry_segsOnly {i : Nat} {timer : Segment → Timer} {f : Segment → State → State} {s : State}
    (h : ∀ g, SegsOnly s (f g s)) : SegsOnly s (segExpiry i timer f s) := by
  refine onSeg_rel (R := SegsOnly) (.refl s) fun g _ => ?_
  split
  · exact h g
  · exact .refl s

/-- R53: the step event at an expiry. -/
theorem stepExpiry_segsOnly (i : Nat) (s : State) : SegsOnly s (stepExpiry i s) :=
  segExpiry_segsOnly fun g => putRising_segsOnly i g _ s

/-- R63: a law that step events and sky changes keep is kept by the events of a sky change. -/
theorem takeSkyEvents_keeps {P : State → Prop} (hs : ∀ i s, P s → P (event (skyChange i) s))
    (he : ∀ i s, P s → P (event (stepExpiry i) s)) (ks : List Nat) {s : State} (h : P s) : P (takeSkyEvents ks s) := by
  induction ks generalizing s with
  | nil => exact h
  | cons k rest ih =>
    refine ih ?_
    split
    · exact hs _ _ h
    · split
      · exact he _ _ h
      · exact h

theorem takeSkyEvents_eventOnly (ks : List Nat) (s : State) : EventOnly s (takeSkyEvents ks s) :=
  takeSkyEvents_keeps (P := EventOnly s) (fun i t h => h.trans (event_eventOnly (skyChange_segsOnly i t).eventOnly))
    (fun i t h => h.trans (event_eventOnly (stepExpiry_segsOnly i t).eventOnly)) ks (.refl s)

/-- R122: the effective caps recomputed. -/
theorem recomputeAllCaps_eventOnly (s : State) : EventOnly s (recomputeAllCaps s) :=
  forEachFree_rel (R := EventOnly) .trans (fun t n => (draws_recomposes t n).eventOnly)
    (fun i _ t => event_eventOnly (recomputeCap_segsOnly i t).eventOnly) s

/-! ## Occupancy -/

theorem motion_segsOnly (byRequest : Bool) (i : Nat) (s : State) : SegsOnly s (motion byRequest i s) := by
  refine onSeg_rel (R := SegsOnly) (.refl s) fun g _ => ?_
  split
  · exact (putSeg_segsOnly i _ s).trans (recomputeHeld_segsOnly i _)
  · exact .refl s

theorem reResolve_segsOnly (byRequest : Bool) (i : Nat) (s : State) : SegsOnly s (reResolve byRequest i s) := by
  refine onSeg_rel (R := SegsOnly) (.refl s) fun g _ => ?_
  split
  · exact (putSeg_segsOnly i _ s).trans (recomputeHeld_segsOnly i _)
  · exact .refl s

theorem sensingChanged_segsOnly (i : Nat) (s : State) : SegsOnly s (sensingChanged i s) := by
  refine onSeg_rel (R := SegsOnly) (.refl s) fun g _ => ?_
  split
  · exact putSeg_segsOnly i _ s
  · exact (putSeg_segsOnly i _ s).trans (recomputeHeld_segsOnly i _)

theorem holdExpired_segsOnly (i : Nat) (g : Segment) (s : State) : SegsOnly s (holdExpired i g s) := by
  unfold holdExpired
  split
  · exact (putSeg_segsOnly i _ s).trans (recomputeHeld_segsOnly i _)
  · exact putSeg_segsOnly i _ s

/-! ## The override list -/

theorem putOverrides_listOnly (o : OverrideList) (s : State) : ListOnly s (putOverrides o s) := rfl

theorem putSeg_listOnly (i : Nat) (g : Segment) (s : State) : ListOnly s (putSeg i g s) := rfl

/-- R118: a retirement changes the list and the held flags alone. -/
theorem retireRecords_listOnly (p : Override → Bool) (flag : Bool) (s : State) : ListOnly s (retireRecords p flag s) :=
  (putOverrides_listOnly _ s).trans
    (forEach_rel (R := ListOnly) .refl .trans (fun i _ t => (recomputeHeld_segsOnly i t).listOnly) _)

theorem makeRoom_listOnly (s : State) : ListOnly s (makeRoom s) := by
  unfold makeRoom
  split
  · exact .refl s
  · split
    · exact retireRecords_listOnly _ _ s
    · exact .refl s

theorem createRecord_listOnly (origin : Origin) (cls : OvClass) (scope : Scope) (action : OvAction) (hold : Option Nat)
    (s : State) : ListOnly s (createRecord origin cls scope action hold s) :=
  (putOverrides_listOnly _ s).trans (recomputeHeld_segsOnly _ _).listOnly

/-- R106, R107: a placement changes the list and the held flags alone. -/
theorem placeRecord_listOnly (origin : Origin) (cls : OvClass) (scope : Scope) (action : OvAction) (hold : Option Nat)
    (s : State) : ListOnly s (placeRecord origin cls scope action hold s) := by
  unfold placeRecord
  split
  · exact putOverrides_listOnly _ s
  · exact (makeRoom_listOnly s).trans (createRecord_listOnly _ _ _ _ _ _)

theorem retireStation_listOnly (a : Nat) (s : State) : ListOnly s (retireStation a s) := retireRecords_listOnly _ _ s

theorem pressList_listOnly (a : Nat) (scope : Scope) (hold : Nat) (b : Button) (s : State) :
    ListOnly s (pressList a scope hold b s) := by
  refine onSeg_rel (R := ListOnly) (.refl s) fun g _ => ?_
  simp only
  split
  · exact retireStation_listOnly a s
  · split
    · exact .refl s
    · exact placeRecord_listOnly _ _ _ _ _ s

theorem countHolds_listOnly (s : State) : ListOnly s (countHolds s) :=
  (putOverrides_listOnly _ s).trans (retireRecords_listOnly _ _ _)

theorem goVacant_listOnly (i : Nat) (g : Segment) (s : State) : ListOnly s (goVacant i g s) :=
  ((putSeg_listOnly i _ s).trans (retireRecords_listOnly _ _ _)).trans (recomputeHeld_segsOnly i _).listOnly

end Sys2Proof.Machine
end

