-- ==== Sys2Proof/Laws/LineFrames.lean ====
section
/-! SUPPORT. The line bytes and the frames on the lines (R174, R176): the small laws of their definitions, so that no later
proof unfolds them. -/

namespace Sys2Proof.Machine

@[simp] theorem LineByte_bits_length (b : LineByte) : b.bits.length = 11 := by simp [LineByte.bits]

@[simp] theorem LineByte_sent_data (d : Byte) : (LineByte.sent d).data = d := rfl

@[simp] theorem LineByte_sent_stop (d : Byte) : (LineByte.sent d).stop = true := rfl

@[simp] theorem FixtureFlight_frame_level (code k : Nat) (retired : Bool) :
    (⟨.level code, k, retired⟩ : FixtureFlight).frame
      = [LineByte.sent (byte (64 + keyAddress k)), LineByte.sent (byte code)] := rfl

@[simp] theorem FixtureFlight_frame_confirmQuery (k : Nat) (retired : Bool) :
    (⟨.confirmQuery, k, retired⟩ : FixtureFlight).frame = [LineByte.sent (byte (128 + keyAddress k))] := rfl

@[simp] theorem FixtureFlight_frame_scanQuery (k : Nat) (retired : Bool) :
    (⟨.scanQuery, k, retired⟩ : FixtureFlight).frame = [LineByte.sent (byte (128 + keyAddress k))] := rfl

@[simp] theorem PollFlight_frame_due (a : Nat) (mark : PollMark) :
    (PollFlight.due a mark).frame = [LineByte.sent (byte (128 + a))] := rfl

@[simp] theorem PollFlight_frame_spot (a : Nat) : (PollFlight.spot a).frame = [LineByte.sent (byte (128 + a))] := rfl

@[simp] theorem levelAt_nil (n : Nat) : levelAt [] n = lineIdle := by simp [levelAt]

/-- Within the first byte of a frame its bits are on the line, after it those of the rest. -/
theorem levelAt_cons (b : LineByte) (rest : List LineByte) (n : Nat) :
    levelAt (b :: rest) n = if n < 11 then (b.bits[n]?).getD lineIdle else levelAt rest (n - 11) := by
  unfold levelAt
  rw [List.flatMap_cons, List.getElem?_append, LineByte_bits_length]
  split <;> rfl

theorem fixtureTx_idle {i : LineId} {s : State} (h : (lineOf i s).flight = none) (n : Nat) :
    fixtureTx i s n = lineIdle := by simp [fixtureTx, h]

theorem inputTx_idle {s : State} (h : s.inputLine.flight = none) (n : Nat) : inputTx s n = lineIdle := by
  simp [inputTx, h]

end Sys2Proof.Machine
end

