-- ==== Sys2Proof/Laws/Specs.lean ====
section
/-! SUPPORT. What the shared operations do, said once for each: the records and the list that they leave. -/

namespace Sys2Proof.Machine

/-! ## The tables keep their form (R2) -/

theorem seg?_isSome_lt {s : State} (h : TablesOk s) {i : Nat} (hi : (seg? s i).isSome = true) : i < 32 := by
  obtain ⟨g, hg⟩ := Option.isSome_iff_exists.mp hi
  exact h.2.1.2 _ (mem_of_tabGet hg)

theorem lum?_isSome_lt {s : State} (h : TablesOk s) {k : Nat} (hk : (lum? s k).isSome = true) : k < 128 := by
  obtain ⟨l, hl⟩ := Option.isSome_iff_exists.mp hk
  exact h.1.2 _ (mem_of_tabGet hl)

theorem input?_isSome_lt {s : State} (h : TablesOk s) {a : Nat} (ha : (input? s a).isSome = true) : a < 48 := by
  obtain ⟨n, hn⟩ := Option.isSome_iff_exists.mp ha
  exact h.2.2.2 _ (mem_of_tabGet hn)

theorem tablesOk_putSeg {s : State} (h : TablesOk s) {i : Nat} (hi : i < 32) (g : Segment) : TablesOk (putSeg i g s) :=
  ⟨h.1, tabWf_put h.2.1 hi, h.2.2⟩

theorem tablesOk_putLum {s : State} (h : TablesOk s) {k : Nat} (hk : k < 128) (l : Luminaire) :
    TablesOk (putLum k l s) := ⟨tabWf_put h.1 hk, h.2⟩

theorem tablesOk_putInput {s : State} (h : TablesOk s) {a : Nat} (ha : a < 48) (n : Input) :
    TablesOk (putInput a n s) := ⟨h.1, h.2.1, tabWf_put h.2.2 ha⟩

theorem tablesOk_putLine {s : State} (h : TablesOk s) (i : LineId) (l : FixtureLine) : TablesOk (putLine i l s) := by
  cases i <;> exact h

/-- A key byte names a key in its range (R172). -/
theorem keyOfByte_lt (b : Byte) : keyOfByte b.toNat < 128 := by
  have := b.isLt
  unfold keyOfByte
  omega

/-- A key byte read back names the key it was written for. -/
theorem keyOfByte_byteOfKey {k : Nat} (h : k < 128) : keyOfByte (byteOfKey k).toNat = k := by
  simp only [byteOfKey, byte, keyOfByte, BitVec.toNat_ofNat]
  omega

/-! ## The lines -/

@[simp] theorem chooseFrame_state (l : FixtureLine) : (chooseFrame l).state = l.state := by
  unfold chooseFrame
  split
  · split <;> rfl
  · rfl

@[simp] theorem chooseFrame_mark (l : FixtureLine) : (chooseFrame l).mark = l.mark := by
  unfold chooseFrame
  split
  · split <;> rfl
  · rfl

@[simp] theorem chooseFrame_rxHigh (l : FixtureLine) : (chooseFrame l).rxHigh = l.rxHigh := by
  unfold chooseFrame
  split
  · split <;> rfl
  · rfl

/-- A line that is busy, DOWN or low begins no frame. -/
theorem chooseFrame_idle {l : FixtureLine} (h : ¬(l.state = .running ∧ l.flight = none ∧ l.rxHigh = true)) :
    chooseFrame l = l := by simp only [chooseFrame, if_neg h]

/-- The arbiter that has chosen has nothing more to choose. -/
theorem chooseFrame_twice (l : FixtureLine) : chooseFrame (chooseFrame l) = chooseFrame l := by
  by_cases h : l.state = .running ∧ l.flight = none ∧ l.rxHigh = true
  · obtain ⟨state, queue, confirm, slot, mark, flight, rxHigh⟩ := l
    obtain ⟨h1, h2, h3⟩ := h
    simp only at h1 h2 h3
    subst h1 h2 h3
    cases queue <;> cases confirm <;> cases slot <;> rfl
  · rw [chooseFrame_idle h, chooseFrame_idle h]

@[simp] theorem lineOf_arbitrate_self (i : LineId) (s : State) : lineOf i (arbitrate i s) = chooseFrame (lineOf i s) :=
  lineOf_putLine_self i _ s

@[simp] theorem lineOf_arbitrate_ne {i j : LineId} (h : j ≠ i) (s : State) : lineOf j (arbitrate i s) = lineOf j s :=
  lineOf_putLine_ne h _ s

@[simp] theorem lum?_arbitrate (i : LineId) (s : State) (k : Nat) : lum? (arbitrate i s) k = lum? s k :=
  lum?_putLine i _ s k

/-- R136: the keys of a level queue after an entry has joined it. -/
theorem coalesce_keys (q : List QueueEntry) (k code : Nat) :
    (coalesce q k code).map (·.key) =
      if q.any (·.key == k) then q.map (·.key) else q.map (·.key) ++ [k] := by
  unfold coalesce
  split
  · simp only [List.map_map]
    refine List.map_congr_left fun e _ => ?_
    simp only [Function.comp]
    split <;> rfl
  · simp

/-- R136: an entry that has joined stands in the queue with its code. -/
theorem mem_coalesce {q : List QueueEntry} {k code : Nat} {e : QueueEntry} (h : e ∈ coalesce q k code) :
    e ∈ q ∨ (e.key = k ∧ e.code = code) := by
  unfold coalesce at h
  split at h
  · obtain ⟨a, ha, rfl⟩ := List.mem_map.mp h
    split
    · rename_i hk; exact .inr ⟨by simpa using hk, rfl⟩
    · exact .inl ha
  · rcases List.mem_append.mp h with h | h
    · exact .inl h
    · simp only [List.mem_singleton] at h; exact .inr ⟨by rw [h], by rw [h]⟩

/-- R153: the arbiter of the input line leaves the line's state, its spot result and its pin. -/
theorem choosePoll_settings (l : InputLine) :
    (choosePoll l).state = l.state ∧ (choosePoll l).spotResult = l.spotResult ∧ (choosePoll l).rxHigh = l.rxHigh := by
  unfold choosePoll
  split
  · split <;> exact ⟨rfl, rfl, rfl⟩
  · exact ⟨rfl, rfl, rfl⟩

/-! ## The held flag (R64, R65) -/

/-- The record of a segment with its held flag as the state makes it. -/
def heldAgain (s : State) (i : Nat) (g : Segment) : Segment :=
  if isHeld s i g && !g.held then { g with held := true, offTimer := none, shortTimer := none }
  else { g with held := isHeld s i g }

/-- R64: what the recomputation of the held flag leaves at every segment. -/
theorem seg?_recomputeHeld (i j : Nat) (s : State) :
    seg? (recomputeHeld i s) j = if j = i then (seg? s i).map (heldAgain s i) else seg? s j := by
  by_cases h : j = i
  · subst h
    simp only [if_pos]
    cases hg : seg? s j with
    | none => rw [recomputeHeld, onSeg_none hg, hg]; rfl
    | some g =>
      rw [recomputeHeld, onSeg_some hg]
      simp only [Option.map_some, heldAgain]
      split <;> exact seg?_putSeg_self _ _ _
  · rw [if_neg h, recomputeHeld]
    cases hg : seg? s i with
    | none => rw [onSeg_none hg]
    | some g =>
      rw [onSeg_some hg]
      simp only
      split <;> exact seg?_putSeg_ne _ _ h

@[simp] theorem recomputeHeld_overrides (i : Nat) (s : State) : (recomputeHeld i s).overrides = s.overrides := by
  have h := recomputeHeld_segsOnly i s
  unfold SegsOnly at h
  rw [h]

/-- The held condition reads the activity and the list alone. -/
theorem isHeld_congr {s t : State} {i : Nat} {g h : Segment} (hr : recordsOf s i = recordsOf t i)
    (ha : g.activity = h.activity) : isHeld s i g = isHeld t i h := by simp only [isHeld, hr, ha]

/-- A second recomputation finds nothing to change. -/
theorem heldAgain_twice (s : State) (i : Nat) (g : Segment) : heldAgain s i (heldAgain s i g) = heldAgain s i g := by
  have key (u : Segment) (ha : u.activity = g.activity) (hh : u.held = isHeld s i g) : heldAgain s i u = u := by
    have e : isHeld s i u = u.held := (isHeld_congr rfl ha).trans hh.symm
    unfold heldAgain
    rw [e, if_neg (by simp)]
  refine key _ ?_ ?_ <;> unfold heldAgain <;> split
  · rfl
  · rfl
  · rename_i h; simp only [Bool.and_eq_true] at h; exact h.1.symm
  · rfl

/-! ## Retirement and placement (R118, R106, R107) -/

/-- R118: the list that a retirement leaves. -/
theorem retireRecords_overrides (p : Override → Bool) (flag : Bool) (s : State) :
    (retireRecords p flag s).overrides =
      { s.overrides with
        records := s.overrides.records.filter fun o => !p o
        changed := s.overrides.changed || (flag && s.overrides.records.any p) } := by
  unfold retireRecords
  simp only
  generalize (s.overrides.records.filter p).map (·.scope.segment) = ks
  refine forEach_keeps (P := fun t => t.overrides = _) (fun k _ t ht => ?_) rfl
  rw [recomputeHeld_overrides]; exact ht

/-- R102: the front of its class: the same records, with the new one. -/
theorem insertFront_perm (o : Override) (l : List Override) : (insertFront o l).Perm (o :: l) := by
  unfold insertFront
  split
  · exact .refl _
  · refine List.perm_middle.trans (List.Perm.cons o ?_)
    rw [List.takeWhile_append_dropWhile]

/-- R102: FACILITY records stay before OCCUPANT records. -/
theorem insertFront_classes {o : Override} {l : List Override}
    (h : l.Pairwise fun a b => a.cls = .facility ∨ b.cls = .occupant) :
    (insertFront o l).Pairwise fun a b => a.cls = .facility ∨ b.cls = .occupant := by
  unfold insertFront
  split
  · rename_i hc
    exact List.pairwise_cons.mpr ⟨fun _ _ => .inl hc, h⟩
  · rename_i hc
    have hf : ∀ a ∈ l.takeWhile isFacility, a.cls = .facility := fun a ha => by
      simpa [isFacility] using List.mem_takeWhile_imp ha
    refine List.pairwise_append.mpr ⟨h.sublist (List.takeWhile_sublist _), ?_, fun a ha b hb => .inl (hf a ha)⟩
    refine List.pairwise_cons.mpr ⟨fun b hb => ?_, h.sublist (List.dropWhile_sublist _)⟩
    right
    have hd := h.sublist (List.dropWhile_sublist isFacility)
    cases hl : l.dropWhile isFacility with
    | nil => rw [hl] at hb; cases hb
    | cons c cs =>
      have hcf : isFacility c = false := by
        have := List.head?_dropWhile_not isFacility l
        rw [hl] at this
        simpa using this
      have hcc : c.cls = .occupant := by
        cases hx : c.cls with
        | facility => simp [isFacility, hx] at hcf
        | occupant => rfl
      rw [hl] at hb hd
      rcases List.mem_cons.mp hb with rfl | hb
      · exact hcc
      · rcases (List.pairwise_cons.mp hd).1 b hb with hx | hx
        · rw [hcc] at hx; cases hx
        · exact hx

/-! ## Composition (R126) -/

/-- R126 stage 7: codes reach 254 at most. -/
theorem codeOf_le {v : Nat} (h : v ≤ 1000) : codeOf v ≤ 254 := by
  unfold codeOf divUp
  omega

/-- R126 stage 7: a lit level has a lit code. -/
theorem codeOf_pos {v : Nat} (h : 0 < v) : 0 < codeOf v := by
  unfold codeOf divUp
  omega

theorem trimLevel_le (trim v : Nat) : trimLevel trim v ≤ 1000 := by
  unfold trimLevel
  split <;> omega

theorem effectiveCap_le (c : Composer) (cap : Nat) : effectiveCap c cap ≤ 1000 ∧ effectiveCap c cap ≤ cap := by
  unfold effectiveCap
  omega

/-! ## Depth raises (R79, R81) -/

@[simp] theorem afterRaise_cfg (o : Nat) (g : Segment) : (afterRaise o g).cfg = g.cfg := by
  unfold afterRaise; dsimp only; split <;> try rfl
  split <;> try rfl
  split <;> rfl

@[simp] theorem afterRaise_effCap (o : Nat) (g : Segment) : (afterRaise o g).effCap = g.effCap := by
  unfold afterRaise; dsimp only; split <;> try rfl
  split <;> try rfl
  split <;> rfl

/-- A raise from H = 0, as from a link that is not active, leaves the record. -/
@[simp] theorem afterRaise_zero (g : Segment) : afterRaise 0 g = g := by simp [afterRaise]

/-- The machine's raise is the one that the table of R81 gives, from the H of the active link. -/
theorem raised_getD (s : State) (g : Segment) : (raised s g).getD g = afterRaise (linkedH s g) g := by
  have hl : linkedH s g = ((activeOuter s g).map (·.h)).getD 0 := by
    unfold linkedH activeOuter
    split
    · cases ho : g.cfg.outer with
      | none => rfl
      | some o =>
        cases hu : seg? s o with
        | none => simp [hu]
        | some u => by_cases hm : u.cfg.mode = .harvest <;> simp [hu, hm, Option.filter]
    · rfl
  cases ha : activeOuter s g with
  | none => simp [raised, hl, ha]
  | some u =>
    by_cases ht : min u.h g.effCap ≤ g.h
    · simp [raised, afterRaise, hl, ha, ht]
    · cases hc : g.ctl <;> simp [raised, afterRaise, hl, ha, ht, hc, struck, strikeH, startTimer]
      split <;> rfl

end Sys2Proof.Machine
end

