-- ==== Sys2Proof/Tests/Slice0.lean ====
section
/-! SUPPORT. The model's own tests: the checks of WellFormed, the layouts of chapter 11 on bytes written out from them, one
step of the manual's worked sequences, and for every statement with hypotheses a state and operands that meet them. -/

set_option maxRecDepth 100000

namespace Sys2Proof.Tests

open Sys2Proof Sys2Proof.Machine

/-! ## Builders -/

/-- Bytes from numbers. -/
def bs (l : List Nat) : List Byte := l.map byte

/-- The bytes of a reply as a device sends them (R174). -/
def sent (l : List Nat) : List LineByte := (bs l).map LineByte.sent

/-- The state after a command. -/
def after (c : Instr) (s : State) : State :=
  match exec c s with
  | .next t => t
  | _ => s

/-- The state with one record changed. -/
def withSeg (i : Nat) (f : Segment → Segment) (s : State) : State := onSeg i (fun g => putSeg i (f g)) s
def withLum (k : Nat) (f : Luminaire → Luminaire) (s : State) : State := onLum k (fun l => putLum k (f l)) s
def withInput (a : Nat) (f : Input → Input) (s : State) : State := onInput a (fun n => putInput a (f n)) s
def withLineA (f : FixtureLine → FixtureLine) (s : State) : State := { s with lineA := f s.lineA }
def withInputLine (f : InputLine → InputLine) (s : State) : State := { s with inputLine := f s.inputLine }

/-- The body of a segment request that carries some fields, by number. -/
def segBody (i : Nat) (fields : List (Nat × Nat)) : List Byte :=
  let mask := (fields.map fun p => 2 ^ p.1).sum
  bs ([i, mask / 16777216, mask / 65536, mask / 256, mask]) ++
    (segFieldPlaces.zipIdx.flatMap fun p =>
      let v := ((fields.find? fun f => f.1 == p.2).map (·.2)).getD 0
      if p.1.2 = 2 then bytes2 v else [byte v])

/-- A luminaire as enrolled (R6). -/
def lum0 : Luminaire :=
  { place := none, trim := 100, minLevel := 10, maxLevel := 1000, composed := none, sentCode := none, reportedCode := none,
    link := .unknown, missCount := 0, confirmation := .confirmed, mismatchCount := 0, lampFailed := false, hot := false,
    unconfirmed := false, changed := false }

/-- A MANUAL segment as defined (R15), its manual level 1000. -/
def seg0 : Segment :=
  { cfg := segDefaults, ctl := .forced, h := 0, held := false, blind := false, shortfall := false, stepTimer := none,
    offTimer := none, blindTimer := none, shortTimer := none, activity := .occupied, holdTimer := some 9000,
    setbackTimer := none, effCap := 1000, tally := 0, changed := false }

/-- A REPORTING input of a device. -/
def in0 (d : Device) : Input :=
  { device := d, interval := 5, missLimit := 3, link := .reporting, missCount := 0, pollTimer := some 5, changed := false }

/-- A SETTLED record at F = 100. -/
def settled100 : Measurement :=
  { state := .settled, acc := 25600, f0 := some 100, settleCount := 0, pendingJump := false, window := none,
    quarantineTimer := none }

/-- Four segments: 5 (row 1, HARVEST, TRACKING at 600 on sensor 12), 6 (row 2 behind it, HARVEST, DWELL under a cap of 60),
20 (row 4, MANUAL, held by a FACILITY record) and 31 (row 1, MANUAL, sensing off). Luminaires: line A address 0 in segment 5,
address 1 unassigned, line B address 63 in segment 31. Inputs: photosensors 12 SETTLED and 13 QUARANTINED, presence sensor 30
over segment 5, station 47 on segment 31. -/
def floor : State :=
  { State.reset with
    lums :=
      [(0, { lum0 with place := some ⟨5, 0⟩, composed := some ⟨600, 153⟩, sentCode := some 153 }), (1, lum0),
       (127, { lum0 with place := some ⟨31, 0⟩, composed := some ⟨1000, 254⟩, sentCode := some 254 })]
    segs :=
      [(5, { seg0 with cfg := { segDefaults with mode := .harvest, primary := some 12 }, ctl := .tracking, h := 600,
                       stepTimer := some 0, holdTimer := some 0 }),
       (6, { seg0 with cfg := { segDefaults with row := 2, outer := some 5, mode := .harvest, cap := 60 }, ctl := .dwell,
                       h := 60, stepTimer := some 0, offTimer := some 0, effCap := 60 }),
       (20, { seg0 with cfg := { segDefaults with row := 4 }, held := true }),
       (31, { seg0 with cfg := { segDefaults with sensing := false }, holdTimer := none })]
    inputs :=
      [(12, in0 (.photo ⟨0, 50, 0, 1024⟩ settled100)),
       (13, in0 (.photo ⟨3, 50, 1500, 1024⟩
          { settled100 with state := .quarantined, quarantineTimer := some 0 })),
       (30, in0 (.presence [5] (some .quiet))), (47, in0 (.station ⟨31, 0, 7⟩ 120 none (some 1)))]
    overrides := { records := [⟨1, .floor, .facility, ⟨20, 0, 15⟩, .set 500, some 1⟩], counter := 2, changed := false } }

/-- A list of 24 records: 23 FACILITY records, and a last one of a class. -/
def fullList (last : OvClass) : OverrideList :=
  { records :=
      ((List.range 16).map fun n => ⟨n + 1, .floor, .facility, ⟨20, n, 15⟩, .off, some (n + 1)⟩)
        ++ ((List.range 7).map fun n => ⟨n + 17, .floor, .facility, ⟨31, n, 15⟩, .off, none⟩)
        ++ [⟨65535, .station 47, last, ⟨31, 0, 7⟩, .off, if last = .facility then none else some 720⟩]
    counter := 65535, changed := false }

/-- The floor with a full list, segment 31 held by it. -/
def fullFloor (last : OvClass) : State := withSeg 31 (fun g => { g with held := true }) { floor with overrides := fullList last }

/-- The floor with segments 5, 6 and 31 in HARVEST on photosensor 12, segment 5 in a controller state with H = 0. -/
def onSensor12 (ctl : Ctl) : State :=
  let f (g : Segment) : Segment := { g with cfg := { g.cfg with mode := .harvest, primary := some 12 } }
  withSeg 6 f (withSeg 31 (fun g => { f g with ctl := .tracking }) (withSeg 5 (fun g => { g with ctl := ctl, h := 0 }) floor))

/-- The floor with 24 records, the last an OCCUPANT record of the floor, segment 31 held by it. -/
def displaceable : State :=
  let l := fullList .occupant
  { fullFloor .occupant with
    overrides := { l with records := l.records.map fun o => if o.handle = 65535 then { o with origin := .floor } else o } }

/-! ## WellFormed: one ill-formed command for each check -/

theorem test_wf_body : (Instr.calibrate (List.replicate 40 0)).wf = true ∧ (Instr.calibrate (List.replicate 41 0)).wf = false := by
  decide
theorem test_wf_badRequest : (Instr.badRequest (bs [0x01, 0])).wf = true ∧ (Instr.badRequest (bs [0x63, 0])).wf = false := by
  decide
theorem test_wf_handle : (Instr.overrideHoldExpiry 1).wf = true ∧ (Instr.overrideHoldExpiry 0).wf = false
    ∧ (Instr.overrideHoldExpiry 65535).wf = true ∧ (Instr.overrideHoldExpiry 65536).wf = false := by decide
theorem test_wf_segment : (Instr.stepEvent 31).wf = true ∧ (Instr.stepEvent 32).wf = false := by decide
theorem test_wf_input : (Instr.pollTimerExpiry 47).wf = true ∧ (Instr.pollTimerExpiry 48).wf = false := by decide
theorem test_wf_inputReply : (Instr.inputReply (sent [1, 2, 3, 4])).wf = true
    ∧ (Instr.inputReply (sent [1, 2, 3, 4, 5])).wf = false := by decide
theorem test_wf_driverReply : (Instr.driverReply .a (sent [192, 0, 0])).wf = true
    ∧ (Instr.driverReply .a (sent [192, 0, 0, 0])).wf = false := by decide

/-! ## The layouts of chapter 11, on bytes written out from them -/

/-- R173: CALIBRATE, code 0x40, segment 5, M = 500 (0x01F4); a byte after the frame is ignored (R164). -/
theorem test_frame_calibrate : decodeFrame (bs [0x40, 3, 5, 0x01, 0xF4, 0xAA]) = .calibrate (bs [5, 0x01, 0xF4]) := by decide
/-- R173: one request of each family. -/
theorem test_frames_of_families :
    decodeFrame (bs [0x12, 1, 0x80]) = .readLuminaire (bs [0x80]) ∧ decodeFrame (bs [0x23, 1, 31]) = .retireSegment (bs [31])
      ∧ decodeFrame (bs [0x34, 1, 12]) = .reinstateInput (bs [12]) ∧ decodeFrame (bs [0x41, 1, 12]) = .spotRead (bs [12])
      ∧ decodeFrame (bs [0x51, 2, 0, 131]) = .cancelOverride (bs [0, 131])
      ∧ decodeFrame (bs [0x60, 3, 0x02, 0x58, 1]) = .setFloorCap (bs [0x02, 0x58, 1])
      ∧ decodeFrame (bs [0x64, 1, 28]) = .readTally (bs [28]) ∧ decodeFrame (bs [0x7F, 0]) = .warmReset [] := by decide
/-- R165: the four cases, each at its boundary. -/
theorem test_bad_frames :
    decodeFrame [] = .badRequest [] ∧ decodeFrame (bs [0x42]) = .badRequest (bs [0x42])
      ∧ decodeFrame (bs (0x40 :: 41 :: List.replicate 41 0)) = .badRequest (bs (0x40 :: 41 :: List.replicate 41 0))
      ∧ decodeFrame (bs (0x40 :: 40 :: List.replicate 40 0)) = .calibrate (bs (List.replicate 40 0))
      ∧ decodeFrame (bs [0x40, 3, 5, 1]) = .badRequest (bs [0x40, 3, 5, 1])
      ∧ decodeFrame (bs [0x14, 0]) = .badRequest (bs [0x14, 0]) := by decide
/-- R176: the reply of driver 5: 11 000101, HOT, echo 153. The bits on the line by R174: data, parity, stop. -/
theorem test_driver_reply : decodeDriverReply 5 [⟨0xC5, true, true⟩, ⟨0x02, false, true⟩, ⟨0x99, true, true⟩]
    = some ⟨false, true, 153⟩ := by decide
/-- R134, R175: a wrong parity bit, a low stop bit, a wrong address, a wrong mark, a short reply: no reply. -/
theorem test_driver_reply_faults :
    decodeDriverReply 5 [⟨0xC5, false, true⟩, ⟨0x02, false, true⟩, ⟨0x99, true, true⟩] = none
      ∧ decodeDriverReply 5 [⟨0xC5, true, true⟩, ⟨0x02, false, false⟩, ⟨0x99, true, true⟩] = none
      ∧ decodeDriverReply 6 (sent [0xC5, 2, 0x99]) = none ∧ decodeDriverReply 5 (sent [0x85, 2, 0x99]) = none
      ∧ decodeDriverReply 5 (sent [0xC5, 2]) = none := by decide
/-- R176: replies of input 12 of each kind; a kind byte of 4 is none of the three; reserved bits are ignored. -/
theorem test_input_reply :
    decodeInputReply 12 (sent [1, 12, 0x01, 0xF4]) = some (.photo 500) ∧ decodeInputReply 12 (sent [2, 12, 0xFF, 9])
      = some (.presence true) ∧ decodeInputReply 12 (sent [3, 12, 0xF7, 5]) = some (.station 7 5)
      ∧ decodeInputReply 12 (sent [4, 12, 0, 0]) = none ∧ decodeInputReply 12 (sent [1, 13, 0, 0]) = none := by decide
/-- R176: the frames that the lines send. -/
theorem test_frames_sent :
    (⟨.level 153, 69, false⟩ : FixtureFlight).bytes = bs [0x45, 153]
      ∧ (⟨.scanQuery, 69, false⟩ : FixtureFlight).bytes = bs [0x85] ∧ (PollFlight.spot 12).bytes = bs [0x8C] := by decide
/-- R174: LEVEL to line B address 5 with code 153 on FBTX, bit time by bit time: 0x45 has three ones and 0x99 has four. -/
theorem test_level_on_the_wire :
    let s := { State.reset with lineB := { FixtureLine.reset with flight := some ⟨.level 153, 69, false⟩ } }
    (List.range 24).map (fixtureTx .b s) =
      ([0, 1, 0, 1, 0, 0, 0, 1, 0, 0, 1] ++ [0, 1, 0, 0, 1, 1, 0, 0, 1, 1, 1] ++ [1, 1]).map (· == 1)
      ∧ (List.range 3).map (fixtureTx .a s) = [true, true, true] ∧ (List.range 2).map (inputTx s) = [true, true] := by decide
/-- R172: the response after a cold reset is that of a NOP, then zero bytes. -/
theorem test_response_frame : State.reset.port.offered.shiftedOut 5 = bs [0, 0, 0, 0, 0] := by decide
/-- The table gives no row any bits. -/
theorem test_no_words : decodeTableWord 8 0 = none := by decide

/-! ## One step, against the manual's examples -/

/-- R29: +3490 with N = 3 adds 436; −13 with N = 3 adds −1. -/
theorem test_feed : feedAcc 3 (256 * 20 - 3490) 20 = 256 * 20 - 3490 + 436 ∧ feedAcc 3 (256 * 20 + 13) 20 = 256 * 20 + 12 := by
  decide
/-- R42: at F = 900 and K = 640 the estimate is 562. -/
theorem test_estimate : taskEstimate ⟨3, 50, 1500, 640⟩ { settled100 with acc := 230400 } = 562
    ∧ taskEstimate ⟨3, 50, 1500, 4095⟩ { settled100 with acc := 256 * 65535 } = 65535 := by decide
/-- R44: F = 777 and M = 480 give K = 633; F = 100 and M = 2000 give 4095 and CLAMPED. -/
theorem test_calibrate :
    (after (.calibrate (bs (5 :: [1, 224])))
      (withInput 12 (fun n => { n with device := .photo ⟨0, 50, 0, 1024⟩ { settled100 with acc := 777 * 256 } }) floor)).port.offered
        = ⟨.ok, 0x40, bs [5, 12, 3, 9, 2, 121]⟩
      ∧ (after (.calibrate (bs [5, 7, 208])) floor).port.offered.status = .clamped := by decide
/-- R54: at H = 980 with U = 40 and cap 1000 an up step makes H = 1000; at H = 5 with D = 10 and no link a down step makes 0. -/
theorem test_steps : upH { seg0 with h := 980 } = 1000 ∧ downH 0 { seg0 with h := 5 } = 0 ∧ downH 350 { seg0 with h := 355 } = 350 := by
  decide
/-- R126: level 1 gives code 1, 600 gives 153, 1000 gives 254; a minimum above the cap gives 0. -/
theorem test_codes : codeOf 1 = 1 ∧ codeOf 600 = 153 ∧ codeOf 1000 = 254 ∧ codeOf 0 = 0
    ∧ (composeFrom { lum0 with minLevel := 300 } 200 1000).level = 0 := by decide
/-- R110: a list of 24 records read at 16 carries 8, at 23 carries 1. -/
theorem test_read_overrides :
    (after (.readOverrides (bs [16])) (fullFloor .occupant)).port.offered.body.length = 97
      ∧ (after (.readOverrides (bs [23])) (fullFloor .occupant)).port.offered.body.length = 13 := by decide
/-- R132: a read at id 28 carries the 4 entries of ids 28 to 31. -/
theorem test_read_tally : (after (.readTally (bs [28])) floor).port.offered.body.length = 18 := by decide
/-- R104: handle 65535 is followed by 1, and a held handle is passed over. -/
theorem test_handles : handleAfter 65535 = 1 ∧ freeHandle (fullList .occupant).records 25 65535 = 24 := by decide
/-- 10.6: SPOT READ after READ FLOOR after the cold reset; ATTN stays asserted by the floor change flag. -/
theorem test_first_transactions :
    (after (.readFloor []) State.reset).port.coldStart = false ∧ (after (.readFloor []) State.reset).port.attn = true
      ∧ (after (.spotRead (bs [12])) State.reset).inputLine.flight = some (.spot 12) := by decide
/-- R173: the floor as READ FLOOR reports it after a cold reset. -/
theorem test_read_floor : (after (.readFloor []) State.reset).port.offered.body
    = bs [0x32, 0x16, 1, 0x03, 0xE8, 0, 0, 0, 0, 0, 0] := by decide
/-- R173: records written out from the layouts: line B address 63 in segment 31; the FACILITY record of segment 20, SET 500 for 1
min; a NUDGE of −500 without a hold; photosensor 12, REPORTING, SETTLED at F = F0 = 100; station 47. -/
theorem test_records :
    (∀ l ∈ lum? floor 127, lumRecord 127 l = bs [0xBF, 31, 0, 100, 0, 10, 3, 232, 3, 232, 254, 254, 255, 255, 0, 0])
      ∧ floor.overrides.records.flatMap overrideBytes = bs [0, 1, 255, 0, 20, 0, 15, 1, 1, 244, 0, 1]
      ∧ overrideBytes ⟨258, .station 47, .occupant, ⟨31, 1, 7⟩, .nudge (-500), none⟩
        = bs [1, 2, 47, 1, 31, 1, 7, 2, 0xFE, 0x0C, 255, 255]
      ∧ (∀ n ∈ input? floor 12, inputRecord 12 n = bs [12, 1, 5, 3, 0, 0, 50, 0, 0, 4, 0, 1, 0, 2, 0, 100, 0, 100])
      ∧ ∀ n ∈ input? floor 47, inputRecord 47 n = bs [47, 3, 5, 3, 31, 0, 7, 0, 120, 0, 0, 1, 0, 0, 0, 0, 0, 0] := by decide
/-- R173: segment 6 (row 2 behind segment 5, HARVEST, DWELL at 60 under a cap of 60), its defaults as R12 gives them. -/
theorem test_segment_record : ∀ g ∈ seg? floor 6, segRecord 6 g
    = bs ([6, 2, 5, 255, 255, 1, 3, 232, 1, 244, 25, 0, 50, 40, 10, 10, 30, 0, 100, 1, 44, 1, 44, 3, 32, 0, 60, 10, 0, 60, 1, 15, 10]
      ++ [1, 44, 0, 2, 0, 0, 60, 0, 60, 0, 0, 0, 0]) := by decide
/-- R173: spot results and pairs of kind and key, written out. -/
theorem test_spot_and_flags : spotBytes ⟨12, some (.photo 500)⟩ = bs [12, 1, 1, 244] ∧ spotBytes ⟨12, none⟩ = bs [12, 255, 0, 0]
    ∧ [FlagKey.floor, .list, .lum 127, .segment 31, .input 47].flatMap flagBytes = bs [0, 0, 1, 0, 2, 0xBF, 3, 31, 4, 47] := by
  decide
/-- A command put at the front by a word: no word spells one, so the state stands. -/
theorem test_fetch_word : State.reset.withFetchWord 8 1 = State.reset := by decide

/-! ## Witnesses: for each statement with hypotheses, a state and operands that meet them, clause by clause -/

/-- StepRunsFrontCommand. -/
theorem witness_step : ({ floor with pending := [.nop []] } : State).pending = .nop [] :: [] ∧ floor.pending = [] := by decide
/-- RequestFramesDecode: a body of 40 bytes, and none. -/
theorem witness_request_frames : (Instr.placeOverride (List.replicate 40 0)).wf = true
    ∧ (requestParts (.placeOverride (List.replicate 40 0))).isSome = true ∧ (Instr.nop []).wf = true := by decide
/-- RefusedRequestsChangeNothing, RequestsSetNoRecordFlags: a read of segment 32. -/
theorem witness_refused : ∃ t, exec (.readSegment (bs [32])) floor = .next t ∧ t.port.offered.status ≠ .ok
    ∧ t.port.offered.status ≠ .clamped := ⟨after (.readSegment (bs [32])) floor, rfl, by decide, by decide⟩
/-- RequestsSetNoRecordFlags: a request that sets the list's flag, and one that sets the floor's. -/
theorem witness_flags :
    (after (.retireInput (bs [47])) { fullFloor .occupant with port := { State.reset.port with floorChanged := false } }).overrides.changed
        = true
      ∧ (after (.warmReset []) { State.reset with port := { State.reset.port with floorChanged := false } }).port.floorChanged
        = true := by decide
/-- The laws, all of them, in a state with records, and a command in front: the premises of every statement of the section
'The laws'. -/
theorem witness_laws_tables : AttnOk floor ∧ TablesOk floor ∧ ConfigOk floor ∧ RefsOk floor ∧ OverridesOk floor := by
  refine ⟨?_, ?_, ?_, ?_, ?_⟩ <;> decide
theorem witness_laws_lines : LinesOk floor ∧ AwaitingOk floor ∧ MissesOk floor ∧ CodesOk floor ∧ InputLineOk floor ∧ ReportsOk floor
    ∧ MeasurementsOk floor ∧ CountersOk floor := by
  refine ⟨?_, ?_, ?_, ?_, ?_, ?_, ?_, ?_⟩ <;> decide
theorem witness_laws_segments : HarvestOk floor ∧ DepthOk floor ∧ VacantOk floor ∧ TimersOk floor ∧ WatchedOk floor ∧ HeldOk floor
    ∧ CapsOk floor := by decide
theorem witness_laws_levels : CurrentOk floor ∧ DeliveryOk floor := by decide
theorem witness_laws_step : ∃ t, step { floor with pending := [.nop []] } = .next t := ⟨_, rfl⟩
/-- The laws say something where a segment is dimmed, a list full, a line DOWN: each law at a state where its case occurs. -/
theorem witness_laws_cases :
    DepthOk (withSeg 6 (fun g => { g with effCap := 1000, h := 600 }) floor)
      ∧ ¬DepthOk (withSeg 6 (fun g => { g with effCap := 1000, h := 599 }) floor)
      ∧ WatchedOk (withSeg 5 (fun g => { g with activity := .vacant }) floor)
      ∧ ¬WatchedOk (withSeg 6 (fun g => { g with activity := .setback }) floor)
      ∧ OverridesOk (fullFloor .occupant) ∧ ¬CurrentOk (withSeg 5 (fun g => { g with h := 500 }) floor)
      ∧ ¬DeliveryOk (withLum 0 (fun l => { l with sentCode := some 152 }) floor) := by decide
/-- CompositionObeysItsStages: segment 5, which no record covers; position 0 of segment 31, which the second of two records governs,
with each action; a luminaire in its ranges. -/
theorem witness_composition : lumConfigOk lum0
    ∧ (∀ o ∈ floor.overrides.records, o.scope.segment ≠ 5)
    ∧ ∀ a ∈ [OvAction.set 300, .nudge (-500), .off],
        let first : Override := ⟨1, .floor, .facility, ⟨31, 1, 15⟩, .off, none⟩
        let second : Override := ⟨2, .floor, .facility, ⟨31, 0, 15⟩, a, none⟩
        let s := { floor with overrides := { floor.overrides with records := [first, second] } }
        s.overrides.records = [first] ++ second :: []
          ∧ (second.scope.segment = 31 ∧ second.scope.first ≤ 0 ∧ 0 ≤ second.scope.last)
          ∧ ¬(first.scope.segment = 31 ∧ first.scope.first ≤ 0 ∧ 0 ≤ first.scope.last) := by decide
/-- ReadsAnswerTheRecords: the last key of each table. -/
theorem witness_reads : (lum? floor (keyOfByte (byteAt (bs [0xBF]) 0))).isSome = true
    ∧ byteAt (bs [31]) 0 ≤ 31 ∧ (seg? floor 31).isSome = true ∧ byteAt (bs [47]) 0 ≤ 47 ∧ (input? floor 47).isSome = true := by
  decide
/-- LuminairesAreEnrolledAndRetired, the enrolment: line B address 0, with settings at and above their limits. -/
theorem witness_enrol_luminaire : 9 ≤ (bs [0x80, 28, 0, 0, 150, 1, 45, 0, 0]).length
    ∧ lum? floor (keyOfByte (byteAt (bs [0x80, 28, 0, 0, 150, 1, 45, 0, 0]) 0)) = none
    ∧ (byteAt (bs [0x80, 28]) 1).testBit 0 = false ∧ (byteAt (bs [0x80, 28]) 1).testBit 1 = false := by decide
/-- AmendLuminaireAssignsAndUnassigns: luminaire 1 to segment 31 position 15; luminaire 0 to position 15 of its own; luminaire 0 with
settings alone, one clamped, and with the settings that it has; luminaire 0 to none; luminaire 1 with settings alone. -/
theorem witness_amend_luminaire :
    (∃ l ∈ lum? floor 1, l.place ≠ some ⟨31, 15⟩ ∧ (seg? floor 31).isSome = true
        ∧ ∀ e ∈ floor.lums, e.1 ≠ 1 → e.2.place ≠ some ⟨31, 15⟩)
      ∧ (byteAt (bs [1, 3, 31, 15, 0, 0, 0, 0, 0]) 1).testBit 0 = true ∧ (3 : Nat).testBit 1 = true
      ∧ (∃ l ∈ lum? floor 0, l.place = some ⟨5, 0⟩ ∧ (seg? floor 5).isSome = true
          ∧ ∀ e ∈ floor.lums, e.1 ≠ 0 → e.2.place ≠ some ⟨5, 15⟩)
      ∧ (2 : Nat).testBit 0 = false ∧ (2 : Nat).testBit 1 = true
      ∧ (∀ trim ∈ [100, 120, 151], (after (.amendLuminaire (bs [0, 4, 0, 0, trim, 0, 0, 0, 0])) floor).port.offered.status
          = if trim = 151 then .clamped else .ok)
      ∧ (∃ l ∈ lum? floor 0, l.place ≠ none) ∧ (1 : Nat).testBit 0 = true ∧ (1 : Nat).testBit 1 = false
      ∧ (∃ l ∈ lum? floor 1, l.place = none) ∧ (28 : Nat).testBit 0 = false ∧ (28 : Nat).testBit 1 = false := by decide
/-- TableRequestsFailByTheirFirstCheck, luminaires: each check, the earlier ones passing. -/
theorem witness_luminaire_checks :
    (lum? floor 0).isSome = true ∧ lum? floor 2 = none ∧ (1 : Nat).testBit 0 = true ∧ (2 : Nat).testBit 1 = true
      ∧ (∃ l ∈ lum? floor 1, l.place = none) ∧ (∃ l ∈ lum? floor 0, l.place = some ⟨5, 0⟩)
      ∧ seg? floor 30 = none ∧ (seg? floor 31).isSome = true
      ∧ (∃ e ∈ floor.lums, e.1 ≠ 0 ∧ e.2.place = some ⟨31, 0⟩)
      ∧ (∃ e ∈ (withLum 127 (fun l => { l with place := some ⟨5, 15⟩ }) floor).lums, e.1 ≠ 0 ∧ e.2.place = some ⟨5, 15⟩) := by
  decide
/-- TableRequestsFailByTheirFirstCheck, segments: ids 31 and 32; row 0 and row 5; a link to itself; a row change of segment 5, which
segment 6 names; a segment that is referred to. -/
theorem witness_segment_checks :
    (seg? floor 31).isSome = true ∧ seg? floor 0 = none ∧ byteAt (segBody 32 []) 0 = 32
      ∧ (segField (segBody 0 []) 0).isNone = true ∧ segEnumsOk (segBody 0 [(0, 0)]) = false
      ∧ segEnumsOk (segBody 0 [(0, 5)]) = false ∧ segEnumsOk (segBody 0 [(0, 4), (1, 0)]) = true
      ∧ refsFit floor 0 (takeSegStructure (segBody 0 [(0, 4), (1, 0)]) segDefaults) = false
      ∧ segEnumsOk (segBody 31 [(1, 31)]) = true ∧ carriesRefs (segBody 31 [(1, 31)]) = true
      ∧ (∃ g ∈ seg? floor 31, refsFit floor 31 (takeSegStructure (segBody 31 [(1, 31)]) g.cfg) = false)
      ∧ (∃ g ∈ seg? floor 5, (takeSegStructure (segBody 5 [(0, 2)]) g.cfg).row ≠ g.cfg.row
          ∧ segEnumsOk (segBody 5 [(0, 2)]) = true ∧ refsFit floor 5 (takeSegStructure (segBody 5 [(0, 2)]) g.cfg) = true)
      ∧ (∃ e ∈ floor.segs, e.1 ≠ 5 ∧ e.2.cfg.outer = some 5) ∧ segReferenced floor 31 = true := by decide
/-- TableRequestsFailByTheirFirstCheck, inputs: addresses 47 and 48; kinds 0 and 4; a mask bit of another kind; no coverage, an empty
one; a scope that ends before it begins; a photosensor that a segment names. -/
theorem witness_input_checks :
    (input? floor 47).isSome = true ∧ input? floor 46 = none ∧ (0 : Nat) ∉ [1, 2, 3] ∧ (4 : Nat) ∉ [1, 2, 3]
      ∧ (8 : Nat).testBit 3 = true ∧ (0 : Nat).testBit 2 = false
      ∧ coverageIn floor (bs [46, 4, 2, 0, 0, 0, 0, 0, 0, 0, 0, 0]) = none
      ∧ coverageIn floor (bs [46, 4, 2, 0, 0, 2, 5, 5, 0, 0, 0, 0]) = none ∧ scopeOk floor ⟨31, 1, 0⟩ = false
      ∧ (∃ n ∈ input? floor 47, (deviceKind n.device).code = 3 ∧ (2 : Nat) ∉ [0, (deviceKind n.device).code])
      ∧ (∃ n ∈ input? floor 12, deviceKind n.device = .photo) ∧ namedAsSensor floor 12 = true := by decide
/-- LineFramesAreFramedAndRead: a reply of each kind at its last address; a byte that is not good. -/
theorem witness_line_frames : (⟨true, false, 255⟩ : DriverReply).echo < 256 ∧ (63 : Nat) < 64 ∧ (47 : Nat) < 48
    ∧ (⟨0x45, true, true⟩ : LineByte).good = false ∧ (sent [192, 0]).length < 3
    ∧ ((InputValue.photo 65535).bytes 47) = bs [1, 47, 255, 255] ∧ ((InputValue.station 15 5#8).bytes 0) = bs [3, 0, 15, 5] := by
  decide
/-- LuminairesAreEnrolledAndRetired, the retirement. -/
theorem witness_retire_luminaire : (lum? floor (keyOfByte (byteAt (bs [0xBF]) 0))).isSome = true := by decide
/-- SegmentFieldsAreTakenFromTheirBytes: a body written out byte by byte from R173: id 5; the mask with bits 0, 5, 13 and 20; row 2;
manual level 600; C 501, which is one above its range; sensing 0. A strike level below that C follows it. -/
theorem test_segment_fields :
    let body := bs ([5, 0x00, 0x10, 0x20, 0x21, 2, 0, 0, 0, 0, 0x02, 0x58, 0, 0, 0, 0, 0, 0, 0, 0, 0, 0x01, 0xF5]
      ++ List.replicate 17 0)
    let taken := takeSegNumbers body (takeSegStructure body { segDefaults with strikeLevel := 499 })
    body.length = 40 ∧ taken.1.row = 2 ∧ taken.1.manualLevel = 600 ∧ taken.1.cutOff = 500 ∧ taken.1.strikeLevel = 500
      ∧ taken.1.sensing = false ∧ taken.1.outer = none ∧ taken.1.target = segDefaults.target ∧ taken.2 = true := by decide
/-- SegmentFieldsAreTakenFromTheirBytes, the references: a link to the row before and a photosensor; an input of another kind. -/
theorem witness_segment_references :
    refsFit floor 0 { segDefaults with row := 2, outer := some 5, primary := some 12, secondary := some 13 } = true
      ∧ refsFit floor 0 { segDefaults with primary := some 30 } = false := by decide
/-- DefineSegmentStartsItsRuntime: id 0, in MANUAL and in HARVEST mode. -/
theorem witness_define_segment :
    TablesOk floor ∧ RefsOk floor ∧ seg? floor 0 = none
      ∧ (∀ fields ∈ [[(0, 4)], [(0, 4), (4, 1)], [(0, 1), (4, 1), (3, 13)]],
          40 ≤ (segBody 0 fields).length ∧ byteAt (segBody 0 fields) 0 ≤ 31 ∧ (segField (segBody 0 fields) 0).isSome = true
            ∧ segEnumsOk (segBody 0 fields) = true
            ∧ refsFit floor 0 (takeSegStructure (segBody 0 fields) segDefaults) = true)
      ∧ (takeSegNumbers (segBody 0 [(0, 4)]) (takeSegStructure (segBody 0 [(0, 4)]) segDefaults)).1.mode = .manual
      ∧ (takeSegNumbers (segBody 0 [(0, 4), (4, 1)])
          (takeSegStructure (segBody 0 [(0, 4), (4, 1)]) segDefaults)).1.mode = .harvest := by decide
/-- R85: a HARVEST segment of row 2 defined behind segment 5, which is at 600, with a manual level of 100, takes 600. -/
theorem test_define_raises :
    let body := segBody 0 [(0, 2), (1, 5), (4, 1), (5, 100)]
    refsFit floor 0 (takeSegStructure body segDefaults) = true ∧ (seg? (after (.defineSegment body) floor) 0).map (·.h) = some 600 := by
  decide
/-- AmendSegmentChangesSettingsAndMode: a cut-off of 0 at the DWELL segment 6; segment 31 to HARVEST; segment 5 to MANUAL. -/
theorem witness_amend_segment :
    (∀ p ∈ [(6, [(13, 0)]), (31, [(4, 1)]), (5, [(4, 0)]), (31, [(0, 2)])],
        40 ≤ (segBody p.1 p.2).length ∧ byteAt (segBody p.1 p.2) 0 = p.1 ∧ segEnumsOk (segBody p.1 p.2) = true
          ∧ ∃ g ∈ seg? floor p.1,
              (carriesRefs (segBody p.1 p.2) = true →
                refsFit floor p.1 (takeSegStructure (segBody p.1 p.2) g.cfg) = true)
              ∧ (∀ e ∈ floor.segs, p.1 = 31 → e.2.cfg.outer ≠ some p.1)
              ∧ (takeSegNumbers (segBody p.1 p.2) (takeSegStructure (segBody p.1 p.2) g.cfg)).1.cap = g.cfg.cap
              ∧ (takeSegNumbers (segBody p.1 p.2) (takeSegStructure (segBody p.1 p.2) g.cfg)).1.sensing = g.cfg.sensing)
      ∧ (∃ g ∈ seg? floor 31, g.cfg.mode = .manual ∧ (takeSegStructure (segBody 31 [(4, 1)]) g.cfg).mode = .harvest
          ∧ g.cfg.outer = none)
      ∧ ∃ g ∈ seg? floor 5, g.cfg.mode = .harvest ∧ (takeSegStructure (segBody 5 [(4, 0)]) g.cfg).mode = .manual := by
  decide
/-- AmendSegmentChangesSettingsAndMode, the raises: segment 6 is given its outer link; segment 5, which segment 6 names, enters HARVEST. -/
theorem witness_amend_link :
    let s := withSeg 6 (fun g => { g with cfg := { g.cfg with outer := none, cap := 1000 }, effCap := 1000 }) floor
    let body := segBody 6 [(1, 5)]
    TablesOk s ∧ RefsOk s ∧ segEnumsOk body = true ∧ carriesRefs body = true
      ∧ (∃ g ∈ seg? s 6, refsFit s 6 (takeSegStructure body g.cfg) = true ∧ g.cfg.outer ≠ (takeSegStructure body g.cfg).outer)
      ∧ (seg? (after (.amendSegment body) s) 6).map (fun g => (g.h, g.ctl)) = some (600, .tracking) := by decide
theorem witness_amend_enters :
    let s := withSeg 6 (fun g => { g with effCap := 1000, cfg := { g.cfg with cap := 1000 } })
      (withSeg 5 (fun g => { seg0 with cfg := { g.cfg with mode := .manual } }) floor)
    let body := segBody 5 [(4, 1)]
    TablesOk s ∧ RefsOk s ∧ segEnumsOk body = true ∧ carriesRefs body = false
      ∧ (∃ g ∈ seg? s 5, g.cfg.mode = .manual ∧ (takeSegStructure body g.cfg).mode = .harvest)
      ∧ ∃ g ∈ seg? s 6, g.cfg.mode = .harvest ∧ g.cfg.outer = some 5 ∧ g.ctl = .dwell := by decide
/-- AmendSegmentChangesSettingsAndMode, R14's order: one request that lowers the cap of segment 5 to 100, raises its C to 200 and
turns its sensing off (the clamp comes first, so H = 100 ≤ C lands in DWELL); one that gives it all to a segment that enters
HARVEST, with the clear-shortfall option. -/
theorem witness_amend_order : HeldOk floor ∧ TablesOk floor ∧ RefsOk floor
    ∧ (seg? (after (.amendSegment (segBody 5 [(13, 200), (19, 100), (20, 0)])) floor) 5).map
        (fun g => (g.h, g.ctl, g.offTimer, g.holdTimer)) = some (100, .dwell, some 3000, none) := by decide
theorem witness_amend_order_enters :
    let s := withSeg 31 (fun g => { g with shortfall := true }) floor
    (seg? (after (.amendSegment (segBody 31 [(4, 1), (13, 200), (19, 100), (20, 1), (25, 0)])) s) 31).map
        (fun g => (g.h, g.ctl, g.shortfall, g.holdTimer)) = some (100, .dwell, false, some 9000) := by decide
/-- AmendSegmentChangesCapAndSensing, the raise of R87: the cap of segment 6, whose link is active, from 60 to 1000. -/
theorem witness_amend_cap_raises :
    let body := segBody 6 [(19, 1000)]
    carriesRefs body = false ∧ (∃ g ∈ seg? floor 6, g.cfg.outer = some 5 ∧ g.effCap < 1000)
      ∧ (seg? (after (.amendSegment body) floor) 6).map (fun g => (g.h, g.ctl)) = some (600, .tracking) := by decide
/-- AmendSegmentChangesCapAndSensing: the cap of segment 5 to 0, its sensing off, the sensing of segment 31 on. -/
theorem witness_amend_cap : HeldOk floor
    ∧ (∀ p ∈ [(5, [(19, 0)]), (5, [(20, 0)]), (31, [(20, 1)])],
        40 ≤ (segBody p.1 p.2).length ∧ segEnumsOk (segBody p.1 p.2) = true ∧ carriesRefs (segBody p.1 p.2) = false
          ∧ (word4At (segBody p.1 p.2) 1).testBit 25 = false ∧ ∃ g ∈ seg? floor p.1, g.cfg.outer = none
              ∧ (takeSegNumbers (segBody p.1 p.2) (takeSegStructure (segBody p.1 p.2) g.cfg)).1.mode = g.cfg.mode
              ∧ (takeSegNumbers (segBody p.1 p.2) (takeSegStructure (segBody p.1 p.2) g.cfg)).1.cutOff = g.cfg.cutOff)
    ∧ (seg? floor 5).map (·.cfg.sensing) = some true ∧ (takeSegStructure (segBody 5 [(20, 0)]) segDefaults).sensing = false
    ∧ (seg? floor 31).map (·.cfg.sensing) = some false
    ∧ (takeSegStructure (segBody 31 [(20, 1)]) segDefaults).sensing = true := by decide
/-- RetireSegmentTakesItsOverrides. -/
theorem witness_retire_segment : (seg? floor 20).isSome = true ∧ segReferenced floor 20 = false
    ∧ (seg? (after (.enrolLuminaire []) floor) 20).isSome = true := by decide
/-- EnrolInputCreatesTheRecord: each kind at address 46. -/
theorem witness_enrol_input : input? floor (byteAt (bs [46, 4, 1, 0, 0, 0, 0, 0, 0, 0, 0, 0]) 0) = none
    ∧ 12 ≤ (bs [46, 4, 1, 0, 0, 0, 0, 0, 0, 0, 0, 0]).length
    ∧ coverageIn floor (bs [46, 4, 2, 0, 0, 4, 5, 6, 20, 31, 0, 0]) = some [5, 6, 20, 31]
    ∧ coverageIn floor (bs [46, 4, 2, 0, 0, 1, 31, 0, 0, 0, 0, 0]) = some [31]
    ∧ scopeOk floor ⟨31, 0, 15⟩ = true ∧ (4 : Nat).testBit 2 = true ∧ (4 : Nat).testBit 3 = false := by decide
/-- AmendInputTakesItsSettings: one input of each kind, its kind byte 0 or its own; a coverage that takes a dimmed segment out. -/
theorem witness_amend_input : TablesOk floor ∧ (∀ n ∈ input? floor 12, (deviceKind n.device).code = 1)
    ∧ (∃ n ∈ input? floor 12, n.device = .photo ⟨0, 50, 0, 1024⟩ settled100)
    ∧ (∃ n ∈ input? floor 47, n.device = .station ⟨31, 0, 7⟩ 120 none (some 1))
    ∧ (∃ n ∈ input? floor 30, n.device = .presence [5] (some .quiet))
    ∧ coverageIn floor (bs [30, 4, 0, 0, 0, 1, 6, 0, 0, 0, 0, 0]) = some [6]
    ∧ watched (after (.amendInput (bs [30, 4, 0, 0, 0, 1, 6, 0, 0, 0, 0, 0])) floor) 5 = false := by decide
/-- RetireInputForgetsIt: a photosensor that no segment names, the presence sensor, the station. -/
theorem witness_retire_input : HeldOk floor ∧ (∃ n ∈ input? floor 13, deviceKind n.device = .photo) ∧ namedAsSensor floor 13 = false
    ∧ (∃ n ∈ input? floor 30, deviceKind n.device = .presence) ∧ ∃ n ∈ input? floor 47, deviceKind n.device = .station := by
  decide
/-- ReinstateReleasesQuarantine: address 48, an empty place, another kind, a SETTLED and a QUARANTINED record. -/
theorem witness_reinstate : 47 < byteAt (bs [48]) 0 ∧ byteAt (bs [46]) 0 ≤ 47 ∧ input? floor 46 = none
    ∧ (∃ n ∈ input? floor 47, deviceKind n.device ≠ .photo)
    ∧ (∃ n ∈ input? floor 12, n.device = .photo ⟨0, 50, 0, 1024⟩ settled100) ∧ settled100.state ≠ .quarantined
    ∧ ∃ n ∈ input? floor 13, deviceKind n.device = .photo ∧ ((photoOf floor 13).map (·.2.state)) = some .quarantined := by
  decide
/-- CalibrateSetsTheRatio: segment 32, an undefined one, one without a sensor, F = 0 and F = 100. -/
theorem witness_calibrate : 31 < byteAt (bs [32, 0, 0]) 0 ∧ seg? floor 30 = none
    ∧ (∃ g ∈ seg? floor 31, activeSensor floor g = none)
    ∧ (∃ g ∈ seg? floor 5, activeSensor floor g = some 12) ∧ (∃ p ∈ photoOf floor 12, p.2.acc / 256 ≠ 0)
    ∧ ∃ p ∈ photoOf (withInput 12 (fun n => { n with device := .photo ⟨0, 50, 0, 1024⟩ { settled100 with acc := 255 } }) floor) 12,
        p.2.acc / 256 = 0 := by decide
/-- SpotReadsAreTakenEndedAndFetched, the request: address 48; an outstanding read; RUNNING; DOWN. -/
theorem witness_spot_read : 47 < byteAt (bs [48]) 0 ∧ byteAt (bs [47]) 0 ≤ 47
    ∧ (withInputLine (fun l => { l with spotRequest := some ⟨3, false⟩ }) floor).inputLine.spotRequest.isSome = true
    ∧ floor.inputLine.spotRequest = none ∧ floor.inputLine.state = .running
    ∧ (withInputLine (fun l => { l with state := .down }) floor).inputLine.spotRequest = none := by decide
/-- SpotReadsAreTakenEndedAndFetched, the end and the fetch. -/
theorem witness_spot_end :
    (withInputLine (fun l => { l with spotRequest := some ⟨12, true⟩, flight := some (.spot 12) }) floor).inputLine.flight
        = some (.spot 12)
      ∧ floor.inputLine.spotResult = none
      ∧ (withInputLine (fun l => { l with spotResult := some ⟨12, none⟩ }) floor).inputLine.spotRequest = none := by decide
/-- PlaceOverridePlacesTheRecord: a new record, a refresh, a displacement, both classes, each action. -/
theorem witness_place : TablesOk floor ∧ OverridesOk floor ∧ scopeOk floor ⟨31, 0, 15⟩ = true ∧ scopeOk floor ⟨20, 0, 15⟩ = true
    ∧ classOf 0 = some .facility ∧ classOf 1 = some .occupant
    ∧ actionOf 1 (signed2 1001) = some (.set 1000, true) ∧ actionOf 2 (signed2 0xFE0B) = some (.nudge (-500), true)
    ∧ actionOf 3 (signed2 0) = some (.off, false)
    ∧ findRecord .floor ⟨31, 0, 15⟩ floor.overrides.records = none
    ∧ (findRecord .floor ⟨20, 0, 15⟩ floor.overrides.records).isSome = true
 := by decide
theorem witness_displace : TablesOk (fullFloor .occupant) ∧ OverridesOk (fullFloor .occupant)
    ∧ (fullFloor .occupant).overrides.records.length = 24 ∧ findRecord .floor ⟨5, 0, 0⟩ (fullList .occupant).records = none
    ∧ ((fullFloor .occupant).overrides.records.reverse.find? fun o => o.cls == .occupant) ≠ none := by decide
/-- PlaceOverridePlacesTheRecord, the refusals: a scope without a segment, one that ends before it begins, a class, an action; a new
record in a list of 24 FACILITY records. -/
theorem witness_place_refused :
    (∀ body ∈ [bs [0, 30, 0, 15, 1, 0, 0, 0, 1], bs [0, 31, 1, 0, 1, 0, 0, 0, 1], bs [0, 31, 0, 16, 1, 0, 0, 0, 1],
          bs [2, 31, 0, 15, 1, 0, 0, 0, 1], bs [0, 31, 0, 15, 0, 0, 0, 0, 1], bs [0, 31, 0, 15, 4, 0, 0, 0, 1]],
        body.length = 9 ∧ (after (.placeOverride body) floor).port.offered = ⟨.badField, 0x50, []⟩)
      ∧ (fullFloor .facility).overrides.records.length = 24
      ∧ (∀ o ∈ (fullFloor .facility).overrides.records, o.cls = .facility ∧ o.scope ≠ ⟨5, 0, 0⟩)
      ∧ (after (.placeOverride (bs [0, 5, 0, 0, 1, 0, 0, 0, 1])) (fullFloor .facility)).port.offered = ⟨.full, 0x50, []⟩ := by
  decide
/-- CancelOverrideRetiresOneRecord: handle 0, a handle that no record holds, one of a record. -/
theorem witness_cancel_refused : word2At (bs [0, 0]) 0 = 0 ∧ word2At (bs [255, 255]) 0 ≠ 0
    ∧ ∀ r ∈ floor.overrides.records, r.handle ≠ word2At (bs [255, 255]) 0 := by decide
theorem witness_cancel : TablesOk floor ∧ OverridesOk floor ∧ HeldOk floor
    ∧ ∃ r ∈ floor.overrides.records, r.handle = word2At (bs [0, 1]) 0 := by decide
/-- ReadsAnswerTheRecords (READ OVERRIDES), TalliesAreCapturedAndRead: the boundaries; no body. -/
theorem witness_indices : (bs []).length < 1 ∧ 23 < byteAt (bs [24]) 0 ∧ byteAt (bs [23]) 0 ≤ 23 ∧ 31 < byteAt (bs [32]) 0 ∧ byteAt (bs [31]) 0 ≤ 31 := by
  decide
/-- SetFloorCapRecomputesEveryCap: enabled at 50, every cap falls and segment 5 is clamped; enabled at 1000, none moves. -/
theorem witness_floor_cap : TablesOk floor ∧ HarvestOk floor ∧ byteAt (bs [0, 50, 1]) 2 ≤ 1
    ∧ (∀ e ∈ floor.segs, effectiveCap { floor.composer with floorCap := 50, floorCapOn := true } e.2.cfg.cap ≤ e.2.effCap)
    ∧ (∃ g ∈ seg? floor 5, g.cfg.mode = .harvest ∧ 50 < g.h)
    ∧ ∃ g ∈ seg? floor 5, g.cfg.outer = none ∧ g.h ≤ effectiveCap { floor.composer with floorCapOn := true } g.cfg.cap := by
  decide
/-- SetFloorCapRecomputesEveryCap: an enable of 2; a floor cap lifted from segment 6 behind segment 5, whose H stays. -/
theorem witness_floor_cap_raises :
    let s := withSeg 6 (fun g => { g with cfg := { g.cfg with cap := 1000 } }) floor
    1 < byteAt (bs [0, 50, 2]) 2 ∧ TablesOk s ∧ HarvestOk s
      ∧ (∃ u ∈ seg? s 5, u.cfg.mode = .harvest ∧ u.cfg.outer = none ∧ u.h ≤ 1000)
      ∧ ∃ g ∈ seg? s 6, g.cfg.mode = .harvest ∧ g.cfg.outer = some 5 ∧ g.effCap < 1000 := by decide
/-- ReadChangesReturnsAndClears, WarmResetKeepsConfiguration: 17 set flags; a segment of each mode. -/
theorem witness_changes : TablesOk floor
    ∧ (∃ g ∈ seg? floor 31, g.cfg.mode = .manual) ∧ (∃ g ∈ seg? floor 5, g.cfg.mode = .harvest ∧ g.cfg.outer = none)
    ∧ (setFlags { State.reset with lums := (List.range 17).map fun k => (k, { lum0 with changed := true }) }).length = 18
    ∧ TablesOk { State.reset with lums := (List.range 17).map fun k => (k, { lum0 with changed := true }) } := by decide
/-- TenthCountsAndSamples: a contact that changes, where every cap falls; one that stays; a slot to fill, with and without a mark. -/
theorem witness_tenth :
    (({ floor.composer with shedPinLow := true } : Composer).shedPinLow = true ∧ floor.composer.shedAsserted ≠ true)
      ∧ ¬(floor.composer.shedPinLow = true ∧ floor.composer.shedAsserted ≠ true)
      ∧ floor.lineA.state = .running ∧ floor.lineA.slot = none ∧ enrolledOn .a floor = [0, 1] ∧ enrolledOn .b floor = [127] := by
  decide
theorem witness_tenth_contact :
    let s := withSeg 5 (fun g => { g with h := 601 }) { floor with composer := { floor.composer with shedPinLow := true } }
    let c : Composer := { s.composer with shedAsserted := true }
    TablesOk s ∧ HarvestOk s ∧ (∀ e ∈ s.segs, effectiveCap c e.2.cfg.cap ≤ e.2.effCap)
      ∧ (∃ g ∈ seg? s 5, g.cfg.mode = .harvest ∧ effectiveCap c g.cfg.cap < g.h)
      ∧ ∃ g ∈ seg? s 31, g.cfg.outer = none ∧ g.h ≤ effectiveCap c g.cfg.cap := by decide
/-- TenthCountsAndSamples, the raise of R87: the contact is released above segment 6, which segment 5 outlights. -/
theorem witness_tenth_raises :
    let s := withSeg 6 (fun g => { g with cfg := { g.cfg with cap := 1000 } })
      { floor with composer := { floor.composer with shedAsserted := true, shedPinLow := false } }
    TablesOk s ∧ HarvestOk s ∧ (∃ u ∈ seg? s 5, u.cfg.mode = .harvest ∧ u.cfg.outer = none ∧ u.h ≤ 1000)
      ∧ (s.composer.shedPinLow = false ∧ s.composer.shedAsserted ≠ false)
      ∧ ∃ g ∈ seg? s 6, g.cfg.mode = .harvest ∧ g.cfg.outer = some 5 ∧ g.h ≤ g.effCap
          ∧ g.effCap < effectiveCap { s.composer with shedAsserted := false } g.cfg.cap := by decide
/-- MinuteEventCountsOnce: a tally half alone; a minute event due at both, and a record that expires at it. -/
theorem witness_minute : TablesOk floor ∧ RefsOk { floor with time := ⟨0, true, true⟩ }
    ∧ ({ floor with time := ⟨0, true, true⟩ } : State).time.holdsDue = true
    ∧ (seg? (after .minuteEvent { floor with time := ⟨0, true, false⟩ }) 5).map (·.tally) = some 600
    ∧ (after .minuteEvent { floor with time := ⟨0, true, false⟩ }).overrides = floor.overrides
    ∧ floor.overrides.records.any (fun o => o.handle == 1 && o.hold == some 1) = true := by decide
/-- StepEventStepsTowardTheBand: below band (E = 100 under 475), above it, in it; TRACKING and DWELL; a TRACKING inner segment. -/
theorem witness_step_event : TablesOk floor ∧ RefsOk floor
    ∧ (∃ g ∈ seg? floor 5, estimate floor g = some 100 ∧ timerDue g.stepTimer = true ∧ g.held = false ∧ g.ctl = .tracking
        ∧ 100 + g.cfg.tolerance < g.cfg.target)
    ∧ (∃ g ∈ seg? (withSeg 5 (fun g => { g with ctl := .dwell, h := 100, cfg := { g.cfg with target := 74 } }) floor) 5,
        g.ctl = .dwell ∧ g.h ≤ g.cfg.cutOff ∧ g.cfg.target + g.cfg.tolerance < 100)
    ∧ (∃ u ∈ seg? (withSeg 6 (fun g => { g with ctl := .tracking }) floor) 6, u.cfg.mode = .harvest ∧ u.cfg.outer = some 5
        ∧ u.ctl = .tracking) := by decide
/-- StepEventElsewhere: STRIKE; held; no active sensor; DAYLIT at the relight threshold and below it. -/
theorem witness_step_elsewhere :
    (∃ g ∈ seg? (withSeg 5 (fun g => { g with ctl := .strike }) floor) 5, g.ctl = .strike ∧ timerDue g.stepTimer = true)
      ∧ (∃ g ∈ seg? (withSeg 5 (fun g => { g with held := true }) floor) 5, g.ctl ≠ .strike ∧ g.held = true ∧ g.ctl ≠ .forced)
      ∧ (∃ g ∈ seg? floor 6, timerDue g.stepTimer = true ∧ g.held = false ∧ activeSensor floor g = none ∧ g.ctl = .dwell)
      ∧ (∀ target ∈ [175, 176],
          let s := withSeg 5 (fun g => { g with ctl := .daylit, h := 0, cfg := { g.cfg with target := target } }) floor
          TablesOk s ∧ RefsOk s ∧ ∃ g ∈ seg? s 5, g.ctl = .daylit ∧ g.held = false ∧ estimate s g = some 100
            ∧ (target = 175 ↔ max 1 (g.cfg.target - g.cfg.tolerance - g.cfg.relightMargin) ≤ 100)) := by decide
/-- OffDelayAndBlindExpiries: with a lit outer segment, and without; a blind expiry that strikes a DAYLIT inner segment. -/
theorem witness_expiries :
    (∃ g ∈ seg? floor 6, timerDue g.offTimer = true ∧ 0 < ((activeOuter floor g).map (·.h)).getD 0)
      ∧ (∃ g ∈ seg? (withSeg 5 (fun g => { g with ctl := .dwell, h := 0, offTimer := some 0 }) floor) 5, timerDue g.offTimer = true)
      ∧ (∃ g ∈ seg? (withSeg 5 (fun g => { g with blindTimer := some 0 }) floor) 5, timerDue g.blindTimer = true
          ∧ g.h < max g.h (min g.cfg.fallback g.effCap) ∧ g.cfg.mode = .harvest)
      ∧ ∃ u ∈ seg? (withSeg 6 (fun g => { g with ctl := .daylit, h := 0 }) floor) 6, u.ctl = .daylit ∧ u.h < min 800 u.effCap
          ∧ u.cfg.outer = some 5 ∧ u.cfg.mode = .harvest := by decide
/-- ShortfallQuarantineAndPollExpiries. -/
theorem witness_other_expiries :
    (∃ g ∈ seg? (withSeg 5 (fun g => { g with shortTimer := some 0 }) floor) 5, timerDue g.shortTimer = true)
      ∧ (∃ p ∈ photoOf floor 13, timerDue p.2.quarantineTimer = true)
      ∧ ∃ n ∈ input? (withInput 47 (fun n => { n with pollTimer := some 0 }) floor) 47, timerDue n.pollTimer = true := by decide
/-- OccupancyTimersDimTheSegment: a watched and an unwatched segment; a setback that expires. -/
theorem witness_occupancy : (∃ g ∈ seg? floor 5, timerDue g.holdTimer = true ∧ watched floor 5 = true)
    ∧ (∃ g ∈ seg? (withSeg 6 (fun g => { g with holdTimer := some 0 }) floor) 6, timerDue g.holdTimer = true ∧ watched floor 6 = false)
    ∧ ∃ g ∈ seg? (withSeg 5 (fun g => { g with activity := .setback, setbackTimer := some 0 }) floor) 5,
        timerDue g.setbackTimer = true := by decide
/-- SamplesFollowTheirRules: |S − F| at Q and above it, at J and above it; the third and the second reseed of a window. -/
theorem witness_samples :
    (unseeded.state = .unseeded ∧ ({ settled100 with state := .settling, settleCount := 3 } : Measurement).settleCount = 3)
      ∧ (150 - settled100.acc / 256) + (settled100.acc / 256 - 150) = 50 ∧ 50 < (151 - settled100.acc / 256) + (settled100.acc / 256 - 151)
      ∧ settled100.f0 = some 100 ∧ (∀ w ∈ (some ⟨3, 2⟩ : Option Window), 2 ≤ w.reseeds)
      ∧ (∀ w ∈ (some ⟨1, 1⟩ : Option Window), w.reseeds < 2) ∧ ({ settled100 with pendingJump := true } : Measurement).pendingJump = true := by
  decide
/-- PhotoRepliesAreSamples: a sample that gives a sky change to segment 5 alone, below band, in TRACKING, its step timer due and not
due; the same in DWELL, and in
DAYLIT below the relight threshold; with segment 6 on the same sensor; with segment 31 on it too, both without an active link. -/
theorem witness_photo_reply :
    let s := withInputLine (fun l => { l with flight := some (.due 12 .live) }) floor
    TablesOk s ∧ RefsOk s ∧ decodeInputReply 12 (sent [1, 12, 0, 200]) = some (.photo 200)
      ∧ (sample ⟨0, 50, 0, 1024⟩ settled100 200).2 = true ∧ (sample ⟨0, 50, 0, 1024⟩ settled100 150).2 = false
      ∧ (∃ g ∈ seg? s 5, g.cfg.mode = .harvest ∧ g.held = false ∧ g.ctl = .tracking ∧ activeSensor s g = some 12
          ∧ min (200 * 1024 / 1024) 65535 + g.cfg.tolerance < g.cfg.target ∧ timerDue g.stepTimer = true)
      ∧ (∃ g ∈ seg? (withSeg 5 (fun g => { g with stepTimer := some 7 }) s) 5, timerDue g.stepTimer = false)
      ∧ ∀ e ∈ s.segs, e.1 ≠ 5 → e.2.cfg.primary ≠ some 12 ∧ e.2.cfg.secondary ≠ some 12 := by decide
theorem witness_photo_reply_states : ∀ ctl ∈ [Ctl.dwell, .daylit],
    TablesOk (onSensor12 ctl) ∧ RefsOk (onSensor12 ctl) ∧ HarvestOk (onSensor12 ctl) := by decide
theorem witness_photo_reply_segments : ∀ ctl ∈ [Ctl.dwell, .daylit],
    (∃ g ∈ seg? (onSensor12 ctl) 5, g.ctl = ctl ∧ g.held = false ∧ 200 + g.cfg.tolerance < g.cfg.target
        ∧ 200 < max 1 (g.cfg.target - g.cfg.tolerance - g.cfg.relightMargin))
      ∧ ∀ i ∈ [5, 6, 31], ∃ g ∈ seg? (onSensor12 ctl) i, activeSensor (onSensor12 ctl) g = some 12
          ∧ ((activeOuter (onSensor12 ctl) g).isSome = true ↔ i = 6) := by decide
/-- PresenceRepliesGiveMotion: MOTION and QUIET. -/
theorem witness_presence_reply :
    let s := withInputLine (fun l => { l with flight := some (.due 30 .live) }) floor
    TablesOk s ∧ HeldOk s ∧ decodeInputReply 30 (sent [2, 30, 1, 0]) = some (.presence true)
      ∧ decodeInputReply 30 (sent [2, 30, 0, 0]) = some (.presence false) ∧ (input? s 30).isSome = true := by decide
/-- StationPressesActOnTheirRecord: no press (the recorded sequence, a code of 6), a press without an own record, a press on the
own record of a full list, a press that displaces the last record of a full list, a press refused by 24 FACILITY records. -/
theorem witness_station_press :
    let f := fun s : State => withInputLine (fun l => { l with flight := some (.due 47 .live) }) s
    (TablesOk (f floor) ∧ OverridesOk (f floor)) ∧ (TablesOk (f (fullFloor .occupant)) ∧ OverridesOk (f (fullFloor .occupant)))
      ∧ decodeInputReply 47 (sent [3, 47, 1, 1]) = some (.station 1 1) ∧ buttonOfCode 6 = none
      ∧ decodeInputReply 47 (sent [3, 47, 15, 5]) = some (.station 15 5) ∧ buttonOfCode 5 = some .resume
      ∧ findRecord (.station 47) ⟨31, 0, 7⟩ floor.overrides.records = none
      ∧ (findRecord (.station 47) ⟨31, 0, 7⟩ (fullList .occupant).records).isSome = true
      ∧ pressAction seg0 .raise none = some (.nudge 100) ∧ (seg? floor 31).isSome = true := by decide
theorem witness_station_displaces : (TablesOk displaceable ∧ OverridesOk displaceable)
    ∧ (TimersOk displaceable ∧ HeldOk displaceable)
    ∧ findRecord (.station 47) ⟨31, 0, 7⟩ displaceable.overrides.records = none
    ∧ displaceable.overrides.records.length = 24
    ∧ (displaceable.overrides.records.reverse.find? fun o => o.cls == .occupant).isSome = true := by decide
theorem witness_station_refused :
    let l : OverrideList :=
      { fullList .facility with
        records := (fullList .facility).records.map fun o => if o.handle = 65535 then { o with origin := .floor } else o }
    OverridesOk { floor with overrides := l } ∧ findRecord (.station 47) ⟨31, 0, 7⟩ l.records = none ∧ l.records.length = 24
      ∧ (l.records.all fun o => o.cls == .facility) = true := by decide
/-- LostLinksAreHandedOn: a retired poll and a discarded one, with a valid reply; a wrong kind; the last miss before the limit and the one that reaches it. -/
theorem witness_lost_links :
    (∃ v ∈ decodeInputReply 12 (sent [2, 12, 1, 0]), v.kind ≠ InputKind.photo)
      ∧ (∀ mark ∈ [PollMark.retired, .discard],
          (withInputLine (fun l => { l with flight := some (.due 9 mark) }) floor).inputLine.flight = some (.due 9 mark))
      ∧ (decodeInputReply 9 (sent [2, 9, 1, 0])).isSome = true
      ∧ (∃ n ∈ input? (withInput 12 (fun n => { n with missCount := 1 }) floor) 12, n.missCount + 1 < n.missLimit)
      ∧ ∃ n ∈ input? (withInput 12 (fun n => { n with missCount := 2 }) floor) 12, n.link ≠ .absent ∧ n.missLimit ≤ n.missCount + 1 := by
  decide
/-- LostLinksAreHandedOn, InputLineGoesDownAndRecovers, the segments: segment 5 dimmed, which presence sensor 30 alone covers, and the
sensor's last miss, or its line going DOWN. -/
theorem witness_lost_segments :
    let s := withSeg 5 (fun g => { g with activity := .setback, held := true, holdTimer := none, setbackTimer := some 6000 })
      (withInput 30 (fun n => { n with missCount := 2 })
        (withInputLine (fun l => { l with flight := some (.due 30 .live), rxHigh := false }) floor))
    HeldOk s ∧ (∃ n ∈ input? s 30, n.link = .reporting ∧ coverageOf n.device = [5] ∧ n.missLimit ≤ n.missCount + 1)
      ∧ watched (after .pollNoReply s) 5 = false
      ∧ (seg? (after .pollNoReply s) 5).map (fun g => (g.activity, g.changed, g.held)) = some (.occupied, true, false)
      ∧ (seg? (after .inputLineDown s) 5).map (fun g => (g.activity, g.changed, g.held)) = some (.occupied, true, false) := by
  decide
/-- InputLineGoesDownAndRecovers, FixtureLinesGoDownAndRecover. -/
theorem witness_lines_down :
    let s := withLineA (fun l => { l with rxHigh := false }) (withInputLine (fun l => { l with rxHigh := false }) floor)
    s.inputLine.state = .running ∧ s.inputLine.rxHigh = false ∧ TablesOk s ∧ LinesOk s ∧ s.lineA.state = .running
      ∧ s.lineA.rxHigh = false := by decide
theorem witness_lines_recover :
    let s := withLineA (fun l => { l with state := .down }) (withInputLine (fun l => { l with state := .down }) floor)
    s.inputLine.state = .down ∧ s.inputLine.rxHigh = true ∧ TablesOk s ∧ LinesOk s ∧ s.lineA.state = .down
      ∧ s.lineA.rxHigh = true := by decide
/-- FramesEndAtTheirLuminaire: a LEVEL frame and a QUERY, of a retired and of an enrolled luminaire. -/
theorem witness_frames_end : ∀ kind ∈ [FrameKind.level 254, .confirmQuery, .scanQuery], ∀ retired ∈ [true, false],
    let s := withLineA (fun l => { l with flight := some ⟨kind, 0, retired⟩ }) floor
    ∃ f ∈ s.lineA.flight, f.retired = retired ∧ (f.levelCode.isSome = true ↔ kind = .level 254) ∧ (lum? s f.key).isSome = true := by
  decide
/-- DriverRepliesSettleConfirmation: a QUERY of a retired luminaire (witness_frames_end); AWAITING at each mismatch count and CONFIRMED, the echo equal and not. -/
theorem witness_driver_reply : ∀ count ∈ [0, 1, 2], ∀ conf ∈ [Confirmation.awaiting, .confirmed],
    let s := withLum 0 (fun l => { l with confirmation := conf, mismatchCount := count })
      (withLineA (fun l => { l with flight := some ⟨.confirmQuery, 0, false⟩ }) floor)
    (∃ f ∈ s.lineA.flight, f.retired = false ∧ f.levelCode = none ∧ keyLine f.key = .a)
      ∧ (∃ l ∈ lum? s 0, l.sentCode = some 153 ∧ l.place ≠ none ∧ l.unconfirmed = false)
      ∧ decodeDriverReply (keyAddress 0) (sent [192, 3, 153]) = some ⟨true, true, 153⟩
      ∧ decodeDriverReply (keyAddress 0) (sent [192, 0, 255]) = some ⟨false, false, 255⟩ := by decide

end Sys2Proof.Tests
end

section
/-! SUPPORT. REINSTATE INPUT (R39) and CALIBRATE (R43, R44): each check and each effect of the two requests as an equation of
its own, and how a request ends that is refused or that changes one input record. -/

namespace Sys2Proof.Machine

/-! ## How a request ends -/

/-- R166: a request that is denied answers its status with an empty body, and nothing changes but the port. -/
theorem refused_of_deny {c : Instr} {st : Status} {code : Nat} {s : State} (h : exec c s = deny st code s) :
    ∃ t, exec c s = .next t ∧ PortAnswers s t st code [] ∧ t = { s with port := t.port } :=
  ⟨_, h.trans (deny_eq st code s), rfl, rfl⟩

/-- A request that puts one input record and answers changes that record and the port alone. -/
theorem taken_of_putInput {c : Instr} {st : Status} {code a : Nat} {bytes : List Byte} {n : Input} {s : State}
    (h : exec c s = done (answer st code bytes (putInput a n s))) :
    ∃ t, exec c s = .next t ∧ input? t a = some n ∧ OtherInputsSame s t a ∧ PortAnswers s t st code bytes
      ∧ t = { s with inputs := t.inputs, port := t.port } :=
  ⟨_, h.trans (done_eq _), input?_putInput_self a n s, fun _ hj => input?_putInput_ne n s hj, rfl, rfl⟩

/-! ## REINSTATE INPUT (R39) -/

section Reinstate

variable {s : State} {body : List Byte}

theorem exec_reinstateInput (body : List Byte) (s : State) :
    exec (.reinstateInput body) s = execReinstateInput body s := rfl

/-- R177, R3: a body too short, or an address beyond 47. -/
theorem reinstateInput_badBody (h : body.length < 1 ∨ 47 < byteAt body 0) :
    exec (.reinstateInput body) s = deny .badField 0x34 s := by
  rw [exec_reinstateInput, execReinstateInput]
  rcases h with hlen | haddr
  · rw [if_pos hlen]
  · simp [haddr]

theorem reinstateInput_noRecord (hlen : 1 ≤ body.length) (haddr : byteAt body 0 ≤ 47)
    (hn : input? s (byteAt body 0) = none) : exec (.reinstateInput body) s = deny .noRecord 0x34 s := by
  simp [exec_reinstateInput, execReinstateInput, Nat.not_lt.mpr hlen, Nat.not_lt.mpr haddr, hn]

theorem reinstateInput_otherKind {n : Input} (hlen : 1 ≤ body.length) (haddr : byteAt body 0 ≤ 47)
    (hn : input? s (byteAt body 0) = some n) (hkind : deviceKind n.device ≠ .photo) :
    exec (.reinstateInput body) s = deny .badField 0x34 s := by
  simp only [exec_reinstateInput, execReinstateInput, Nat.not_lt.mpr hlen, Nat.not_lt.mpr haddr, hn, if_false]
  cases hd : n.device with
  | photo c m => rw [hd] at hkind; exact absurd rfl hkind
  | presence coverage last => rfl
  | station scope hold lastButton sequence => rfl

theorem reinstateInput_notQuarantined {n : Input} {c : PhotoConfig} {m : Measurement} (hlen : 1 ≤ body.length)
    (haddr : byteAt body 0 ≤ 47) (hn : input? s (byteAt body 0) = some n) (hd : n.device = .photo c m)
    (hm : m.state ≠ .quarantined) : exec (.reinstateInput body) s = deny .notNow 0x34 s := by
  simp [exec_reinstateInput, execReinstateInput, Nat.not_lt.mpr hlen, Nat.not_lt.mpr haddr, hn, hd, hm]

/-- R39, R26: a QUARANTINED record enters UNSEEDED. -/
theorem reinstateInput_quarantined {n : Input} {c : PhotoConfig} {m : Measurement} (hlen : 1 ≤ body.length)
    (haddr : byteAt body 0 ≤ 47) (hn : input? s (byteAt body 0) = some n) (hd : n.device = .photo c m)
    (hm : m.state = .quarantined) :
    exec (.reinstateInput body) s =
      done (answer .ok 0x34 (inputRecord (byteAt body 0) { n with device := .photo c unseeded })
        (putInput (byteAt body 0) { n with device := .photo c unseeded } s)) := by
  simp [exec_reinstateInput, execReinstateInput, Nat.not_lt.mpr hlen, Nat.not_lt.mpr haddr, hn, hd, hm]

end Reinstate

/-- Settles O35, by the equation of REINSTATE INPUT at each row of R39's table. -/
theorem reinstateReleasesQuarantine : Obligations.ReinstateReleasesQuarantine := by
  intro s body a refuses
  refine ⟨fun h => refused_of_deny (reinstateInput_badBody h),
    fun hlen haddr hn => refused_of_deny (reinstateInput_noRecord hlen haddr hn), fun hlen haddr n hn => ⟨?_, ?_⟩⟩
  · exact fun hkind => refused_of_deny (reinstateInput_otherKind hlen haddr hn hkind)
  · intro c m hd
    exact ⟨fun hm => refused_of_deny (reinstateInput_notQuarantined hlen haddr hn hd hm),
      fun hm => taken_of_putInput (reinstateInput_quarantined hlen haddr hn hd hm)⟩

/-! ## CALIBRATE (R43, R44) -/

section Calibrate

variable {s : State} {body : List Byte}

theorem exec_calibrate (body : List Byte) (s : State) : exec (.calibrate body) s = execCalibrate body s := rfl

/-- R44: the ratio, its product written from the left, and limited to 1 to 4095. -/
theorem calibrated_fst (m f : Nat) : (calibrated m f).1 = max 1 (min ((2 * m * 1024 + f) / (2 * f)) 4095) := by
  rw [Nat.mul_assoc]; rfl

/-- R44: the ratio is reported as limited exactly when it is not the quotient. -/
theorem calibrated_snd (m f : Nat) : (calibrated m f).2 = ((calibrated m f).1 != (2 * m * 1024 + f) / (2 * f)) := by
  rw [Nat.mul_assoc]; rfl

/-- R3: CALIBRATE answers OK exactly when neither M nor K was limited. -/
theorem calibrate_status (w f : Nat) :
    okOr (decide (2000 < w) || (calibrated (min w 2000) f).2) =
      if min w 2000 = w ∧ (calibrated (min w 2000) f).1 = (2 * min w 2000 * 1024 + f) / (2 * f) then .ok
      else .clamped := by
  rw [calibrated_snd]
  by_cases hw : 2000 < w
  · have hne : min w 2000 ≠ w := by omega
    simp [okOr, hw, hne]
  · have heq : min w 2000 = w := by omega
    by_cases hk : (calibrated w f).1 = (2 * w * 1024 + f) / (2 * f) <;> simp [okOr, hw, heq, hk]

/-- R177, R3: a body too short, or a segment id beyond 31. -/
theorem calibrate_badBody (h : body.length < 3 ∨ 31 < byteAt body 0) :
    exec (.calibrate body) s = deny .badField 0x40 s := by
  rw [exec_calibrate, execCalibrate]
  rcases h with hlen | hid
  · rw [if_pos hlen]
  · simp [hid]

theorem calibrate_noRecord (hlen : 3 ≤ body.length) (hid : byteAt body 0 ≤ 31) (hg : seg? s (byteAt body 0) = none) :
    exec (.calibrate body) s = deny .noRecord 0x40 s := by
  simp [exec_calibrate, execCalibrate, Nat.not_lt.mpr hlen, Nat.not_lt.mpr hid, hg]

/-- R43: no sensor of the segment is active. -/
theorem calibrate_noSensor {g : Segment} (hlen : 3 ≤ body.length) (hid : byteAt body 0 ≤ 31)
    (hg : seg? s (byteAt body 0) = some g) (ha : activeSensor s g = none) :
    exec (.calibrate body) s = deny .notNow 0x40 s := by
  simp [exec_calibrate, execCalibrate, Nat.not_lt.mpr hlen, Nat.not_lt.mpr hid, hg, ha]

/-- R43: the active sensor reads F = 0. -/
theorem calibrate_dark {g : Segment} {a : Nat} {n : Input} {c : PhotoConfig} {meas : Measurement}
    (hlen : 3 ≤ body.length) (hid : byteAt body 0 ≤ 31) (hg : seg? s (byteAt body 0) = some g)
    (ha : activeSensor s g = some a) (hn : input? s a = some n) (hd : n.device = .photo c meas)
    (hf : filtered meas = 0) : exec (.calibrate body) s = deny .notNow 0x40 s := by
  simp [exec_calibrate, execCalibrate, Nat.not_lt.mpr hlen, Nat.not_lt.mpr hid, hg, ha, hn, hd, hf]

/-- R44: the ratio of the active sensor is set. -/
theorem calibrate_lit {g : Segment} {a : Nat} {n : Input} {c : PhotoConfig} {meas : Measurement}
    (hlen : 3 ≤ body.length) (hid : byteAt body 0 ≤ 31) (hg : seg? s (byteAt body 0) = some g)
    (ha : activeSensor s g = some a) (hn : input? s a = some n) (hd : n.device = .photo c meas)
    (hf : filtered meas ≠ 0) :
    let k := calibrated (min (word2At body 1) 2000) (filtered meas)
    exec (.calibrate body) s =
      done (answer (okOr (decide (2000 < word2At body 1) || k.2)) 0x40
        ([byte (byteAt body 0), byte a] ++ bytes2 (filtered meas) ++ bytes2 k.1)
        (putInput a { n with device := .photo { c with ratio := k.1 } meas } s)) := by
  simp [exec_calibrate, execCalibrate, Nat.not_lt.mpr hlen, Nat.not_lt.mpr hid, hg, ha, hn, hd, hf]

end Calibrate

/-- Settles O36, by the equation of CALIBRATE at each check of R43 and at R44. -/
theorem calibrateSetsTheRatio : Obligations.CalibrateSetsTheRatio := by
  intro s body i m refuses
  refine ⟨fun h => refused_of_deny (calibrate_badBody h),
    fun hlen hid hg => refused_of_deny (calibrate_noRecord hlen hid hg), fun hlen hid g hg => ⟨?_, ?_⟩⟩
  · exact fun ha => refused_of_deny (calibrate_noSensor hlen hid hg ha)
  · intro a ha n hn c meas hd f
    refine ⟨fun hf => refused_of_deny (calibrate_dark hlen hid hg ha hn hd hf), fun hf => ?_⟩
    have hlit := calibrate_lit hlen hid hg ha hn hd hf
    dsimp only at hlit
    rw [calibrate_status, calibrated_fst] at hlit
    exact taken_of_putInput hlit

end Sys2Proof.Machine
end

section
/-! SUPPORT. A sample at a measurement record (R27 to R37): the feed stays between what it was and the sample, and each
state's answer to a near and to a far sample is an equation of its own. -/

namespace Sys2Proof.Machine

/-! ## Feeding (R29) -/

/-- Truncated toward zero, a quotient lies between zero and its dividend. -/
theorem tdiv_between (d : Int) {k : Int} (hk : 0 ≤ k) : min d 0 ≤ d.tdiv k ∧ d.tdiv k ≤ max d 0 := by
  rcases le_total 0 d with hd | hd
  · have hlow := Int.tdiv_nonneg hd hk
    have hhigh := Int.tdiv_le_self k hd
    omega
  · have hneg : 0 ≤ -d := by omega
    have hlow := Int.tdiv_nonneg hneg hk
    have hhigh := Int.tdiv_le_self k hneg
    rw [Int.neg_tdiv] at hlow hhigh
    omega

/-- R29: a feed leaves A between what it was and S × 256. -/
theorem feedAcc_between (shift acc x : Nat) :
    min acc (x * 256) ≤ feedAcc shift acc x ∧ feedAcc shift acc x ≤ max acc (x * 256) := by
  have hstep := tdiv_between ((x * 256 : Nat) - (acc : Int)) (k := 2 ^ shift) (by positivity)
  rw [feedAcc]
  omega

/-- R29: with N = 0 a feed seeds. -/
theorem feedAcc_zero (acc x : Nat) : feedAcc 0 acc x = seedAcc x := by
  rw [feedAcc, seedAcc, pow_zero, Int.tdiv_one]
  omega

/-! ## The window and the sky change (R35, R40) -/

theorem countSample_eq_bind (w : Option Window) :
    countSample w = w.bind fun v => if v.remaining ≤ 1 then none else some ⟨v.remaining - 1, v.reseeds⟩ := by
  cases w <;> rfl

/-- R40: F0 moves to F, and the sky changes, exactly when they differ by more than Q. -/
theorem skyCompare_of_f0 (c : PhotoConfig) {m : Measurement} {f0 : Nat} (hf0 : m.f0 = some f0) :
    skyCompare c m =
      ({ m with f0 := if decide (c.tolerance < dist (filtered m) f0) then some (filtered m) else some f0 },
        decide (c.tolerance < dist (filtered m) f0)) := by
  obtain ⟨state, acc, f0', settleCount, pendingJump, window, timer⟩ := m
  cases hf0
  by_cases hq : c.tolerance < dist (filtered ⟨state, acc, some f0, settleCount, pendingJump, window, timer⟩) f0 <;>
    simp [skyCompare, hq]

/-! ## Samples, state by state (R30 to R37) -/

section Samples

variable {c : PhotoConfig} {m : Measurement} {x : Nat}

/-- R30: the first sample seeds. -/
theorem sample_unseeded (hs : m.state = .unseeded) :
    sample c m x = ({ m with acc := seedAcc x, settleCount := 0, state := .settling }, false) := by
  rw [sample, hs]

theorem sample_settling (hs : m.state = .settling) : sample c m x = (settleSample c m x, false) := by
  rw [sample, hs]

theorem sample_settled (hs : m.state = .settled) : sample c m x = settledSample c m x := by
  rw [sample, hs]

/-- R37: a QUARANTINED record takes no sample. -/
theorem sample_quarantined (hs : m.state = .quarantined) : sample c m x = (m, false) := by
  rw [sample, hs]

/-- R31: a sample further than Q seeds again. -/
theorem settleSample_far (hfar : c.tolerance < dist x (filtered m)) :
    settleSample c m x = { m with acc := seedAcc x, settleCount := 0 } := by
  rw [settleSample, if_neg (Nat.not_le.mpr hfar)]

/-- R31: the fourth sample in a row within Q settles the record. -/
theorem settleSample_last (hnear : dist x (filtered m) ≤ c.tolerance) (hcount : m.settleCount = 3) :
    settleSample c m x =
      { m with
        acc := feedAcc c.shift m.acc x, state := .settled, f0 := some (feedAcc c.shift m.acc x / 256), settleCount := 0 } := by
  rw [settleSample, if_pos hnear]
  exact if_pos hcount

theorem settleSample_near (hnear : dist x (filtered m) ≤ c.tolerance) (hcount : m.settleCount ≠ 3) :
    settleSample c m x = { m with acc := feedAcc c.shift m.acc x, settleCount := m.settleCount + 1 } := by
  rw [settleSample, if_pos hnear]
  exact if_neg hcount

/-- R32: a sample within J, or any sample with J = 0, is fed. -/
theorem settledSample_near (hnear : c.spike = 0 ∨ dist x (filtered m) ≤ c.spike) :
    settledSample c m x =
      skyCompare c { m with acc := feedAcc c.shift m.acc x, pendingJump := false, window := countSample m.window } := by
  rw [settledSample, if_pos hnear]

theorem not_near_of_far (hspike : c.spike ≠ 0) (hfar : c.spike < dist x (filtered m)) :
    ¬(c.spike = 0 ∨ dist x (filtered m) ≤ c.spike) := by omega

/-- R33: the first sample beyond J is rejected. -/
theorem settledSample_spike (hspike : c.spike ≠ 0) (hfar : c.spike < dist x (filtered m)) (hjump : m.pendingJump = false) :
    settledSample c m x = ({ m with pendingJump := true, window := countSample m.window }, false) := by
  simp [settledSample, not_near_of_far hspike hfar, hjump]

/-- R34: the second sample in a row beyond J is a reseed. -/
theorem settledSample_reseed (hspike : c.spike ≠ 0) (hfar : c.spike < dist x (filtered m)) (hjump : m.pendingJump = true) :
    settledSample c m x = reseed c m x := by
  simp [settledSample, not_near_of_far hspike hfar, hjump]

/-- R36: the third reseed of a window quarantines the record. -/
theorem reseed_third {w : Window} (hw : m.window = some w) (hthird : 2 ≤ w.reseeds) :
    reseed c m x =
      ({ m with
          acc := seedAcc x, pendingJump := false, state := .quarantined, window := none,
          quarantineTimer := startTimer Config.quarantinePeriod }, false) := by
  simp [reseed, hw, hthird]

/-- R35: a reseed opens a window, or is counted in the open one. -/
theorem reseed_counted (hfew : ∀ w ∈ m.window, w.reseeds < 2) :
    reseed c m x =
      skyCompare c
        { m with
          acc := seedAcc x, pendingJump := false
          window := if m.window = none then some ⟨16, 1⟩
            else countSample (m.window.map fun w => { w with reseeds := w.reseeds + 1 }) } := by
  cases hw : m.window with
  | none => simp [reseed, hw]
  | some w => simp [reseed, hw, Nat.not_le.mpr (hfew w hw)]

end Samples

/-- Settles O52, by the equation of a sample at each state, near and far. -/
theorem samplesFollowTheirRules : Obligations.SamplesFollowTheirRules := by
  intro c m x f far fed counted moved
  have hcounted : ∀ w, countSample w = counted w := countSample_eq_bind
  obtain ⟨hlow, hhigh⟩ := feedAcc_between c.shift m.acc x
  refine ⟨⟨hlow, hhigh, ?_, rfl⟩, sample_unseeded, ?_, ?_, ?_, ?_, ?_, ?_, sample_quarantined⟩
  · intro hshift
    exact (congrArg (feedAcc · m.acc x) hshift).trans (feedAcc_zero m.acc x)
  · intro hs hfar
    exact (sample_settling hs).trans (congrArg (·, false) (settleSample_far hfar))
  · intro hs hnear hcount
    rw [sample_settling hs, settleSample_last hnear hcount]
  · intro hs hnear hcount
    rw [sample_settling hs, settleSample_near hnear hcount]
  · intro hs hnear f0 hf0
    rw [sample_settled hs, settledSample_near hnear, hcounted]
    exact skyCompare_of_f0 c hf0
  · intro hs hspike hfar hjump
    rw [sample_settled hs, settledSample_spike hspike hfar hjump, hcounted]
  · intro hs hspike hfar hjump
    rw [sample_settled hs, settledSample_reseed hspike hfar hjump]
    refine ⟨fun w hw hthird => reseed_third hw hthird, fun f0 hf0 hfew => ?_⟩
    rw [reseed_counted hfew, hcounted]
    exact skyCompare_of_f0 c hf0

end Sys2Proof.Machine
end

section
/-! SUPPORT. How far a depth raise reaches (R82): an outer link leads one row nearer the window (R13), so that a raise leaves
alone every other segment of its own row or of a row further out, and the raise of the inner segments of a segment takes each of
them as the table of R81 says. -/

namespace Sys2Proof.Machine

/-! ## Rows and outer links (R13) -/

/-- Every outer link leads one row nearer the window, `row` giving the row of each segment id. -/
def LinksFollowRows (row : Nat → Nat) (s : State) : Prop := ∀ e ∈ s.segs, ∀ o ∈ e.2.cfg.outer, row e.1 = row o + 1

/-- The row of the segment at an id; 0 where no segment is defined. -/
def rowOf (s : State) (i : Nat) : Nat := ((seg? s i).map (·.cfg.row)).getD 0

/-- R13: an outer link that fits names a segment one row nearer the window. -/
theorem outerFits_row {s : State} {i o : Nat} {c : SegConfig} (h : outerFits s i c = true) (ho : c.outer = some o) :
    c.row = rowOf s o + 1 := by
  cases hu : seg? s o with
  | none => simp [outerFits, ho, hu] at h
  | some u =>
    simp only [outerFits, ho, hu, Bool.and_eq_true, beq_iff_eq] at h
    simp [rowOf, hu, h.2]

/-- R13: in a floor model whose references are valid, the rows of the records follow the links. -/
theorem linksFollowRows_rowOf {s : State} (ht : TablesOk s) (hr : RefsOk s) : LinksFollowRows (rowOf s) s := by
  intro e he o ho
  obtain ⟨_, _, hsegs, _⟩ := hr
  obtain ⟨_, _, hfits⟩ := hsegs e he
  simp only [refsFit, Bool.and_eq_true] at hfits
  obtain ⟨⟨⟨houter, _⟩, _⟩, _⟩ := hfits
  have hrow : rowOf s e.1 = e.2.cfg.row := by simp [rowOf, seg?, tabGet_of_mem ht.2.1.1 he]
  exact hrow.trans (outerFits_row houter ho)

section Rows

variable {row : Nat → Nat} {s : State} {i j n : Nat} {g new : Segment}

theorem putSeg_keeps_links (h : LinksFollowRows row s) (hg : seg? s i = some g) (hcfg : new.cfg = g.cfg) :
    LinksFollowRows row (putSeg i new s) := by
  refine tabPut_forall (t := s.segs) h fun o ho => ?_
  exact h _ (mem_of_tabGet hg) o (by rwa [hcfg] at ho)

theorem mem_innerOf : j ∈ innerOf s i ↔ ∃ e ∈ s.segs, e.2.cfg.outer = some i ∧ e.1 = j := by
  simp [innerOf, and_assoc]

theorem row_of_mem_innerOf (h : LinksFollowRows row s) (hj : j ∈ innerOf s i) : row j = row i + 1 := by
  obtain ⟨e, he, ho, rfl⟩ := mem_innerOf.mp hj
  exact h e he i ho

theorem innerOf_nodup (h : s.segs.Pairwise fun a b => a.1 < b.1) : (innerOf s i).Nodup :=
  List.pairwise_map.mpr ((h.filter _).imp Nat.ne_of_lt)

/-! ## One depth raise -/

theorem raised_cfg (h : raised s g = some new) : new.cfg = g.cfg := by
  have htable := raised_getD s g
  rw [h, Option.getD_some] at htable
  rw [htable, afterRaise_cfg]

theorem depthRaise_noSegment (hg : seg? s i = none) : depthRaise n i s = s := by cases n <;> simp [depthRaise, hg]

theorem depthRaise_unraised (hg : seg? s i = some g) (hr : raised s g = none) : depthRaise n i s = s := by
  cases n <;> simp [depthRaise, hg, hr]

theorem depthRaise_raised (hg : seg? s i = some g) (hr : raised s g = some new) :
    depthRaise (n + 1) i s = forEach (innerOf s i) (depthRaise n) (putSeg i new s) := by
  simp only [depthRaise, hg, hr]

/-- What a depth raise can do: nothing, or a record put in place of one with the same configuration and a raise of each inner
segment. -/
theorem depthRaise_cases (n i : Nat) (s : State) :
    depthRaise (n + 1) i s = s ∨ ∃ g new, seg? s i = some g ∧ new.cfg = g.cfg ∧
      depthRaise (n + 1) i s = forEach (innerOf s i) (depthRaise n) (putSeg i new s) := by
  cases hg : seg? s i with
  | none => exact .inl (depthRaise_noSegment hg)
  | some g =>
    cases hr : raised s g with
    | none => exact .inl (depthRaise_unraised hg hr)
    | some new => exact .inr ⟨g, new, rfl, raised_cfg hr, depthRaise_raised hg hr⟩

theorem depthRaise_keeps_links (n : Nat) :
    ∀ {i : Nat} {s : State}, LinksFollowRows row s → LinksFollowRows row (depthRaise n i s) := by
  induction n with
  | zero => exact id
  | succ n ih =>
    intro i s h
    rcases depthRaise_cases n i s with he | ⟨g, new, hg, hcfg, he⟩
    · rwa [he]
    · rw [he]
      exact forEach_keeps (fun k _ t ht => ih ht) (putSeg_keeps_links h hg hcfg)

/-- R82: a depth raise leaves every other segment of its own row or of a row further out. -/
theorem seg?_depthRaise_outward (n : Nat) : ∀ {i : Nat} {s : State}, LinksFollowRows row s → j ≠ i → row j ≤ row i →
    seg? (depthRaise n i s) j = seg? s j := by
  induction n with
  | zero => exact fun _ _ _ => rfl
  | succ n ih =>
    intro i s h hne hrow
    rcases depthRaise_cases n i s with he | ⟨g, new, hg, hcfg, he⟩
    · rw [he]
    · rw [he]
      refine (forEach_keeps (P := fun t => LinksFollowRows row t ∧ seg? t j = seg? s j) (fun k hk t ht => ?_)
        ⟨putSeg_keeps_links h hg hcfg, seg?_putSeg_ne new s hne⟩).2
      have hin : row k = row i + 1 := row_of_mem_innerOf h hk
      have hjk : j ≠ k := by rintro rfl; omega
      exact ⟨depthRaise_keeps_links n ht.1, (ih ht.1 hjk (by omega)).trans ht.2⟩

/-- R82: depth raises of other segments, none of a row further out, leave a segment. -/
theorem seg?_forEach_depthRaise {ks : List Nat} (hks : ∀ k ∈ ks, j ≠ k ∧ row j ≤ row k) (h : LinksFollowRows row s) :
    seg? (forEach ks (depthRaise n) s) j = seg? s j := by
  refine (forEach_keeps (P := fun t => LinksFollowRows row t ∧ seg? t j = seg? s j) (fun k hk t ht => ?_) ⟨h, rfl⟩).2
  obtain ⟨hjk, hrow⟩ := hks k hk
  exact ⟨depthRaise_keeps_links n ht.1, (seg?_depthRaise_outward n ht.1 hjk hrow).trans ht.2⟩

/-- R81: the record that its depth raise leaves of a segment. -/
theorem seg?_depthRaise_self (h : LinksFollowRows row s) (hg : seg? s i = some g) :
    seg? (depthRaise (n + 1) i s) i = some (afterRaise (linkedH s g) g) := by
  have htable := raised_getD s g
  cases hr : raised s g with
  | none => rw [depthRaise_unraised hg hr, hg, ← htable, hr, Option.getD_none]
  | some new =>
    rw [depthRaise_raised hg hr, ← htable, hr, Option.getD_some, ← seg?_putSeg_self i new s]
    refine seg?_forEach_depthRaise (fun k hk => ?_) (putSeg_keeps_links h hg (raised_cfg hr))
    have hin : row k = row i + 1 := row_of_mem_innerOf h hk
    exact ⟨by rintro rfl; omega, by omega⟩

/-! ## The raise of the inner segments (R82) -/

/-- The H of the outer segment reads the record of that segment alone. -/
theorem linkedH_congr {t : State} (ho : g.cfg.outer = some i) (h : seg? t i = seg? s i) : linkedH t g = linkedH s g := by
  simp [linkedH, ho, h]

theorem linkedH_active {u : Segment} (hm : g.cfg.mode = .harvest) (ho : g.cfg.outer = some i) (hu : seg? s i = some u)
    (hum : u.cfg.mode = .harvest) : linkedH s g = u.h := by
  simp [linkedH, hm, ho, hu, hum, Option.filter]

/-- R82: a raise of the inner segments leaves their outer segment, and every segment as far out as it. -/
theorem seg?_raiseInner_outward (h : LinksFollowRows row s) (hrow : row j ≤ row i) :
    seg? (raiseInner i s) j = seg? s j := by
  refine seg?_forEach_depthRaise (fun k hk => ?_) h
  have hin : row k = row i + 1 := row_of_mem_innerOf h hk
  exact ⟨by rintro rfl; omega, by omega⟩

/-- R81, R82: a raise of the inner segments of a segment leaves of each of them what the table of R81 gives. -/
theorem seg?_raiseInner_inner (hs : s.segs.Pairwise fun a b => a.1 < b.1) (h : LinksFollowRows row s)
    (hj : seg? s j = some g) (ho : g.cfg.outer = some i) :
    seg? (raiseInner i s) j = some (afterRaise (linkedH s g) g) := by
  have hmem : j ∈ innerOf s i := mem_innerOf.mpr ⟨_, mem_of_tabGet hj, ho, rfl⟩
  have hrow : ∀ k ∈ innerOf s i, row k = row i + 1 := fun k hk => row_of_mem_innerOf h hk
  have hjrow := hrow j hmem
  have hnodup := innerOf_nodup (i := i) hs
  obtain ⟨before, after, hsplit⟩ := List.append_of_mem hmem
  rw [hsplit, List.nodup_middle, List.nodup_cons] at hnodup
  have hother : ∀ k, k ∈ before ∨ k ∈ after → j ≠ k ∧ row k = row i + 1 := by
    intro k hk
    refine ⟨?_, hrow k (by rw [hsplit]; simp only [List.mem_append, List.mem_cons]; tauto)⟩
    rintro rfl
    exact hnodup.1 (List.mem_append.mpr hk)
  rw [raiseInner, hsplit, forEach_append, forEach_cons]
  have hlinks : LinksFollowRows row (forEach before (depthRaise 3) s) :=
    forEach_keeps (fun k _ t ht => depthRaise_keeps_links 3 ht) h
  have hown : seg? (forEach before (depthRaise 3) s) j = some g := by
    rw [seg?_forEach_depthRaise (fun k hk => ?_) h, hj]
    obtain ⟨hne, hkrow⟩ := hother k (.inl hk)
    exact ⟨hne, by omega⟩
  have houter : seg? (forEach before (depthRaise 3) s) i = seg? s i := by
    refine seg?_forEach_depthRaise (fun k hk => ?_) h
    obtain ⟨_, hkrow⟩ := hother k (.inl hk)
    exact ⟨by rintro rfl; omega, by omega⟩
  rw [seg?_forEach_depthRaise (fun k hk => ?_) (depthRaise_keeps_links 3 hlinks), seg?_depthRaise_self hlinks hown,
    linkedH_congr ho houter]
  obtain ⟨hne, hkrow⟩ := hother k (.inr hk)
  exact ⟨hne, by omega⟩

end Rows

/-! ## A record put, its rise handed inward (R76, R82) -/

section Rising

variable {s : State} {i j : Nat} {g new u : Segment}

/-- A record whose H does not rise is put alone. -/
theorem putRising_level (h : new.h ≤ g.h) : putRising i g new s = putSeg i new s := if_neg (Nat.not_lt.mpr h)

/-- R82: the raises that a rise hands inward leave the record that rose. -/
theorem seg?_putRising_self (ht : TablesOk s) (hr : RefsOk s) (hg : seg? s i = some g) (hcfg : new.cfg = g.cfg) :
    seg? (putRising i g new s) i = some new := by
  by_cases hrise : g.h < new.h
  · have hlinks := putSeg_keeps_links (linksFollowRows_rowOf ht hr) hg hcfg
    rw [putRising, if_pos hrise, seg?_raiseInner_outward hlinks le_rfl, seg?_putSeg_self]
  · rw [putRising_level (Nat.not_lt.mp hrise), seg?_putSeg_self]

/-- R81, R82: each inner segment of an active link takes the raise from the H risen to. -/
theorem seg?_putRising_inner (ht : TablesOk s) (hr : RefsOk s) (hg : seg? s i = some g) (hcfg : new.cfg = g.cfg)
    (hrise : g.h < new.h) (hm : g.cfg.mode = .harvest) (hu : seg? s j = some u) (hum : u.cfg.mode = .harvest)
    (ho : u.cfg.outer = some i) : seg? (putRising i g new s) j = some (afterRaise new.h u) := by
  have hrows := linksFollowRows_rowOf ht hr
  have hne : j ≠ i := by
    rintro rfl
    have hrow : rowOf s j = rowOf s j + 1 := hrows _ (mem_of_tabGet hu) j ho
    omega
  have hi : i < 32 := seg?_isSome_lt ht (by rw [hg]; rfl)
  rw [putRising, if_pos hrise,
    seg?_raiseInner_inner (tablesOk_putSeg ht hi new).2.1.1 (putSeg_keeps_links hrows hg hcfg)
      ((seg?_putSeg_ne new s hne).trans hu) ho,
    linkedH_active hum ho (seg?_putSeg_self i new s) (by rw [hcfg, hm])]

/-- R81: a raise above the H of a DAYLIT segment strikes it. -/
theorem afterRaise_daylit {h : Nat} (hctl : u.ctl = .daylit) (hrise : u.h < min h u.effCap) :
    afterRaise h u =
      { u with
        ctl := .strike
        h := min (max u.cfg.strikeLevel h) u.effCap
        stepTimer := some u.cfg.upInterval } := by
  simp [afterRaise, hctl, Nat.not_le.mpr hrise]

end Rising

end Sys2Proof.Machine
end

section
/-! SUPPORT. How an event at one segment ends: what stays as it was, and that an event which leaves the inputs of composition
recomposes nothing (R127). -/

namespace Sys2Proof.Machine

section Events

variable {c : Instr} {f : State → State} {s : State} {i : Nat} {g u : Segment}

/-- An expiry that is due takes its action (log 2). -/
theorem segExpiry_due {timer : Segment → Timer} {act : Segment → State → State} (hg : seg? s i = some g)
    (hdue : timerDue (timer g) = true) : segExpiry i timer act s = act g s := by
  rw [segExpiry, onSeg_some hg, if_pos hdue]

/-- A command that is one event at the segments: it leaves the segments as the event's own change does, and of the rest nothing
but recompositions. -/
theorem next_of_segsEvent (hexec : exec c s = done (event f s)) (h : SegsOnly s (f s)) :
    ∃ t, exec c s = .next t ∧ (∀ j : Nat, seg? t j = seg? (f s) j) ∧ SameAround s t ∧ SamePort s t
      ∧ OnlyRecomposed s t := by
  obtain ⟨hinputs, hfloor, hport⟩ := (event_eventOnly h.eventOnly).same
  obtain ⟨⟨_, _, hrecomposed, _⟩, _⟩ := event_same f s
  obtain ⟨_, ⟨_, hchanged, _⟩, _⟩ := h.same
  have hoverrides : (event f s).overrides = s.overrides := hrecomposed.trans hchanged
  refine ⟨_, hexec.trans (done_eq _), fun j => (seg?_withAttn _ j).trans (seg?_event f s j),
    ⟨hinputs, hoverrides, hfloor⟩, ?_, (event_eventOnly h.eventOnly).2⟩
  rw [SamePort, withAttn_port, hport]

/-- A command that is one event putting the record of a segment. -/
theorem next_of_putSegEvent (hexec : exec c s = done (event f s)) (hf : f s = putSeg i u s) :
    ∃ t, exec c s = .next t ∧ seg? t i = some u ∧ OtherSegsSame s t i ∧ SameAround s t ∧ SamePort s t
      ∧ OnlyRecomposed s t := by
  obtain ⟨t, hnext, hsegs, hrest⟩ := next_of_segsEvent hexec (by rw [hf]; exact putSeg_segsOnly i u s)
  rw [hf] at hsegs
  exact ⟨t, hnext, (hsegs i).trans (seg?_putSeg_self i u s), fun j hj => (hsegs j).trans (seg?_putSeg_ne u s hj), hrest⟩

/-- R127: the inputs of composition that a segment record gives are its configuration, H, activity and effective cap. -/
abbrev ComposesAlike (g u : Segment) : Prop := u.cfg = g.cfg ∧ u.h = g.h ∧ u.activity = g.activity ∧ u.effCap = g.effCap

theorem sameInputs_putSeg (hg : seg? s i = some g) (h : ComposesAlike g u) (j : Nat) :
    sameInputs s (putSeg i u s) j = true := by
  obtain ⟨hcfg, hh, hactivity, hcap⟩ := h
  by_cases hj : j = i
  · subst hj
    simp [sameInputs, hg, hcfg, hh, hactivity, hcap, recordsOf]
  · cases hv : seg? s j <;> simp [sameInputs, hj, hv, recordsOf]

/-- R127: where every input of composition stands, no segment is recomposed. -/
theorem settle_of_sameInputs {t : State} (h : ∀ j : Nat, sameInputs s t j = true) : settle s t = t := by
  have hnone : (segIds t).filter (fun j => !sameInputs s t j) = [] := by simp [h]
  rw [settle, hnone, forEachFree_of_length_le (by simp), forEach_nil]

/-- R127: a command that is one event putting a record that composes as before changes that record alone, and ATTN. -/
theorem next_of_quietEvent (hexec : exec c s = done (event f s)) (hf : f s = putSeg i u s) (hg : seg? s i = some g)
    (h : ComposesAlike g u) :
    ∃ t, exec c s = .next t ∧ seg? t i = some u ∧ OtherSegsSame s t i ∧ SameFixtures s t ∧ SameAround s t
      ∧ SamePort s t := by
  have hquiet : event f s = putSeg i u s := by rw [event, hf, settle_of_sameInputs (sameInputs_putSeg hg h)]
  refine ⟨_, hexec.trans (congrArg done hquiet), seg?_putSeg_self i u s, fun j hj => seg?_putSeg_ne u s hj,
    ⟨rfl, rfl, rfl⟩, ⟨rfl, rfl, rfl, rfl, rfl, rfl⟩, rfl⟩

end Events

end Sys2Proof.Machine
end

section
/-! SUPPORT. The step event where it makes no step toward the band (R55, R56, R59, R60): its record, state by state. -/

namespace Sys2Proof.Machine

theorem exec_stepEvent (i : Nat) (s : State) : exec (.stepEvent i) s = done (event (stepExpiry i) s) := rfl

/-- R59, R81: a strike without an active link is one from an outer H of 0. -/
theorem strikeH_eq (s : State) (g : Segment) :
    strikeH s g = min (max g.cfg.strikeLevel (((activeOuter s g).map (·.h)).getD 0)) g.effCap := by
  rw [strikeH]
  cases activeOuter s g <;> simp

/-- A timer that is started unless it runs. -/
theorem startedUnlessRunning (t : Timer) (period : Nat) :
    (if t = none then startTimer period else t) = some (t.getD period) := by
  cases t <;> rfl

/-- R58: the off-delay timer of a DWELL segment that is not held. -/
theorem startOffDelay_eq (g : Segment) :
    startOffDelay g =
      { g with offTimer := if g.ctl = .dwell then some (g.offTimer.getD (g.cfg.offDelay * 10)) else g.offTimer } := by
  rw [startOffDelay, ← startedUnlessRunning]
  by_cases hdwell : g.ctl = .dwell
  · rw [if_pos hdwell]
    by_cases htimer : g.offTimer = none
    · rw [if_pos ⟨hdwell, htimer⟩, if_pos htimer]
      rfl
    · rw [if_neg (htimer ·.2), if_neg htimer]
  · rw [if_neg (hdwell ·.1), if_neg hdwell]

theorem startOffDelay_of_daylit {g : Segment} (h : g.ctl = .daylit) : startOffDelay g = g := by
  simp [startOffDelay, h]

theorem estimate_none {s : State} {g : Segment} (h : activeSensor s g = none) : estimate s g = none := by
  rw [estimate, h]

section Stepped

variable {s : State} {i : Nat} {g : Segment}

/-- R60: the strike hold ends. -/
theorem stepped_strike (hctl : g.ctl = .strike) : stepped s g = reloadShorter { g with ctl := .tracking } := by
  rw [stepped, hctl]

/-- R55: a held segment is not evaluated. -/
theorem stepped_held (hforced : g.ctl ≠ .forced) (hstrike : g.ctl ≠ .strike) (hheld : g.held = true) :
    stepped s g = reloadShorter g := by
  cases hctl : g.ctl with
  | forced => exact absurd hctl hforced
  | strike => exact absurd hctl hstrike
  | tracking | dwell | daylit => simp [stepped, hctl, hheld]

/-- R56: a segment that is not held and has no active sensor is blind. -/
theorem stepped_blind (hforced : g.ctl ≠ .forced) (hstrike : g.ctl ≠ .strike) (hheld : g.held = false)
    (hsensor : activeSensor s g = none) : stepped s g = goBlind (startOffDelay g) := by
  cases hctl : g.ctl with
  | forced => exact absurd hctl hforced
  | strike => exact absurd hctl hstrike
  | tracking | dwell | daylit => simp [stepped, hctl, hheld, estimate_none hsensor]

/-- R59: a DAYLIT segment that sees strikes below the relight threshold. -/
theorem stepped_daylit {e : Nat} (hctl : g.ctl = .daylit) (hheld : g.held = false) (he : estimate s g = some e) :
    stepped s g = if e < relightThreshold g.cfg then struck s (seeAgain g) else reloadShorter (seeAgain g) := by
  simp [stepped, hctl, hheld, he, startOffDelay_of_daylit hctl]

/-- R53: a due step event puts the stepped record, a rise handed inward. -/
theorem stepExpiry_due (hg : seg? s i = some g) (hdue : timerDue g.stepTimer = true) :
    stepExpiry i s = putRising i g (stepped s g) s := segExpiry_due hg hdue

/-- A step event whose record composes as before changes that record alone, and ATTN. -/
theorem stepEvent_quiet {u : Segment} (hg : seg? s i = some g) (hdue : timerDue g.stepTimer = true)
    (hstep : stepped s g = u) (h : ComposesAlike g u) :
    ∃ t, exec (.stepEvent i) s = .next t ∧ seg? t i = some u ∧ OtherSegsSame s t i ∧ SameFixtures s t ∧ SameAround s t
      ∧ SamePort s t := by
  have ⟨_, hlevel, _⟩ := h
  have hput : stepExpiry i s = putSeg i u s := by
    rw [stepExpiry_due hg hdue, hstep, putRising_level hlevel.le]
  exact next_of_quietEvent (exec_stepEvent i s) hput hg h

/-- R82: a step event leaves its own segment as it stepped, whatever it raises further in. -/
theorem stepEvent_stepped (ht : TablesOk s) (hr : RefsOk s) (hg : seg? s i = some g)
    (hdue : timerDue g.stepTimer = true) (hcfg : (stepped s g).cfg = g.cfg) :
    ∃ t, exec (.stepEvent i) s = .next t ∧ seg? t i = some (stepped s g) ∧ SameAround s t ∧ SamePort s t
      ∧ OnlyRecomposed s t := by
  obtain ⟨t, hnext, hsegs, hrest⟩ := next_of_segsEvent (exec_stepEvent i s) (stepExpiry_segsOnly i s)
  rw [stepExpiry_due hg hdue] at hsegs
  exact ⟨t, hnext, (hsegs i).trans (seg?_putRising_self ht hr hg hcfg), hrest⟩

end Stepped

/-- Settles O48, by the record of the step event in each of its states. -/
theorem stepEventElsewhere : Obligations.StepEventElsewhere := by
  intro s i ht hr g hg hdue hforced shorter still
  have quiet {u : Segment} (hstep : stepped s g = u) (h : ComposesAlike g u) : still u :=
    stepEvent_quiet hg hdue hstep h
  refine ⟨fun hstrike => ?_, fun hstrike hheld => ?_, fun hstrike hheld hsensor => ?_, fun e he hdaylit hheld => ?_⟩
  · exact quiet (stepped_strike hstrike) ⟨rfl, rfl, rfl, rfl⟩
  · exact quiet (stepped_held hforced hstrike hheld) ⟨rfl, rfl, rfl, rfl⟩
  · refine quiet ?_ ⟨rfl, rfl, rfl, rfl⟩
    rw [stepped_blind hforced hstrike hheld hsensor, startOffDelay_eq, goBlind, startedUnlessRunning]
    rfl
  · intro sees threshold
    have hstep := stepped_daylit hdaylit hheld he
    refine ⟨fun (hbright : relightThreshold g.cfg ≤ e) => ?_, fun (hdark : e < relightThreshold g.cfg) => ?_⟩
    · rw [if_neg (Nat.not_lt.mpr hbright)] at hstep
      exact quiet hstep ⟨rfl, rfl, rfl, rfl⟩
    · rw [if_pos hdark, struck, strikeH_eq] at hstep
      have hnext := stepEvent_stepped ht hr hg hdue (by rw [hstep]; rfl)
      rw [hstep] at hnext
      exact hnext

end Sys2Proof.Machine
end

section
/-! SUPPORT. The off-delay expiry (R62) and the blind expiry (R67) of a segment. -/

namespace Sys2Proof.Machine

/-- R62: a segment is relit by the outer segment of its active link alone: without one it goes DAYLIT as under a dark one. -/
theorem offDelayed_eq (s : State) (g : Segment) :
    offDelayed s g =
      if 0 < ((activeOuter s g).map (·.h)).getD 0 then { g with offTimer := some (g.cfg.offDelay * 10) }
      else { g with ctl := .daylit, h := 0, offTimer := none, shortTimer := none } := by
  rw [offDelayed]
  cases activeOuter s g <;> rfl

section Expiries

variable {s : State} {i : Nat} {g : Segment}

/-- R62: a due off-delay expiry puts one record. -/
theorem offDelayExpiry_due (hg : seg? s i = some g) (hdue : timerDue g.offTimer = true) :
    ∃ t, exec (.offDelayExpiry i) s = .next t ∧ seg? t i = some (offDelayed s g) ∧ OtherSegsSame s t i ∧ SameAround s t
      ∧ SamePort s t ∧ OnlyRecomposed s t :=
  next_of_putSegEvent (f := segExpiry i (·.offTimer) fun g t => putSeg i (offDelayed t g) t) rfl (segExpiry_due hg hdue)

/-- R67: a due blind expiry puts the record fallen back, a rise handed inward. -/
theorem blindTimerExpiry_due (hg : seg? s i = some g) (hdue : timerDue g.blindTimer = true) :
    ∃ t, exec (.blindTimerExpiry i) s = .next t
      ∧ (∀ j : Nat, seg? t j = seg? (putRising i g (fellBack g) s) j) ∧ SameAround s t ∧ SamePort s t
      ∧ OnlyRecomposed s t := by
  rw [← segExpiry_due (timer := (·.blindTimer)) (act := fun g t => putRising i g (fellBack g) t) hg hdue]
  exact next_of_segsEvent rfl (segExpiry_segsOnly fun g => putRising_segsOnly i g _ s)

end Expiries

/-- Settles O49, by the equation of the record at an off-delay expiry, and by the reach of the rise at a blind expiry. -/
theorem offDelayAndBlindExpiries : Obligations.OffDelayAndBlindExpiries := by
  intro s i ht hr g hg
  refine ⟨fun hdue => ?_, fun hdue => ?_⟩
  · rw [← offDelayed_eq s g]
    exact offDelayExpiry_due hg hdue
  · intro h
    obtain ⟨t, hnext, hsegs, hrest⟩ := blindTimerExpiry_due hg hdue
    refine ⟨t, hnext, (hsegs i).trans (seg?_putRising_self ht hr hg rfl), ?_, ?_, hrest⟩
    · intro hlevel j hj
      have hh : (fellBack g).h ≤ g.h := hlevel.le
      rw [hsegs j, putRising_level hh, seg?_putSeg_ne _ _ hj]
    · intro j u hu hrise hm hum ho hctl hbelow
      rw [hsegs j, seg?_putRising_inner (new := fellBack g) ht hr hg rfl hrise hm hu hum ho]
      exact congrArg some (afterRaise_daylit hctl hbelow)

end Sys2Proof.Machine
end

section
/-! SUPPORT. What the law of the depth ordering reads of a state (R79, R80): of each segment its configuration, H, effective cap
and whether it is FORCED. A change of anything else leaves the law. -/

namespace Sys2Proof.Machine

/-! ## The depth floor (R80) -/

section DepthFloor

variable {s t : State} {g new u : Segment}

/-- R79: a link is active while both of its ends are in HARVEST mode. -/
theorem activeOuter_eq_some :
    activeOuter s g = some u ↔
      g.cfg.mode = .harvest ∧ ∃ o, g.cfg.outer = some o ∧ seg? s o = some u ∧ u.cfg.mode = .harvest := by
  unfold activeOuter
  by_cases hm : g.cfg.mode = .harvest
  · rw [if_pos hm]
    cases ho : g.cfg.outer with
    | none => simp
    | some o =>
      cases hu : seg? s o with
      | none => simp [hu]
      | some v =>
        by_cases hv : v.cfg.mode = .harvest
        · simp only [hv, if_true, Option.some.injEq, hm, true_and, exists_eq_left', hu]
          exact ⟨fun h => ⟨h, h ▸ hv⟩, And.left⟩
        · simp only [hv, if_false, hm, true_and, Option.some.injEq, exists_eq_left', hu]
          exact ⟨nofun, fun ⟨h, hu⟩ => absurd (h ▸ hu) hv⟩
  · simp [hm]

/-- R80: the floor is the depth target of R81. -/
theorem depthFloor_eq_min (s : State) (g : Segment) : depthFloor s g = min (linkedH s g) g.effCap := by
  unfold depthFloor
  cases ha : activeOuter s g with
  | some u =>
    obtain ⟨hm, o, ho, hu, hum⟩ := activeOuter_eq_some.mp ha
    rw [linkedH_active hm ho hu hum]
  | none =>
    suffices linkedH s g = 0 by simp [this]
    unfold linkedH
    split
    · rename_i hm
      cases ho : g.cfg.outer with
      | none => rfl
      | some o =>
        cases hu : seg? s o with
        | none => simp [hu]
        | some u =>
          have hum : u.cfg.mode ≠ .harvest := fun hum => by
            simp [activeOuter_eq_some.mpr ⟨hm, o, ho, hu, hum⟩] at ha
          simp [hu, hum, Option.filter]
    · rfl

theorem depthFloor_le_effCap (s : State) (g : Segment) : depthFloor s g ≤ g.effCap := by
  rw [depthFloor_eq_min]
  exact min_le_right _ _

theorem depthFloor_of_not_harvest (hm : g.cfg.mode ≠ .harvest) : depthFloor s g = 0 := by
  simp [depthFloor, activeOuter, hm]

/-- R80: the floor of a segment with the same links rises by a rise of its cap or of the H of its outer segment alone. -/
theorem depthFloor_le (hmode : new.cfg.mode = g.cfg.mode) (hlink : new.cfg.outer = g.cfg.outer)
    (hcap : new.effCap ≤ g.effCap)
    (houter : ∀ o, g.cfg.outer = some o → ∀ u, seg? t o = some u → u.cfg.mode = .harvest →
      ∃ v, seg? s o = some v ∧ v.cfg.mode = .harvest ∧ u.h ≤ v.h) :
    depthFloor t new ≤ depthFloor s g := by
  cases ha : activeOuter t new with
  | none => simp [depthFloor, ha]
  | some u =>
    obtain ⟨hm, o, ho, hu, hum⟩ := activeOuter_eq_some.mp ha
    rw [hmode] at hm
    rw [hlink] at ho
    obtain ⟨v, hv, hvm, hle⟩ := houter o ho u hu hum
    have hs : activeOuter s g = some v := activeOuter_eq_some.mpr ⟨hm, o, ho, hv, hvm⟩
    simp only [depthFloor, ha, hs]
    exact min_le_min hle hcap

/-- R80: within one state the floor reads the configuration and the effective cap of a record. -/
theorem depthFloor_congr (hcfg : new.cfg = g.cfg) (hcap : new.effCap = g.effCap) : depthFloor s new = depthFloor s g := by
  simp only [depthFloor, activeOuter, hcfg, hcap]

end DepthFloor

/-! ## What the law reads of a segment -/

/-- The part of a record that the depth ordering reads: configuration, effective cap, H, and whether the segment is FORCED; every
other field as in a segment just defined. -/
def depthPart (g : Segment) : Segment :=
  { freshSeg g.cfg g.effCap with ctl := if g.ctl = .forced then .forced else .tracking, h := g.h }

theorem depthPart_eq_iff {g new : Segment} :
    depthPart new = depthPart g ↔
      new.cfg = g.cfg ∧ new.effCap = g.effCap ∧ new.h = g.h ∧ (new.ctl = .forced ↔ g.ctl = .forced) := by
  constructor
  · intro h
    have hctl := congrArg Segment.ctl h
    simp only [depthPart] at hctl
    refine ⟨(congrArg Segment.cfg h :), (congrArg Segment.effCap h :), (congrArg Segment.h h :), ?_⟩
    by_cases hn : new.ctl = .forced <;> by_cases hg : g.ctl = .forced <;> simp [hn, hg] at hctl ⊢
  · rintro ⟨hcfg, hcap, hh, hctl⟩
    simp only [depthPart, hcfg, hcap, hh, hctl]

/-- From a state with its segment keys in order, the segments stand as the depth ordering reads them. -/
def SameDepth (s t : State) : Prop :=
  s.segs.Pairwise (fun a b => a.1 < b.1) → tabMap t.segs depthPart = tabMap s.segs depthPart

theorem keys_of_tabMap_eq {a b : Tab Segment} (h : tabMap b depthPart = tabMap a depthPart) : b.map (·.1) = a.map (·.1) := by
  rw [← tabMap_keys b depthPart, h, tabMap_keys]

theorem pairwise_of_keys {a b : Tab Segment} (h : b.map (·.1) = a.map (·.1)) (ha : a.Pairwise fun x y => x.1 < y.1) :
    b.Pairwise fun x y => x.1 < y.1 := by
  rw [← List.pairwise_map (f := Prod.fst) (R := (· < ·))] at ha ⊢
  rwa [h]

theorem SameDepth.of_segs {s t : State} (h : t.segs = s.segs) : SameDepth s t := fun _ => by rw [h]

theorem SameDepth.refl (s : State) : SameDepth s s := .of_segs rfl

theorem SameDepth.trans {s t u : State} (h : SameDepth s t) (k : SameDepth t u) : SameDepth s u := fun hs =>
  (k (pairwise_of_keys (keys_of_tabMap_eq (h hs)) hs)).trans (h hs)

theorem SameDepth.trans_segs {s t u : State} (h : SameDepth s t) (k : u.segs = t.segs) : SameDepth s u := h.trans (.of_segs k)

theorem SameDepth.of_event {f : State → State} {s : State} (h : SameDepth s (f s)) : SameDepth s (event f s) :=
  h.trans_segs (event_same f s).1.1

/-- A record read afterwards stands for one read before. -/
theorem SameDepth.seg? {s t : State} (h : SameDepth s t) (hs : s.segs.Pairwise fun a b => a.1 < b.1) (i : Nat) :
    (seg? t i).map depthPart = (seg? s i).map depthPart := by
  simp only [Machine.seg?, ← tabGet_map, h hs]

theorem tabMap_put {α : Type} (f : α → α) (t : Tab α) (i : Nat) (v : α) :
    tabMap (tabPut t i v) f = tabPut (tabMap t f) i (f v) := by
  induction t with
  | nil => rfl
  | cons e t ih =>
    obtain ⟨k, w⟩ := e
    simp only [tabMap, tabPut, List.map_cons] at ih ⊢
    split
    · rfl
    · split
      · rfl
      · rw [List.map_cons, ih]

/-- A record put in place of one that the depth ordering reads alike. -/
theorem sameDepth_putSeg {i : Nat} {g new : Segment} {s : State} (hg : seg? s i = some g)
    (h : depthPart new = depthPart g) : SameDepth s (putSeg i new s) := by
  intro hs
  have hkeys : (tabMap s.segs depthPart).Pairwise fun a b => a.1 < b.1 := pairwise_of_keys (tabMap_keys _ _) hs
  rw [putSeg_segs, tabMap_put, h]
  refine tabPut_same hkeys ?_
  rw [tabGet_map]
  exact congrArg (Option.map depthPart) hg

/-! ## The operations that leave the depth ordering -/

theorem sameDepth_draws (s : State) (n : Nat) : SameDepth s { s with draws := n } := .of_segs rfl

theorem sameDepth_forEach {f : Nat → State → State} (h : ∀ k s, SameDepth s (f k s)) (ks : List Nat) (s : State) :
    SameDepth s (forEach ks f s) := forEach_rel .refl .trans (fun k _ t => h k t) s

theorem recomputeHeld_sameDepth (i : Nat) (s : State) : SameDepth s (recomputeHeld i s) := by
  refine onSeg_rel (.refl s) fun g hg => ?_
  simp only
  split <;> exact sameDepth_putSeg hg rfl

/-- A record put that the depth ordering reads alike, and the held flag recomputed. -/
theorem sameDepth_putHeld {i j : Nat} {g new : Segment} {s : State} (hg : seg? s i = some g)
    (h : depthPart new = depthPart g) : SameDepth s (recomputeHeld j (putSeg i new s)) :=
  (sameDepth_putSeg hg h).trans (recomputeHeld_sameDepth j _)

theorem motion_sameDepth (byRequest : Bool) (i : Nat) (s : State) : SameDepth s (motion byRequest i s) := by
  refine onSeg_rel (.refl s) fun g hg => ?_
  split
  · exact sameDepth_putHeld hg rfl
  · exact .refl s

theorem reResolve_sameDepth (byRequest : Bool) (i : Nat) (s : State) : SameDepth s (reResolve byRequest i s) := by
  refine onSeg_rel (.refl s) fun g hg => ?_
  split
  · exact sameDepth_putHeld hg rfl
  · exact .refl s

theorem sensingChanged_sameDepth (i : Nat) (s : State) : SameDepth s (sensingChanged i s) := by
  refine onSeg_rel (.refl s) fun g hg => ?_
  split
  · exact sameDepth_putSeg hg rfl
  · exact sameDepth_putHeld hg rfl

theorem cutOffChanged_sameDepth (i : Nat) (s : State) : SameDepth s (cutOffChanged i s) := by
  refine onSeg_rel (.refl s) fun g hg => ?_
  split
  · rename_i h
    exact sameDepth_putSeg hg (depthPart_eq_iff.mpr ⟨rfl, rfl, rfl, by simp [h.1]⟩)
  · exact .refl s

theorem clearShortfall_sameDepth (i : Nat) (s : State) : SameDepth s (clearShortfall i s) :=
  onSeg_rel (.refl s) fun _ hg => sameDepth_putSeg hg rfl

theorem retireRecords_sameDepth (p : Override → Bool) (flag : Bool) (s : State) : SameDepth s (retireRecords p flag s) :=
  (SameDepth.of_segs (putOverrides_segs _ s)).trans (sameDepth_forEach recomputeHeld_sameDepth _ _)

theorem makeRoom_sameDepth (s : State) : SameDepth s (makeRoom s) := by
  unfold makeRoom
  split
  · exact .refl s
  · split
    · exact retireRecords_sameDepth _ _ s
    · exact .refl s

theorem createRecord_sameDepth (origin : Origin) (cls : OvClass) (scope : Scope) (action : OvAction) (hold : Option Nat)
    (s : State) : SameDepth s (createRecord origin cls scope action hold s) :=
  (SameDepth.of_segs (putOverrides_segs _ s)).trans (recomputeHeld_sameDepth _ _)

theorem placeRecord_sameDepth (origin : Origin) (cls : OvClass) (scope : Scope) (action : OvAction) (hold : Option Nat)
    (s : State) : SameDepth s (placeRecord origin cls scope action hold s) := by
  unfold placeRecord
  split
  · exact .of_segs rfl
  · exact (makeRoom_sameDepth s).trans (createRecord_sameDepth _ _ _ _ _ _)

theorem pressList_sameDepth (a : Nat) (scope : Scope) (hold : Nat) (b : Button) (s : State) :
    SameDepth s (pressList a scope hold b s) := by
  refine onSeg_rel (.refl s) fun g _ => ?_
  simp only
  split
  · exact retireRecords_sameDepth _ _ s
  · split
    · exact .refl s
    · exact placeRecord_sameDepth _ _ _ _ _ s

theorem countHolds_sameDepth (s : State) : SameDepth s (countHolds s) :=
  (SameDepth.of_segs (putOverrides_segs _ s)).trans (retireRecords_sameDepth _ _ _)

theorem goVacant_sameDepth {i : Nat} {g : Segment} {s : State} (hg : seg? s i = some g) :
    SameDepth s (goVacant i g s) := by
  refine .trans (.trans (sameDepth_putSeg hg ?_) (retireRecords_sameDepth _ _ _)) (recomputeHeld_sameDepth i _)
  rfl

theorem holdExpired_sameDepth {i : Nat} {g : Segment} {s : State} (hg : seg? s i = some g) :
    SameDepth s (holdExpired i g s) := by
  unfold holdExpired
  split
  · exact sameDepth_putHeld hg rfl
  · exact sameDepth_putSeg hg rfl

/-- An expiry at a segment whose action leaves the depth ordering. -/
theorem segExpiry_sameDepth {i : Nat} {timer : Segment → Timer} {f : Segment → State → State} {s : State}
    (h : ∀ g, seg? s i = some g → SameDepth s (f g s)) : SameDepth s (segExpiry i timer f s) := by
  refine onSeg_rel (.refl s) fun g hg => ?_
  split
  · exact h g hg
  · exact .refl s

end Sys2Proof.Machine
end

section
/-! SUPPORT. The invariant behind the law of the depth ordering (R79): within an event some segments may still be late, below
their floor until their depth raise (R81, R82). A record put says which segments it makes late, and a depth raise makes its
segment and everything further in keep the law again. -/

namespace Sys2Proof.Machine

/-! ## The invariant -/

/-- A record fits the rows: its own, one row nearer the window its outer link, and a controller that a raise can act on. -/
structure FitsRows (row : Nat → Nat) (i : Nat) (g : Segment) : Prop where
  row_eq : row i = g.cfg.row
  row_pos : 1 ≤ row i
  row_le : row i ≤ 4
  link : ∀ o, g.cfg.outer = some o → row i = row o + 1
  unforced : g.cfg.mode = .harvest → g.ctl ≠ .forced

/-- The law of R79 at every segment that is not late, `row` giving the row of each segment. -/
structure DepthOrdered (row : Nat → Nat) (late : Set Nat) (s : State) : Prop where
  keys : tabWf 32 s.segs
  records : ∀ i g, seg? s i = some g → FitsRows row i g
  floors : ∀ i g, seg? s i = some g → i ∉ late → depthFloor s g ≤ g.h

/-- The record `new` may stand in place of `g`: its links, its cap and its part in raises are the same, and H is at the floor or
above. -/
structure KeepsFloor (floor : Nat) (g new : Segment) : Prop where
  cfg : new.cfg = g.cfg
  effCap : new.effCap = g.effCap
  unforced : new.ctl = .forced → g.ctl = .forced
  level : floor ≤ new.h

/-- The segments whose outer link names a segment. -/
def linkedTo (s : State) (i : Nat) : Set Nat := {j | ((seg? s j).map (·.cfg)).bind (·.outer) = some i}

section Ordered

variable {row : Nat → Nat} {late late' : Set Nat} {s t : State} {i j n : Nat} {g new : Segment}

theorem FitsRows.of_cfg (h : FitsRows row i g) (hcfg : new.cfg = g.cfg) (hctl : new.ctl = .forced → g.ctl = .forced) :
    FitsRows row i new where
  row_eq := by rw [hcfg]; exact h.row_eq
  row_pos := h.row_pos
  row_le := h.row_le
  link := by rw [hcfg]; exact h.link
  unforced := fun hm hc => h.unforced (by rwa [← hcfg]) (hctl hc)

theorem DepthOrdered.key_lt (h : DepthOrdered row late s) (hg : seg? s i = some g) : i < 32 :=
  h.keys.2 _ (mem_of_tabGet hg)

theorem DepthOrdered.depthOk (h : DepthOrdered row ∅ s) : DepthOk s := fun e he =>
  h.floors e.1 e.2 (tabGet_of_mem h.keys.1 he) (Set.notMem_empty e.1)

/-- Between events no segment is late. -/
theorem depthOrdered_of_laws (ht : TablesOk s) (hr : RefsOk s) (hh : HarvestOk s) (hd : DepthOk s) :
    DepthOrdered (rowOf s) ∅ s where
  keys := ht.2.1
  records := by
    intro i g hg
    have hmem : (i, g) ∈ s.segs := mem_of_tabGet hg
    obtain ⟨hpos, hle, _⟩ := hr.2.2.1 _ hmem
    have hrow : rowOf s i = g.cfg.row := by simp [rowOf, hg]
    exact
      { row_eq := hrow
        row_pos := by rw [hrow]; exact hpos
        row_le := by rw [hrow]; exact hle
        link := fun o ho => linksFollowRows_rowOf ht hr _ hmem o ho
        unforced := fun hm => ((hh _ hmem).1 hm).2.2.2 }
  floors := fun _ _ hg _ => hd _ (mem_of_tabGet hg)

theorem DepthOrdered.mono (h : DepthOrdered row late s) (hsub : late ⊆ late') : DepthOrdered row late' s :=
  ⟨h.keys, h.records, fun i g hg hi => h.floors i g hg fun hl => hi (hsub hl)⟩

/-- A segment that keeps the law is not late. -/
theorem DepthOrdered.in_time (h : DepthOrdered row (insert i late) s)
    (hi : i ∉ late → ∀ g, seg? s i = some g → depthFloor s g ≤ g.h) : DepthOrdered row late s :=
  ⟨h.keys, h.records, fun j g hg hj => by
    by_cases hji : j = i
    · subst hji; exact hi hj g hg
    · exact h.floors j g hg fun hl => hl.elim hji hj⟩

/-- No segment that is not defined is late. -/
theorem DepthOrdered.in_time_of_none (h : DepthOrdered row (insert i late) s) (hg : seg? s i = none) :
    DepthOrdered row late s :=
  h.in_time fun _ g hg' => by rw [hg] at hg'; cases hg'

theorem DepthOrdered.in_time_of_some (h : DepthOrdered row (insert i late) s) (hg : seg? s i = some g)
    (hi : i ∉ late → depthFloor s g ≤ g.h) : DepthOrdered row late s :=
  h.in_time fun hl g' hg' => by rw [hg] at hg'; cases hg'; exact hi hl

/-- What the depth ordering does not read makes no segment late. -/
theorem DepthOrdered.of_sameDepth (h : DepthOrdered row late s) (hst : SameDepth s t) : DepthOrdered row late t := by
  have hkeys := keys_of_tabMap_eq (hst h.keys.1)
  have hread := hst.seg? h.keys.1
  have hback : ∀ i g', seg? t i = some g' → ∃ g, seg? s i = some g ∧ depthPart g' = depthPart g := by
    intro i g' hg'
    have hi := hread i
    rw [hg', Option.map_some] at hi
    obtain ⟨g, hg, heq⟩ := Option.map_eq_some_iff.mp hi.symm
    exact ⟨g, hg, heq.symm⟩
  refine ⟨⟨pairwise_of_keys hkeys h.keys.1, fun e he => ?_⟩, fun i g' hg' => ?_, fun i g' hg' hi => ?_⟩
  · have hmem : e.1 ∈ s.segs.map (·.1) := hkeys ▸ List.mem_map_of_mem he
    obtain ⟨d, hd, heq⟩ := List.mem_map.mp hmem
    exact heq ▸ h.keys.2 d hd
  · obtain ⟨g, hg, heq⟩ := hback i g' hg'
    obtain ⟨hcfg, _, _, hctl⟩ := depthPart_eq_iff.mp heq
    exact (h.records i g hg).of_cfg hcfg hctl.mp
  · obtain ⟨g, hg, heq⟩ := hback i g' hg'
    obtain ⟨hcfg, hcap, hh, _⟩ := depthPart_eq_iff.mp heq
    have hfloor : depthFloor t g' ≤ depthFloor s g := by
      refine depthFloor_le (by rw [hcfg]) (by rw [hcfg]) hcap.le fun o _ u hu hum => ?_
      obtain ⟨v, hv, heqv⟩ := hback o u hu
      obtain ⟨hcfgv, _, hhv, _⟩ := depthPart_eq_iff.mp heqv
      exact ⟨v, hv, hcfgv ▸ hum, hhv.le⟩
    rw [hh]
    exact hfloor.trans (h.floors i g hg hi)

theorem DepthOrdered.of_segs (h : DepthOrdered row late s) (hst : t.segs = s.segs) : DepthOrdered row late t :=
  h.of_sameDepth (.of_segs hst)

theorem DepthOrdered.of_event {f : State → State} (h : DepthOrdered row late (f s)) : DepthOrdered row late (event f s) :=
  h.of_segs (event_same f s).1.1

theorem DepthOrdered.draws (h : DepthOrdered row late s) (n : Nat) : DepthOrdered row late { s with draws := n } :=
  h.of_segs rfl

/-! ## A record put -/

theorem mem_linkedTo : j ∈ linkedTo s i ↔ ∃ g, seg? s j = some g ∧ g.cfg.outer = some i := by
  cases hg : seg? s j <;> simp [linkedTo, hg]

/-- The segments that link to a segment still do when its own record is put. -/
theorem DepthOrdered.mem_linkedTo_putSeg (h : DepthOrdered row late s) (hj : j ∈ linkedTo s i) :
    j ∈ linkedTo (putSeg i new s) i := by
  obtain ⟨g, hg, ho⟩ := mem_linkedTo.mp hj
  have hrow := (h.records j g hg).link i ho
  have hne : j ≠ i := by rintro rfl; omega
  exact mem_linkedTo.mpr ⟨g, (seg?_putSeg_ne new s hne).trans hg, ho⟩

/-- A link that leads one row out reads another record: a put leaves the floor that it gives. -/
theorem FitsRows.depthFloor_putSeg (h : FitsRows row i new) (s : State) :
    depthFloor (putSeg i new s) new = depthFloor s new := by
  have hread : ∀ o, new.cfg.outer = some o → seg? (putSeg i new s) o = seg? s o := by
    intro o ho
    have hrow := h.link o ho
    exact seg?_putSeg_ne new s (by rintro rfl; omega)
  exact le_antisymm (depthFloor_le rfl rfl le_rfl fun o ho u hu hum => ⟨u, hread o ho ▸ hu, hum, le_rfl⟩)
    (depthFloor_le rfl rfl le_rfl fun o ho u hu hum => ⟨u, (hread o ho).symm ▸ hu, hum, le_rfl⟩)

/-- A record put with the same links and the same H under a cap that did not rise keeps the law. -/
theorem FitsRows.floor_of_lower_cap (h : FitsRows row i new) (hfloor : depthFloor s g ≤ g.h)
    (hmode : new.cfg.mode = g.cfg.mode) (hlink : new.cfg.outer = g.cfg.outer) (hh : new.h = g.h)
    (hcap : new.effCap ≤ g.effCap) : depthFloor (putSeg i new s) new ≤ new.h := by
  rw [h.depthFloor_putSeg, hh]
  exact le_trans (depthFloor_le hmode hlink hcap fun o _ u hu hum => ⟨u, hu, hum, le_rfl⟩) hfloor

/-- The record put at a segment that may be new or have its links and its row amended: it and the segments that link to it may be
late, the inner ones only if the record can raise their floors. -/
theorem depthOrdered_putSeg (hkeys : tabWf 32 s.segs) (hi : i < 32) (hnew : FitsRows row i new)
    (hrecords : ∀ j v, j ≠ i → seg? s j = some v → FitsRows row j v)
    (hfloors : ∀ j v, j ≠ i → seg? s j = some v → j ∉ late → depthFloor s v ≤ v.h)
    (hself : i ∉ late → depthFloor s new ≤ new.h)
    (hinner : ∀ j ∈ linkedTo s i, j ∉ late → new.cfg.mode = .harvest →
      ∃ g, seg? s i = some g ∧ g.cfg.mode = .harvest ∧ new.h ≤ g.h) :
    DepthOrdered row late (putSeg i new s) := by
  refine ⟨tabWf_put hkeys hi, fun j v hv => ?_, fun j v hv hj => ?_⟩ <;> by_cases hji : j = i
  · subst hji
    rw [seg?_putSeg_self] at hv
    cases hv
    exact hnew
  · rw [seg?_putSeg_ne new s hji] at hv
    exact hrecords j v hji hv
  · subst hji
    rw [seg?_putSeg_self] at hv
    cases hv
    rw [hnew.depthFloor_putSeg]
    exact hself hj
  · rw [seg?_putSeg_ne new s hji] at hv
    refine le_trans (depthFloor_le rfl rfl le_rfl fun o ho u hu hum => ?_) (hfloors j v hji hv hj)
    by_cases hoi : o = i
    · subst hoi
      rw [seg?_putSeg_self] at hu
      cases hu
      exact hinner j (mem_linkedTo.mpr ⟨v, hv, ho⟩) hj hum
    · rw [seg?_putSeg_ne new s hoi] at hu
      exact ⟨u, hu, hum, le_rfl⟩

/-- A record put in place of one with the same configuration: it may be late, and where its H rises so may its inner segments. -/
theorem DepthOrdered.put_late (h : DepthOrdered row late s) (hg : seg? s i = some g) (hcfg : new.cfg = g.cfg)
    (hctl : new.ctl = .forced → g.ctl = .forced) (hsub : late ⊆ insert i late')
    (hself : i ∉ late' → depthFloor s new ≤ new.h)
    (hinner : new.h ≤ g.h ∨ linkedTo s i ⊆ late') :
    DepthOrdered row late' (putSeg i new s) := by
  refine depthOrdered_putSeg h.keys (h.key_lt hg) ((h.records i g hg).of_cfg hcfg hctl)
    (fun j v _ hv => h.records j v hv)
    (fun j v hji hv hj => h.floors j v hv fun hl => (hsub hl).elim hji hj) hself fun j hlink hj hm => ?_
  rcases hinner with hle | hlate
  · exact ⟨g, hg, hcfg ▸ hm, hle⟩
  · exact absurd (hlate hlink) hj

/-- A record put that keeps the law makes no segment late but, where its H rises, those that link to it. -/
theorem DepthOrdered.put_keeping (h : DepthOrdered row (insert i late) s) (hg : seg? s i = some g)
    (hnew : KeepsFloor (depthFloor s g) g new) (hinner : new.h ≤ g.h ∨ linkedTo s i ⊆ late) :
    DepthOrdered row late (putSeg i new s) :=
  h.put_late hg hnew.cfg hnew.unforced subset_rfl
    (fun _ => by rw [depthFloor_congr hnew.cfg hnew.effCap]; exact hnew.level) hinner

/-! ## Depth raises (R81, R82) -/

/-- R81: a raise makes no segment FORCED. -/
theorem afterRaise_unforced {o : Nat} (h : (afterRaise o g).ctl = .forced) : g.ctl = .forced := by
  unfold afterRaise at h
  dsimp only at h
  split at h
  · exact h
  · cases hc : g.ctl with
    | forced => rfl
    | tracking => simp [hc] at h
    | dwell =>
      rw [hc] at h
      dsimp only at h
      split at h <;> cases h
    | daylit => simp [hc] at h
    | strike => simp [hc] at h

/-- R81: a raise takes H to the depth target at least. -/
theorem target_le_afterRaise {o : Nat} (h : g.ctl ≠ .forced) : min o g.effCap ≤ (afterRaise o g).h := by
  unfold afterRaise
  dsimp only
  split
  · assumption
  · cases hc : g.ctl with
    | forced => exact absurd hc h
    | tracking => exact le_rfl
    | dwell =>
      dsimp only
      split <;> exact le_rfl
    | daylit => exact min_le_min (le_max_right _ _) le_rfl
    | strike => exact le_rfl

/-- R81: the record that a raise makes of a segment keeps the law. -/
theorem afterRaise_keepsFloor (h : FitsRows row i g) : KeepsFloor (depthFloor s g) g (afterRaise (linkedH s g) g) where
  cfg := afterRaise_cfg _ g
  effCap := afterRaise_effCap _ g
  unforced := afterRaise_unforced
  level := by
    by_cases hm : g.cfg.mode = .harvest
    · rw [depthFloor_eq_min]
      exact target_le_afterRaise (h.unforced hm)
    · rw [depthFloor_of_not_harvest hm]
      exact Nat.zero_le _

/-- R81: a segment that its raise leaves as it is keeps the law. -/
theorem FitsRows.level_of_unraised (h : FitsRows row i g) (hr : raised s g = none) : depthFloor s g ≤ g.h := by
  have htable := raised_getD s g
  rw [hr, Option.getD_none] at htable
  have hlevel := (afterRaise_keepsFloor (s := s) h).level
  rwa [← htable] at hlevel

theorem FitsRows.raised_keepsFloor (h : FitsRows row i g) (hr : raised s g = some new) :
    KeepsFloor (depthFloor s g) g new := by
  have htable := raised_getD s g
  rw [hr, Option.getD_some] at htable
  rw [htable]
  exact afterRaise_keepsFloor h

/-- An operation that puts one late segment right while the segments of `late` may stay late, taken at each segment of a list. -/
theorem forEach_puts_right {f : Nat → State → State} {ks : List Nat}
    (h : ∀ k ∈ ks, ∀ (now : Set Nat) (s : State), late ⊆ now → DepthOrdered row (insert k now) s →
      DepthOrdered row now (f k s)) :
    ∀ {s : State}, DepthOrdered row ({j | j ∈ ks} ∪ late) s → DepthOrdered row late (forEach ks f s) := by
  induction ks with
  | nil => exact fun hs => hs.mono (by simp)
  | cons k ks ih =>
    intro s hs
    refine ih (fun j hj => h j (List.mem_cons_of_mem _ hj))
      (h k List.mem_cons_self _ s Set.subset_union_right (hs.mono ?_))
    rintro j (hj | hj)
    · exact (List.mem_cons.mp hj).imp id Or.inl
    · exact .inr (.inr hj)

theorem DepthOrdered.row_of_mem_innerOf (h : DepthOrdered row late s) (hj : j ∈ innerOf s i) : row j = row i + 1 := by
  obtain ⟨e, he, ho, rfl⟩ := mem_innerOf.mp hj
  exact (h.records e.1 e.2 (tabGet_of_mem h.keys.1 he)).link i ho

theorem linkedTo_subset_innerOf : linkedTo s i ⊆ {j | j ∈ innerOf s i} := by
  intro j hj
  obtain ⟨g, hg, ho⟩ := mem_linkedTo.mp hj
  exact mem_innerOf.mpr ⟨_, mem_of_tabGet hg, ho, rfl⟩

/-- R81, R82: a depth raise puts its segment right and hands the rise inward. It passes through `n` rows, and no more than 4 stand
from its own row on. -/
theorem depthRaise_puts_right (n : Nat) : ∀ {i : Nat} {late : Set Nat} {s : State}, 5 ≤ row i + n →
    DepthOrdered row (insert i late) s → DepthOrdered row late (depthRaise n i s) := by
  induction n with
  | zero =>
    intro i late s hrow h
    refine h.in_time fun _ g hg => ?_
    have := (h.records i g hg).row_le
    omega
  | succ n ih =>
    intro i late s hrow h
    cases hg : seg? s i with
    | none =>
      rw [depthRaise_noSegment hg]
      exact h.in_time_of_none hg
    | some g =>
      have hfits := h.records i g hg
      cases hr : raised s g with
      | none =>
        rw [depthRaise_unraised hg hr]
        exact h.in_time_of_some hg fun _ => hfits.level_of_unraised hr
      | some new =>
        rw [depthRaise_raised hg hr]
        have hput : DepthOrdered row (linkedTo s i ∪ late) (putSeg i new s) :=
          (h.mono (Set.insert_subset_insert Set.subset_union_right)).put_keeping hg (hfits.raised_keepsFloor hr)
            (.inr Set.subset_union_left)
        refine forEach_puts_right (fun k hk now t _ ht => ih ?_ ht)
          (hput.mono (Set.union_subset_union_left late linkedTo_subset_innerOf))
        have := h.row_of_mem_innerOf hk
        omega

/-- R82: the raises of the inner segments of a segment put them right. -/
theorem raiseInner_puts_right (hi : 1 ≤ row i) (h : DepthOrdered row (linkedTo s i ∪ late) s) :
    DepthOrdered row late (raiseInner i s) := by
  refine forEach_puts_right (fun j hj _ _ _ ht => depthRaise_puts_right 3 ?_ ht)
    (h.mono (Set.union_subset_union_left late linkedTo_subset_innerOf))
  have := h.row_of_mem_innerOf hj
  omega

/-- R76, R82: a record put that keeps the law, its rise handed inward, makes no segment late. -/
theorem DepthOrdered.put_rising (h : DepthOrdered row late s) (hg : seg? s i = some g)
    (hnew : KeepsFloor (depthFloor s g) g new) : DepthOrdered row late (putRising i g new s) := by
  by_cases hrise : g.h < new.h
  · rw [putRising, if_pos hrise]
    refine raiseInner_puts_right (h.records i g hg).row_pos ?_
    refine (h.mono (Set.subset_union_right.trans (Set.subset_insert i _))).put_keeping hg hnew (.inr fun j hj => ?_)
    exact .inl (h.mem_linkedTo_putSeg hj)
  · rw [putRising_level (Nat.not_lt.mp hrise)]
    exact (h.mono (Set.subset_insert i late)).put_keeping hg hnew (.inl (Nat.not_lt.mp hrise))

end Ordered

end Sys2Proof.Machine
end

section
/-! SUPPORT. The events at a controller that move H keep the law of the depth ordering (R79): steps and strikes (R54, R57 to R60,
R63), the expiries of the off-delay and the blind timer (R62, R67), the changes of the effective cap (R68, R87). -/

namespace Sys2Proof.Machine

/-! ## The record after a step -/

section Records

variable {floor e : Nat} {s : State} {g w new : Segment}

theorem KeepsFloor.of_depthPart (h : depthPart new = depthPart g) (hh : floor ≤ g.h) : KeepsFloor floor g new := by
  obtain ⟨hcfg, hcap, hlevel, hctl⟩ := depthPart_eq_iff.mp h
  exact ⟨hcfg, hcap, hctl.mp, hlevel ▸ hh⟩

theorem KeepsFloor.trans (h : KeepsFloor floor g w) (k : KeepsFloor floor w new) : KeepsFloor floor g new :=
  ⟨k.cfg.trans h.cfg, k.effCap.trans h.effCap, fun hc => h.unforced (k.unforced hc), k.level⟩

theorem depthPart_startOffDelay (g : Segment) : depthPart (startOffDelay g) = depthPart g := by
  unfold startOffDelay
  split <;> rfl

theorem depthPart_monitorShortfall (e : Nat) (g : Segment) : depthPart (monitorShortfall e g) = depthPart g := by
  unfold monitorShortfall
  split
  · split <;> rfl
  · rfl

/-- R57, R58: a step that was made leaves the H it was made to. -/
theorem afterStep_keepsFloor {h : Nat} (hh : floor ≤ h) : KeepsFloor floor g (afterStep g h) := by
  unfold afterStep
  split
  · split
    · exact ⟨rfl, rfl, nofun, hh⟩
    · exact ⟨rfl, rfl, id, hh⟩
  · split
    · exact ⟨rfl, rfl, nofun, hh⟩
    · exact ⟨rfl, rfl, id, hh⟩
  · exact ⟨rfl, rfl, id, hh⟩

/-- R54: an up step rises toward the cap, which is above the floor. -/
theorem madeUp_keepsFloor (hcap : floor ≤ g.effCap) (hh : floor ≤ g.h) : KeepsFloor floor g (madeUp g) := by
  have hstep : KeepsFloor floor g (afterStep g (upH g)) := afterStep_keepsFloor (by unfold upH; omega)
  exact hstep.trans (.of_depthPart rfl hstep.level)

/-- R57, R58, R80: no step goes below the floor. -/
theorem evaluate_keepsFloor (hcap : floor ≤ g.effCap) (hh : floor ≤ g.h) : KeepsFloor floor g (evaluate floor e g) := by
  have hm : KeepsFloor floor g (monitorShortfall e g) := .of_depthPart (depthPart_monitorShortfall e g) hh
  have hreload : KeepsFloor floor g (reloadShorter (monitorShortfall e g)) := hm.trans (.of_depthPart rfl hm.level)
  have hdown : floor ≤ downH floor (monitorShortfall e g) := le_min hm.level (le_max_right _ _)
  unfold evaluate
  dsimp only
  split
  · split
    · exact hreload
    · exact hm.trans (madeUp_keepsFloor (hm.effCap ▸ hcap) hm.level)
  · split
    · split
      · exact hreload
      · have hstep := hm.trans (afterStep_keepsFloor hdown)
        exact hstep.trans (.of_depthPart rfl hstep.level)
    · exact hreload

/-- R59, R80: a strike takes H to the floor at least. -/
theorem depthFloor_le_strikeH (s : State) (g : Segment) : depthFloor s g ≤ strikeH s g := by
  unfold depthFloor strikeH
  cases activeOuter s g with
  | none => exact Nat.zero_le _
  | some u => exact min_le_min (le_max_right _ _) le_rfl

theorem struck_keepsFloor (s : State) (g : Segment) : KeepsFloor (depthFloor s g) g (struck s g) :=
  ⟨rfl, rfl, nofun, depthFloor_le_strikeH s g⟩

/-- R55 to R60: a step event leaves a record that keeps the law. -/
theorem stepped_keepsFloor (hh : depthFloor s g ≤ g.h) : KeepsFloor (depthFloor s g) g (stepped s g) := by
  have hwait : KeepsFloor (depthFloor s g) g (startOffDelay g) := .of_depthPart (depthPart_startOffDelay g) hh
  have hsee : KeepsFloor (depthFloor s g) g (seeAgain (startOffDelay g)) := hwait.trans (.of_depthPart rfl hwait.level)
  have hfloor : depthFloor s (seeAgain (startOffDelay g)) = depthFloor s g := depthFloor_congr hsee.cfg hsee.effCap
  unfold stepped
  split
  · exact .of_depthPart rfl hh
  · exact ⟨rfl, rfl, nofun, hh⟩
  · split
    · exact .of_depthPart rfl hh
    · split
      · exact hwait.trans (.of_depthPart rfl hwait.level)
      · dsimp only
        split
        · split
          · exact hsee.trans (hfloor ▸ struck_keepsFloor s _)
          · exact hsee.trans (.of_depthPart rfl hsee.level)
        · exact hsee.trans (evaluate_keepsFloor (hsee.effCap ▸ depthFloor_le_effCap s g) hsee.level)

/-- R63: an early step leaves a record that keeps the law. -/
theorem earlyStepped_keepsFloor (hh : depthFloor s g ≤ g.h) : KeepsFloor (depthFloor s g) g (earlyStepped s g) := by
  have hup : KeepsFloor (depthFloor s g) g (madeUp g) := madeUp_keepsFloor (depthFloor_le_effCap s g) hh
  have hsame : KeepsFloor (depthFloor s g) g g := .of_depthPart rfl hh
  unfold earlyStepped
  split
  · split
    · exact hsame
    · split
      · split
        · exact hup
        · exact hsame
      · split
        · exact hup
        · exact hsame
      · split
        · exact struck_keepsFloor s g
        · exact hsame
      · exact hsame
  · exact hsame

/-- R67: a blind expiry lowers no H. -/
theorem fellBack_keepsFloor (hh : floor ≤ g.h) : KeepsFloor floor g (fellBack g) :=
  ⟨rfl, rfl, nofun, hh.trans (le_max_left _ _)⟩

/-- R62, R84: an off-delay darkens a segment only where its floor is 0. -/
theorem offDelayed_keepsFloor (hh : depthFloor s g ≤ g.h) :
    KeepsFloor (depthFloor s g) g (offDelayed s g) ∧ (offDelayed s g).h ≤ g.h := by
  unfold offDelayed
  cases ha : activeOuter s g with
  | none => exact ⟨⟨rfl, rfl, nofun, by simp [depthFloor, ha]⟩, Nat.zero_le _⟩
  | some u =>
    dsimp only
    split
    · exact ⟨.of_depthPart rfl hh, le_rfl⟩
    · rename_i hdark
      refine ⟨⟨rfl, rfl, nofun, ?_⟩, Nat.zero_le _⟩
      simp only [depthFloor, ha]
      omega

end Records

/-! ## The events -/

section Events

variable {row : Nat → Nat} {late : Set Nat} {s : State} {i old : Nat} {g new : Segment}

/-- A segment whose expiry is due takes it; else nothing changes. -/
theorem segExpiry_ordered {timer : Segment → Timer} {f : Segment → State → State} (h : DepthOrdered row ∅ s)
    (hf : ∀ g, seg? s i = some g → depthFloor s g ≤ g.h → DepthOrdered row ∅ (f g s)) :
    DepthOrdered row ∅ (segExpiry i timer f s) := by
  unfold segExpiry
  cases hg : seg? s i with
  | none => rwa [onSeg_none hg]
  | some g =>
    rw [onSeg_some hg]
    split
    · exact hf g hg (h.floors i g hg (Set.notMem_empty i))
    · exact h

/-- R53: a step event. -/
theorem stepExpiry_ordered (h : DepthOrdered row ∅ s) : DepthOrdered row ∅ (stepExpiry i s) :=
  segExpiry_ordered h fun _ hg hh => h.put_rising hg (stepped_keepsFloor hh)

/-- R62: an off-delay expiry. -/
theorem offDelayExpiry_ordered (h : DepthOrdered row ∅ s) :
    DepthOrdered row ∅ (segExpiry i (·.offTimer) (fun g t => putSeg i (offDelayed t g) t) s) := by
  refine segExpiry_ordered h fun g hg hh => ?_
  obtain ⟨hnew, hle⟩ := offDelayed_keepsFloor hh
  exact (h.mono (Set.subset_insert i ∅)).put_keeping hg hnew (.inl hle)

/-- R67: a blind expiry. -/
theorem blindTimerExpiry_ordered (h : DepthOrdered row ∅ s) :
    DepthOrdered row ∅ (segExpiry i (·.blindTimer) (fun g t => putRising i g (fellBack g) t) s) :=
  segExpiry_ordered h fun _ hg hh => h.put_rising hg (fellBack_keepsFloor hh)

/-- R63: a sky change at a segment. -/
theorem skyChange_ordered (h : DepthOrdered row ∅ s) : DepthOrdered row ∅ (skyChange i s) := by
  unfold skyChange
  cases hg : seg? s i with
  | none => rwa [onSeg_none hg]
  | some g =>
    rw [onSeg_some hg]
    exact h.put_rising hg (earlyStepped_keepsFloor (h.floors i g hg (Set.notMem_empty i)))

theorem takeSkyEvents_ordered (ks : List Nat) (h : DepthOrdered row ∅ s) : DepthOrdered row ∅ (takeSkyEvents ks s) :=
  takeSkyEvents_keeps (P := DepthOrdered row ∅) (fun _ _ ht => (skyChange_ordered ht).of_event)
    (fun _ _ ht => (stepExpiry_ordered ht).of_event) ks h

/-- R40, R41: a sample and the sky changes it gives. -/
theorem takeSample_ordered (a x : Nat) (h : DepthOrdered row ∅ s) : DepthOrdered row ∅ (takeSample a x s) := by
  refine onInput_rel (R := fun _ t => DepthOrdered row ∅ t) h fun n _ => ?_
  split
  · dsimp only
    split
    · obtain ⟨ls, m, _, heq⟩ := inFreeOrder_eq (skyKeys _ _) takeSkyEvents _
      rw [heq]
      exact takeSkyEvents_ordered ls (h.of_segs rfl)
    · exact h.of_segs rfl
  · exact h

/-! ## Changes of the effective cap (R68, R87) -/

/-- R68: the clamp takes H to the new cap, which is above the floor. -/
theorem capClamped_keepsFloor {floor : Nat} (hcap : floor ≤ g.effCap) : KeepsFloor floor g (capClamped g.effCap g) := by
  unfold capClamped
  split
  · exact ⟨rfl, rfl, nofun, hcap⟩
  · exact ⟨rfl, rfl, id, hcap⟩

theorem capClamped_h (cap : Nat) (g : Segment) : (capClamped cap g).h = cap := by
  unfold capClamped
  split <;> rfl

/-- R68, R87: a cap-change event puts its segment right, if a cap that did not rise has left it so. -/
theorem capChange_puts_right (h : DepthOrdered row (insert i late) s)
    (hfall : i ∉ late → ∀ g, seg? s i = some g → g.effCap ≤ old → depthFloor s g ≤ g.h) :
    DepthOrdered row late (capChange i old s) := by
  unfold capChange
  cases hg : seg? s i with
  | none =>
    rw [onSeg_none hg]
    exact h.in_time_of_none hg
  | some g =>
    rw [onSeg_some hg]
    split
    · split
      · rename_i hlow
        exact h.put_keeping hg (capClamped_keepsFloor (depthFloor_le_effCap s g))
          (.inl (by rw [capClamped_h]; exact hlow.le))
      · split
        · have := (h.records i g hg).row_pos
          exact depthRaise_puts_right 4 (by omega) h
        · rename_i hrise
          exact h.in_time_of_some hg fun hl => hfall hl g hg (Nat.not_lt.mp hrise)
    · rename_i hm
      exact h.in_time_of_some hg fun _ => by rw [depthFloor_of_not_harvest hm]; exact Nat.zero_le _

/-- R122: an effective cap computed again. -/
theorem recomputeCap_ordered (h : DepthOrdered row ∅ s) : DepthOrdered row ∅ (recomputeCap i s) := by
  unfold recomputeCap
  cases hg : seg? s i with
  | none => rwa [onSeg_none hg]
  | some g =>
    rw [onSeg_some hg]
    dsimp only
    split
    · exact h
    · refine capChange_puts_right (h.put_late hg rfl id (by simp) (by simp) (.inl le_rfl)) fun _ g' hg' hle => ?_
      rw [seg?_putSeg_self] at hg'
      cases hg'
      have hfits : FitsRows row i { g with effCap := effectiveCap s.composer g.cfg.cap } :=
        (h.records i g hg).of_cfg rfl id
      exact hfits.floor_of_lower_cap (h.floors i g hg (Set.notMem_empty i)) rfl rfl rfl hle

/-- R122: a floor-wide change of the caps, in every order. -/
theorem recomputeAllCaps_ordered (h : DepthOrdered row ∅ s) : DepthOrdered row ∅ (recomputeAllCaps s) :=
  forEachFree_keeps (P := DepthOrdered row ∅) (fun _ n ht => ht.draws n) (fun _ _ _ ht => (recomputeCap_ordered ht).of_event) h

end Events

end Sys2Proof.Machine
end

section
/-! SUPPORT. The requests on segments keep the law of the depth ordering (R79): a record defined or amended makes late itself and
the segments that link to it at the most, and the raises of R85 and R86 put them right. -/

namespace Sys2Proof.Machine

section Requests

variable {row : Nat → Nat} {late : Set Nat} {s t : State} {i j n old : Nat} {g new : Segment} {c : SegConfig}

/-! ## A record defined or amended -/

theorem putSeg_putSeg (i : Nat) (g new : Segment) (s : State) : putSeg i new (putSeg i g s) = putSeg i new s := by
  have htab : ∀ t : Tab Segment, tabPut (tabPut t i g) i new = tabPut t i new := by
    intro t
    induction t with
    | nil => simp [tabPut]
    | cons e t ih =>
      obtain ⟨k, w⟩ := e
      by_cases hlt : i < k
      · simp [tabPut, hlt]
      · by_cases heq : i = k
        · simp [tabPut, heq]
        · simp [tabPut, hlt, heq, ih]
  simp only [putSeg, htab]

/-- The rows of the floor with a configuration at one segment. -/
def rowsWith (s : State) (i : Nat) (c : SegConfig) : Nat → Nat := Function.update (rowOf s) i c.row

@[simp] theorem rowsWith_self (s : State) (i : Nat) (c : SegConfig) : rowsWith s i c i = c.row := Function.update_self ..

@[simp] theorem rowsWith_ne (c : SegConfig) (h : j ≠ i) : rowsWith s i c j = rowOf s j := Function.update_of_ne h ..

/-- R13: the references of a configuration fit the floor model, and no row leaves the segments that link to it behind. -/
structure FitsFloor (s : State) (i : Nat) (c : SegConfig) : Prop where
  key_lt : i < 32
  row_pos : 1 ≤ c.row
  row_le : c.row ≤ 4
  outer : outerFits s i c = true
  inner : ∀ j, j ≠ i → j ∈ linkedTo s i → c.row = rowOf s i

/-- R13: a record whose references fit stands in its row, and so does every other record. -/
theorem FitsFloor.fitsRows (h : FitsFloor s i c) (hcfg : new.cfg = c) (hunforced : c.mode = .harvest → new.ctl ≠ .forced) :
    FitsRows (rowsWith s i c) i new where
  row_eq := by rw [hcfg, rowsWith_self]
  row_pos := by rw [rowsWith_self]; exact h.row_pos
  row_le := by rw [rowsWith_self]; exact h.row_le
  link := by
    intro o ho
    rw [hcfg] at ho
    have hne : o ≠ i := by
      rintro rfl
      have houter := h.outer
      simp [outerFits, ho] at houter
    rw [rowsWith_self, rowsWith_ne c hne]
    exact outerFits_row h.outer ho
  unforced := hcfg ▸ hunforced

theorem FitsFloor.fitsRows_other (h : FitsFloor s i c) (hji : j ≠ i) (hg : seg? s j = some g)
    (hfits : FitsRows (rowOf s) j g) : FitsRows (rowsWith s i c) j g where
  row_eq := by rw [rowsWith_ne c hji]; exact hfits.row_eq
  row_pos := by rw [rowsWith_ne c hji]; exact hfits.row_pos
  row_le := by rw [rowsWith_ne c hji]; exact hfits.row_le
  link := by
    intro o ho
    rw [rowsWith_ne c hji, hfits.link o ho]
    by_cases hoi : o = i
    · subst hoi
      rw [rowsWith_self, h.inner j hji (mem_linkedTo.mpr ⟨g, hg, ho⟩)]
    · rw [rowsWith_ne c hoi]
  unforced := hfits.unforced

/-- R12, R14: a record with fitting references put between events. -/
theorem FitsFloor.depthOrdered (h : FitsFloor s i c) (hs : DepthOrdered (rowOf s) ∅ s) (hcfg : new.cfg = c)
    (hunforced : c.mode = .harvest → new.ctl ≠ .forced) (hself : i ∈ late ∨ depthFloor s new ≤ new.h)
    (hinner : c.mode = .harvest → linkedTo s i ⊆ late ∨ ∃ g, seg? s i = some g ∧ g.cfg.mode = .harvest ∧ new.h ≤ g.h) :
    DepthOrdered (rowsWith s i c) late (putSeg i new s) :=
  depthOrdered_putSeg hs.keys h.key_lt (h.fitsRows hcfg hunforced)
    (fun j v hji hv => h.fitsRows_other hji hv (hs.records j v hv))
    (fun j v _ hv _ => hs.floors j v hv (Set.notMem_empty j)) (fun hi => hself.resolve_left hi)
    fun _ hj hlate hm => (hinner (hcfg ▸ hm)).resolve_left fun hsub => hlate (hsub hj)

/-! ## A segment that enters HARVEST (R70, R86) -/

/-- R82: a depth raise changes no configuration. -/
theorem depthRaise_cfg (n : Nat) : ∀ (i : Nat) (s : State) (j : Nat),
    (seg? (depthRaise n i s) j).map (·.cfg) = (seg? s j).map (·.cfg) := by
  induction n with
  | zero => exact fun _ _ _ => rfl
  | succ n ih =>
    intro i s j
    rcases depthRaise_cases n i s with he | ⟨g, new, hg, hcfg, he⟩
    · rw [he]
    · rw [he]
      refine forEach_keeps (P := fun t => (seg? t j).map (·.cfg) = (seg? s j).map (·.cfg))
        (fun k _ t ht => (ih k t j).trans ht) ?_
      rw [seg?_putSeg]
      split
      · rename_i hji
        subst hji
        rw [hg, Option.map_some, Option.map_some, hcfg]
      · rfl

theorem linkedTo_depthRaise : linkedTo (depthRaise n j s) i = linkedTo s i := by
  simp only [linkedTo, depthRaise_cfg]

/-- R86: entering HARVEST puts one record, and raises. -/
theorem enterHarvest_putSeg (i : Nat) (g : Segment) (s : State) :
    enterHarvest i (putSeg i g s) = raiseInner i (depthRaise 4 i (putSeg i (enteredHarvest g) s)) := by
  rw [enterHarvest, onSeg_some (seg?_putSeg_self i g s), putSeg_putSeg]

theorem enteredHarvest_unforced (g : Segment) : (enteredHarvest g).ctl ≠ .forced := by
  simp only [enteredHarvest]
  split <;> decide

/-- R86: the raises of a segment that enters HARVEST put it and its inner segments right. -/
theorem enterHarvest_puts_right (h : FitsFloor s i c) (hs : DepthOrdered (rowOf s) ∅ s) (hcfg : g.cfg = c) :
    DepthOrdered (rowsWith s i c) ∅ (enterHarvest i (putSeg i g s)) := by
  subst hcfg
  have hput : DepthOrdered (rowsWith s i g.cfg) (insert i (linkedTo (putSeg i (enteredHarvest g) s) i))
      (putSeg i (enteredHarvest g) s) :=
    h.depthOrdered hs rfl (fun _ => enteredHarvest_unforced g) (.inl (Set.mem_insert i _)) fun _ =>
      .inl fun j hj => .inr (hs.mem_linkedTo_putSeg hj)
  have hpos : 1 ≤ rowsWith s i g.cfg i := by rw [rowsWith_self]; exact h.row_pos
  rw [enterHarvest_putSeg]
  refine raiseInner_puts_right hpos ?_
  rw [linkedTo_depthRaise, Set.union_empty]
  exact depthRaise_puts_right 4 (by omega) hput

/-- R71: a record in MANUAL mode keeps the law, and so do the segments that link to it. -/
theorem FitsFloor.depthOrdered_manual (h : FitsFloor s i c) (hs : DepthOrdered (rowOf s) ∅ s) (hcfg : new.cfg = c)
    (hm : c.mode = .manual) : DepthOrdered (rowsWith s i c) ∅ (putSeg i new s) := by
  have hmode : c.mode ≠ .harvest := by rw [hm]; decide
  refine h.depthOrdered hs hcfg (fun hh => absurd hh hmode) (.inr ?_) fun hh => absurd hh hmode
  rw [depthFloor_of_not_harvest (hcfg ▸ hmode)]
  exact Nat.zero_le _

/-! ## DEFINE SEGMENT and RETIRE SEGMENT -/

/-- R15, R85: a segment defined. -/
theorem defineSeg_ordered (h : FitsFloor s i c) (hs : DepthOrdered (rowOf s) ∅ s) :
    DepthOrdered (rowsWith s i c) ∅ (defineSeg i c s) := by
  unfold defineSeg
  dsimp only
  split
  · rename_i hm
    exact h.depthOrdered_manual hs rfl hm
  · exact enterHarvest_puts_right h hs rfl

/-- A record that leaves the table raises no floor. -/
theorem DepthOrdered.delSeg (h : DepthOrdered row late s) (i : Nat) :
    DepthOrdered row late { s with segs := tabDel s.segs i } := by
  have hread : ∀ j v, seg? { s with segs := tabDel s.segs i } j = some v → seg? s j = some v := by
    intro j v hv
    by_cases hji : j = i
    · subst hji
      exact absurd (hv.symm.trans (tabGet_del_self s.segs j)) nofun
    · exact (tabGet_del_ne s.segs hji).symm.trans hv
  refine ⟨tabWf_del h.keys i, fun j v hv => h.records j v (hread j v hv), fun j v hv hj => ?_⟩
  exact le_trans (depthFloor_le rfl rfl le_rfl fun o _ u hu hum => ⟨u, hread o u hu, hum, le_rfl⟩)
    (h.floors j v (hread j v hv) hj)

theorem retireSeg_ordered (h : DepthOrdered row ∅ s) : DepthOrdered row ∅ (retireSeg i s) :=
  (h.of_sameDepth (retireRecords_sameDepth _ _ s)).delSeg i

/-! ## AMEND SEGMENT (R14) -/

/-- R14 step 1: the record with the configuration carried, and its effective cap computed again where its cap is amended. -/
def amendedSeg (s : State) (g : Segment) (c : SegConfig) : Segment :=
  { g with cfg := c, effCap := if c.cap = g.cfg.cap then g.effCap else effectiveCap s.composer c.cap }

theorem storeCap_amended (i : Nat) (g : Segment) (c : SegConfig) (s : State) :
    (if c.cap = g.cfg.cap then putSeg i { g with cfg := c } s else storeCap i (putSeg i { g with cfg := c } s))
      = putSeg i (amendedSeg s g c) s := by
  unfold amendedSeg
  split
  · rfl
  · rw [storeCap, onSeg_some (seg?_putSeg_self i _ s), putSeg_putSeg]
    rfl

/-- R14: the segment may be late until the raise at the request's end (R85), where its mode or its link is amended. -/
def lateUntilLinkRaise (i : Nat) (g : Segment) (c : SegConfig) : Set Nat :=
  {j | j = i ∧ ¬(c.outer = g.cfg.outer ∧ c.mode = g.cfg.mode)}

theorem not_mem_lateUntilLinkRaise :
    i ∉ lateUntilLinkRaise i g c ↔ c.outer = g.cfg.outer ∧ c.mode = g.cfg.mode := by
  simp [lateUntilLinkRaise]

/-- R14 step 3: a cap-change event puts right what the new cap has made late. -/
theorem capStep_puts_right (h : DepthOrdered row (insert i late) s)
    (hfall : i ∉ late → ∀ g, seg? s i = some g → g.effCap ≤ old → depthFloor s g ≤ g.h) :
    DepthOrdered row late (capStep i old s) := by
  unfold capStep
  cases hg : seg? s i with
  | none =>
    rw [onSeg_none hg]
    exact h.in_time_of_none hg
  | some g =>
    rw [onSeg_some hg]
    split
    · rename_i hcap
      exact h.in_time_of_some hg fun hl => hfall hl g hg hcap.le
    · exact capChange_puts_right h hfall

/-- R14 steps 2 and 3: the mode change and the cap change of an amended record. -/
theorem capStep_modeChange_ordered (h : FitsFloor s i c) (hs : DepthOrdered (rowOf s) ∅ s) (hg : seg? s i = some g) :
    DepthOrdered (rowsWith s i c) (lateUntilLinkRaise i g c)
      (capStep i g.effCap (modeChange i g.cfg.mode c.mode (putSeg i (amendedSeg s g c) s))) := by
  have hput (new : Segment) (hcfg : new.cfg = c) (hm : c.mode = .manual) :
      DepthOrdered (rowsWith s i c) (insert i (lateUntilLinkRaise i g c)) (putSeg i new s) :=
    (h.depthOrdered_manual hs hcfg hm).mono (Set.empty_subset _)
  have hmoved (hm : c.mode ≠ g.cfg.mode) : i ∈ lateUntilLinkRaise i g c := ⟨rfl, fun hsame => hm hsame.2⟩
  unfold modeChange
  split
  · rename_i hold hnew
    refine capStep_puts_right ((enterHarvest_puts_right h hs rfl).mono (Set.empty_subset _)) fun hl => ?_
    exact absurd (hmoved (by rw [hold, hnew]; decide)) hl
  · rename_i hold hnew
    rw [leaveHarvest, onSeg_some (seg?_putSeg_self i _ s), putSeg_putSeg]
    refine capStep_puts_right (hput _ rfl hnew) fun hl => ?_
    exact absurd (hmoved (by rw [hold, hnew]; decide)) hl
  · rename_i hne1 hne2
    have hsame : c.mode = g.cfg.mode := by
      cases hold : g.cfg.mode with
      | manual =>
        cases hnew : c.mode with
        | manual => rfl
        | harvest => exact (hne1 hold hnew).elim
      | harvest =>
        cases hnew : c.mode with
        | manual => exact (hne2 hold hnew).elim
        | harvest => rfl
    have hunforced : c.mode = .harvest → g.ctl ≠ .forced := fun hm => (hs.records i g hg).unforced (hsame ▸ hm)
    refine capStep_puts_right (h.depthOrdered hs rfl hunforced (.inl (Set.mem_insert i _)) fun hm =>
      .inr ⟨g, hg, hsame ▸ hm, le_rfl⟩) fun hl g' hg' hcap => ?_
    rw [seg?_putSeg_self] at hg'
    cases hg'
    obtain ⟨hlink, _⟩ := not_mem_lateUntilLinkRaise.mp hl
    have hfits : FitsRows (rowsWith s i c) i (amendedSeg s g c) := h.fitsRows rfl hunforced
    exact hfits.floor_of_lower_cap (hs.floors i g hg (Set.notMem_empty i)) hsame hlink rfl hcap

/-- R14: the effects of an amended configuration, the link raise last (R85). -/
theorem amendEffects_ordered (h : FitsFloor s i c) (hs : DepthOrdered (rowOf s) ∅ s) (hg : seg? s i = some g) :
    DepthOrdered (rowsWith s i c) ∅ (amendEffects i g c (putSeg i { g with cfg := c } s)) := by
  have hcap := capStep_modeChange_ordered h hs hg
  have hpos : 1 ≤ rowsWith s i c i := by rw [rowsWith_self]; exact h.row_pos
  unfold amendEffects
  dsimp only
  rw [storeCap_amended]
  generalize capStep i g.effCap _ = s3 at hcap ⊢
  have hcut : SameDepth s3 (if c.cutOff = g.cfg.cutOff then s3 else cutOffChanged i s3) := by
    split
    · exact .refl s3
    · exact cutOffChanged_sameDepth i s3
  generalize (if c.cutOff = g.cfg.cutOff then s3 else cutOffChanged i s3) = s4 at hcut ⊢
  have hsensing : SameDepth s4 (if c.sensing = g.cfg.sensing then s4 else sensingChanged i s4) := by
    split
    · exact .refl s4
    · exact sensingChanged_sameDepth i s4
  have hlate := hcap.of_sameDepth (hcut.trans hsensing)
  split
  · rename_i hlink
    exact hlate.mono fun j hj => absurd hlink hj.2
  · exact depthRaise_puts_right 4 (by omega) (hlate.mono fun j hj => .inl hj.1)

/-- R14: an amended record, its shortfall flag cleared or not. -/
theorem amendSeg_ordered (clear : Bool) (h : FitsFloor s i c) (hs : DepthOrdered (rowOf s) ∅ s) (hg : seg? s i = some g) :
    DepthOrdered (rowsWith s i c) ∅ (amendSeg i g c clear s) := by
  refine (amendEffects_ordered h hs hg).of_sameDepth ?_
  unfold amendSeg
  dsimp only
  split
  · exact clearShortfall_sameDepth i _
  · exact .refl _

end Requests

end Sys2Proof.Machine
end

section
/-! SUPPORT. The warm reset (R88): once every HARVEST segment has its H, the segments from row 2 on are late, and each row that is
raised, from the window inward, puts its segments right. -/

namespace Sys2Proof.Machine

/-- The segments from a row on, inward. -/
def rowsFrom (row : Nat → Nat) (r : Nat) : Set Nat := {j | r ≤ row j}

section Rows

variable {row : Nat → Nat} {late : Set Nat} {s : State} {i r : Nat} {g : Segment}

/-! ## The records at a warm reset (R78) -/

@[simp] theorem warmSeg_cfg (c : Composer) (g : Segment) : (warmSeg c g).cfg = g.cfg := by
  unfold warmSeg
  dsimp only
  split <;> rfl

theorem warmSeg_unforced (c : Composer) (hm : g.cfg.mode = .harvest) : (warmSeg c g).ctl ≠ .forced := by
  simp [warmSeg, hm]

theorem seg?_warmBlocks (s : State) (i : Nat) : seg? (warmBlocks s) i = (seg? s i).map (warmSeg s.composer) :=
  tabGet_map s.segs (warmSeg s.composer) i

/-- A segment in row 1 has no outer segment, and floor 0. -/
theorem FitsRows.depthFloor_of_row_one (h : FitsRows row i g) (hrow : row i ≤ 1)
    (hrows : ∀ j v, seg? s j = some v → 1 ≤ row j) : depthFloor s g = 0 := by
  cases ha : activeOuter s g with
  | none => simp [depthFloor, ha]
  | some u =>
    obtain ⟨_, o, ho, hu, _⟩ := activeOuter_eq_some.mp ha
    have hlink := h.link o ho
    have hpos := hrows o u hu
    omega

theorem warmBlocks_ordered (h : DepthOrdered row ∅ s) : DepthOrdered row (rowsFrom row 2) (warmBlocks s) := by
  have hrecords : ∀ j v, seg? (warmBlocks s) j = some v → FitsRows row j v := by
    intro j v hv
    rw [seg?_warmBlocks] at hv
    obtain ⟨g, hg, rfl⟩ := Option.map_eq_some_iff.mp hv
    have hfits := h.records j g hg
    exact
      { row_eq := by rw [warmSeg_cfg]; exact hfits.row_eq
        row_pos := hfits.row_pos
        row_le := hfits.row_le
        link := by rw [warmSeg_cfg]; exact hfits.link
        unforced := fun hm => warmSeg_unforced _ (by rwa [warmSeg_cfg] at hm) }
  refine ⟨tabWf_map h.keys _, hrecords, fun j v hv hj => ?_⟩
  have hrow : row j ≤ 1 := Nat.le_of_lt_succ (Nat.not_le.mp hj)
  rw [(hrecords j v hv).depthFloor_of_row_one hrow fun k u hu => (hrecords k u hu).row_pos]
  exact Nat.zero_le _

/-! ## The raises row by row -/

/-- R88: one raise that is not handed inward puts its segment right, the segments that link to it being late. -/
theorem raiseOnce_puts_right (hinner : rowsFrom row (row i + 1) ⊆ late) (h : DepthOrdered row (insert i late) s) :
    DepthOrdered row late (raiseOnce i s) := by
  unfold raiseOnce
  cases hg : seg? s i with
  | none =>
    rw [onSeg_none hg]
    exact h.in_time_of_none hg
  | some g =>
    have hfits := h.records i g hg
    rw [onSeg_some hg]
    cases hr : raised s g with
    | none => exact h.in_time_of_some hg fun _ => hfits.level_of_unraised hr
    | some new =>
      refine h.put_keeping hg (hfits.raised_keepsFloor hr) (.inr fun j hj => hinner ?_)
      obtain ⟨v, hv, ho⟩ := mem_linkedTo.mp hj
      exact ((h.records j v hv).link i ho).ge

/-- R88: the raises of a row put it right. -/
theorem raiseRow_ordered (h : DepthOrdered row (rowsFrom row r) s) :
    DepthOrdered row (rowsFrom row (r + 1)) (raiseRow r s) := by
  have hof : ∀ k ∈ segsOfRow s r, row k = r := by
    intro k hk
    obtain ⟨e, he, rfl⟩ := List.mem_map.mp hk
    obtain ⟨he, hrow⟩ := List.mem_filter.mp he
    rw [(h.records e.1 e.2 (tabGet_of_mem h.keys.1 he)).row_eq]
    exact eq_of_beq hrow
  refine forEach_puts_right (fun k hk now t hsub ht => raiseOnce_puts_right ?_ ht)
    ⟨h.keys, h.records, fun j g hg hj => h.floors j g hg fun hrow => hj ?_⟩
  · rw [hof k hk]
    exact hsub
  · by_cases hnext : r + 1 ≤ row j
    · exact .inr hnext
    · have hle : r ≤ row j := hrow
      refine .inl (List.mem_map.mpr ⟨(j, g), List.mem_filter.mpr ⟨mem_of_tabGet hg, ?_⟩, rfl⟩)
      rw [beq_iff_eq, ← (h.records j g hg).row_eq]
      omega

/-- R88: after the raises of row 4 no segment is late. -/
theorem raiseRows_ordered (h : DepthOrdered row ∅ s) :
    DepthOrdered row ∅ (raiseRow 4 (raiseRow 3 (raiseRow 2 (warmBlocks s)))) := by
  have hraised := raiseRow_ordered (raiseRow_ordered (raiseRow_ordered (warmBlocks_ordered h)))
  refine ⟨hraised.keys, hraised.records, fun i g hg _ => hraised.floors i g hg fun hrow => ?_⟩
  have hle := (hraised.records i g hg).row_le
  have hfive : 5 ≤ row i := hrow
  omega

end Rows

end Sys2Proof.Machine
end

section
/-! SUPPORT. The commands that leave what the depth ordering reads: those that touch no segment (R79 reads segments alone), and
those that change the activity, the held flag, a timer, a tally or a change flag of segments. -/

namespace Sys2Proof.Machine

/-! ## The operations that touch no segment -/

section Segs

variable {s : State}

theorem onLum_segs {f : Luminaire → State → State} (h : ∀ l t, (f l t).segs = t.segs) (k : Nat) (s : State) :
    (onLum k f s).segs = s.segs := onLum_rel (R := fun s t => t.segs = s.segs) rfl fun l _ => h l s

theorem onInput_segs {f : Input → State → State} (h : ∀ n t, (f n t).segs = t.segs) (a : Nat) (s : State) :
    (onInput a f s).segs = s.segs := onInput_rel (R := fun s t => t.segs = s.segs) rfl fun n _ => h n s

theorem forEach_segs {f : Nat → State → State} (h : ∀ k t, (f k t).segs = t.segs) (ks : List Nat) (s : State) :
    (forEach ks f s).segs = s.segs :=
  forEach_keeps (P := fun t => t.segs = s.segs) (fun k _ t ht => (h k t).trans ht) rfl

@[simp] theorem arbitrate_segs (i : LineId) (s : State) : (arbitrate i s).segs = s.segs := putLine_segs i _ s

@[simp] theorem enqueue_segs (k code : Nat) (s : State) : (enqueue k code s).segs = s.segs := by
  unfold enqueue
  dsimp only
  split
  · exact putLine_segs _ _ s
  · rfl

@[simp] theorem joinConfirm_segs (i : LineId) (k : Nat) (s : State) : (joinConfirm i k s).segs = s.segs := by
  unfold joinConfirm
  dsimp only
  split
  · rfl
  · exact putLine_segs _ _ s

@[simp] theorem leaveConfirm_segs (i : LineId) (k : Nat) (s : State) : (leaveConfirm i k s).segs = s.segs := putLine_segs i _ s

@[simp] theorem dropEntry_segs (k : Nat) (s : State) : (dropEntry k s).segs = s.segs := putLine_segs _ _ s

@[simp] theorem clearFlight_segs (i : LineId) (s : State) : (clearFlight i s).segs = s.segs := putLine_segs i _ s

@[simp] theorem forgetLum_segs (k : Nat) (s : State) : (forgetLum k s).segs = s.segs := putLine_segs _ _ s

@[simp] theorem fullRefresh_segs (i : LineId) (s : State) : (fullRefresh i s).segs = s.segs := by
  refine (arbitrate_segs i _).trans (forEach_segs (fun k t => onLum_segs (fun l u => ?_) k t) _ s)
  cases l.place <;> cases l.composed <;> simp

@[simp] theorem fillScanSlot_segs (i : LineId) (s : State) : (fillScanSlot i s).segs = s.segs := by
  unfold fillScanSlot
  split
  · split
    · rw [arbitrate_segs, putLine_segs]
    · rfl
  · rfl

@[simp] theorem fillSlots_segs (s : State) : (fillSlots s).segs = s.segs := by
  rw [fillSlots, fillScanSlot_segs, fillScanSlot_segs]

@[simp] theorem recomposeLum_segs (k : Nat) (s : State) : (recomposeLum k s).segs = s.segs :=
  (recomposeLum_recomposes k s).1.same.1.1

@[simp] theorem amendLum_segs (k : Nat) (old new : Luminaire) (s : State) : (amendLum k old new s).segs = s.segs := by
  unfold amendLum
  split
  · rfl
  · split <;> simp

@[simp] theorem levelEnded_segs (i : LineId) (code k : Nat) (retired : Bool) (s : State) :
    (levelEnded i code k retired s).segs = s.segs := by
  unfold levelEnded
  split
  · rfl
  · refine onLum_segs (fun l t => ?_) k s
    dsimp only
    split <;> simp

@[simp] theorem replied_segs (i : LineId) (k : Nat) (d : DriverReply) (s : State) : (replied i k d s).segs = s.segs := by
  refine onLum_segs (fun l t => ?_) k s
  dsimp only
  split <;> split <;> simp

@[simp] theorem queryMissed_segs (i : LineId) (kind : FrameKind) (k : Nat) (s : State) :
    (queryMissed i kind k s).segs = s.segs := by
  refine onLum_segs (fun l t => ?_) k s
  dsimp only
  split <;> simp

@[simp] theorem goDown_segs (i : LineId) (s : State) : (goDown i s).segs = s.segs := by
  rw [goDown, flagFloor_segs, putLine_segs]
  refine forEach_segs (fun k t => onLum_segs ?_ k t) _ s
  exact fun l u => rfl

@[simp] theorem arbitrateInput_segs (s : State) : (arbitrateInput s).segs = s.segs := rfl

@[simp] theorem clearPoll_segs (s : State) : (clearPoll s).segs = s.segs := rfl

@[simp] theorem endSpot_segs (a : Nat) (reply : Option InputValue) (s : State) : (endSpot a reply s).segs = s.segs := rfl

theorem onInput_sameDepth {f : Input → State → State} {a : Nat} (h : ∀ n t, SameDepth t (f n t)) (s : State) :
    SameDepth s (onInput a f s) := onInput_rel (.refl s) fun n _ => h n s

end Segs

/-! ## How a command ends -/

/-- A command that leaves every segment. -/
def LeavesSegs (s : State) (o : Host.Outcome State Fault Refusal) : Prop := ∀ t, o = .next t → t.segs = s.segs

/-- A command that leaves what the depth ordering reads. -/
def LeavesDepth (s : State) (o : Host.Outcome State Fault Refusal) : Prop := ∀ t, o = .next t → SameDepth s t

section Leaves

variable {s u : State} {o : Host.Outcome State Fault Refusal} {st : Status} {code : Nat} {body : List Byte}

@[simp] theorem leavesSegs_done : LeavesSegs s (done u) ↔ u.segs = s.segs := by simp [LeavesSegs, done_next]

@[simp] theorem leavesSegs_deny : LeavesSegs s (deny st code s) := by simp [deny]

theorem LeavesSegs.depth (h : LeavesSegs s o) : LeavesDepth s o := fun t ht => .of_segs (h t ht)

theorem leavesDepth_done (h : SameDepth s u) : LeavesDepth s (done u) := by
  intro t ht
  rw [done_next.mp ht]
  exact h.trans_segs rfl

theorem leavesDepth_same : LeavesDepth s (done s) := leavesDepth_done (.refl s)

theorem leavesDepth_deny : LeavesDepth s (deny st code s) := leavesSegs_deny.depth

theorem leavesDepth_answer {bytes : List Byte} (h : SameDepth s u) : LeavesDepth s (done (answer st code bytes u)) :=
  leavesDepth_done (h.trans_segs rfl)

/-! ## The requests on luminaires and inputs, and those of the port -/

theorem nop_leavesSegs : LeavesSegs s (execNop body s) := leavesSegs_done.mpr rfl

theorem badRequest_leavesSegs : LeavesSegs s (execBadRequest body s) := leavesSegs_done.mpr rfl

theorem readFloor_leavesSegs : LeavesSegs s (execReadFloor body s) := leavesSegs_done.mpr rfl

theorem snapshotTally_leavesSegs : LeavesSegs s (execSnapshotTally body s) := leavesSegs_done.mpr rfl

theorem enrolLuminaire_leavesSegs : LeavesSegs s (execEnrolLuminaire body s) := by
  unfold execEnrolLuminaire
  dsimp only
  (repeat' split) <;> simp

theorem amendLuminaire_leavesSegs : LeavesSegs s (execAmendLuminaire body s) := by
  unfold execAmendLuminaire
  dsimp only
  (repeat' split) <;> simp

theorem readLuminaire_leavesSegs : LeavesSegs s (execReadLuminaire body s) := by
  unfold execReadLuminaire
  dsimp only
  (repeat' split) <;> simp

theorem retireLuminaire_leavesSegs : LeavesSegs s (execRetireLuminaire body s) := by
  unfold execRetireLuminaire
  dsimp only
  (repeat' split) <;> simp

theorem readSegment_leavesSegs : LeavesSegs s (execReadSegment body s) := by
  unfold execReadSegment
  dsimp only
  (repeat' split) <;> simp

theorem enrolInput_leavesSegs : LeavesSegs s (execEnrolInput body s) := by
  unfold execEnrolInput
  dsimp only
  (repeat' split) <;> simp

theorem readInput_leavesSegs : LeavesSegs s (execReadInput body s) := by
  unfold execReadInput
  dsimp only
  (repeat' split) <;> simp

theorem reinstateInput_leavesSegs : LeavesSegs s (execReinstateInput body s) := by
  unfold execReinstateInput
  dsimp only
  (repeat' split) <;> simp

theorem calibrate_leavesSegs : LeavesSegs s (execCalibrate body s) := by
  unfold execCalibrate
  dsimp only
  (repeat' split) <;> simp

theorem spotRead_leavesSegs : LeavesSegs s (execSpotRead body s) := by
  unfold execSpotRead
  dsimp only
  (repeat' split) <;> simp

theorem fetchSpot_leavesSegs : LeavesSegs s (execFetchSpot body s) := by
  unfold execFetchSpot
  split <;> simp

theorem readOverrides_leavesSegs : LeavesSegs s (execReadOverrides body s) := by
  unfold execReadOverrides
  dsimp only
  (repeat' split) <;> simp

theorem readTally_leavesSegs : LeavesSegs s (execReadTally body s) := by
  unfold execReadTally
  dsimp only
  (repeat' split) <;> simp

/-! ## The events of the fixture lines -/

theorem levelFrameEnd_leavesSegs (i : LineId) : LeavesSegs s (execLevelFrameEnd i s) := by
  unfold execLevelFrameEnd
  split <;> simp

theorem driverReply_leavesSegs (i : LineId) (bytes : List LineByte) : LeavesSegs s (execDriverReply i bytes s) := by
  unfold execDriverReply
  dsimp only
  (repeat' split) <;> simp

theorem queryNoReply_leavesSegs (i : LineId) : LeavesSegs s (execQueryNoReply i s) := by
  unfold execQueryNoReply
  dsimp only
  (repeat' split) <;> simp

theorem fixtureLineDown_leavesSegs (i : LineId) : LeavesSegs s (execFixtureLineDown i s) := by
  unfold execFixtureLineDown
  split <;> simp

theorem fixtureLineRecovery_leavesSegs (i : LineId) : LeavesSegs s (execFixtureLineRecovery i s) := by
  unfold execFixtureLineRecovery
  split <;> simp

theorem fixtureRxReturnsHigh_leavesSegs (i : LineId) : LeavesSegs s (execFixtureRxReturnsHigh i s) := by
  unfold execFixtureRxReturnsHigh
  split <;> simp

theorem fixtureRxFallsLow_leavesSegs (i : LineId) : LeavesSegs s (execFixtureRxFallsLow i s) :=
  leavesSegs_done.mpr (putLine_segs i _ s)

/-! ## The events of the input line that touch no segment -/

theorem quarantineTimerExpiry_leavesSegs (a : Nat) : LeavesSegs s (execQuarantineTimerExpiry a s) := by
  refine leavesSegs_done.mpr (onInput_segs (fun n t => ?_) a s)
  (repeat' split) <;> rfl

theorem pollTimerExpiry_leavesSegs (a : Nat) : LeavesSegs s (execPollTimerExpiry a s) := by
  refine leavesSegs_done.mpr (onInput_segs (fun n t => ?_) a s)
  dsimp only
  (repeat' split) <;> simp

theorem spotPollEnd_leavesSegs (bytes : List LineByte) : LeavesSegs s (execSpotPollEnd bytes s) := by
  unfold execSpotPollEnd
  split <;> simp

theorem inputLineRecovery_leavesSegs : LeavesSegs s (execInputLineRecovery s) := by
  unfold execInputLineRecovery
  split <;> simp

theorem inrxReturnsHigh_leavesSegs : LeavesSegs s (execInrxReturnsHigh s) := by
  unfold execInrxReturnsHigh
  split <;> simp

theorem inrxFallsLow_leavesSegs : LeavesSegs s (execInrxFallsLow s) := leavesSegs_done.mpr rfl

/-! ## Presence and links (R90, R96, R156 to R161) -/

theorem endDuePoll_sameDepth {f : State → State} (h : ∀ t, SameDepth t (f t)) (s : State) : SameDepth s (endDuePoll f s) :=
  ((SameDepth.of_segs (clearPoll_segs s)).trans (h _)).trans_segs (arbitrateInput_segs _)

theorem dropLink_sameDepth (a : Nat) (link : InputLink) (misses : Nat) (s : State) :
    SameDepth s (dropLink a link misses s) := by
  refine onInput_sameDepth (fun n t => ?_) s
  dsimp only
  split
  · exact (SameDepth.of_segs (putInput_segs a _ t)).trans (sameDepth_forEach (reResolve_sameDepth false) _ _)
  · exact .of_segs rfl

theorem pollMissed_sameDepth (a : Nat) (s : State) : SameDepth s (pollMissed a s) := by
  refine onInput_sameDepth (fun n t => ?_) s
  dsimp only
  split
  · exact dropLink_sameDepth _ _ _ t
  · exact .of_segs rfl

theorem inputReplyWrongKind_leaves (bytes : List LineByte) : LeavesDepth s (execInputReplyWrongKind bytes s) := by
  unfold execInputReplyWrongKind
  split
  · split
    · split
      · split
        · exact leavesDepth_same
        · exact leavesDepth_done (endDuePoll_sameDepth (fun t => (dropLink_sameDepth _ _ _ t).of_event) s)
      · exact leavesDepth_same
    · exact leavesDepth_same
  · exact leavesDepth_same

theorem pollNoReply_leaves : LeavesDepth s (execPollNoReply s) := by
  unfold execPollNoReply
  split
  · split
    · exact leavesDepth_same
    · exact leavesDepth_done (endDuePoll_sameDepth (fun t => (pollMissed_sameDepth _ t).of_event) s)
  · exact leavesDepth_same

theorem goDownInput_sameDepth (s : State) : SameDepth s (goDownInput s) := by
  unfold goDownInput
  dsimp only
  refine SameDepth.trans (.of_segs ?_) (sameDepth_forEach (reResolve_sameDepth false) _ _)
  split <;> rfl

theorem inputLineDown_leaves : LeavesDepth s (execInputLineDown s) := by
  unfold execInputLineDown
  split
  · exact leavesDepth_done (goDownInput_sameDepth s).of_event
  · exact leavesDepth_same

theorem presenceReport_sameDepth (a : Nat) (isMotion : Bool) (s : State) : SameDepth s (presenceReport a isMotion s) := by
  refine onInput_sameDepth (fun n t => ?_) s
  split
  · dsimp only
    split
    · exact (SameDepth.of_segs (putInput_segs a _ t)).trans (forEachFree_rel .trans sameDepth_draws
        (fun i _ u => (motion_sameDepth false i u).of_event) _)
    · exact .of_segs rfl
  · exact .refl t

theorem stationPress_sameDepth (a : Nat) (scope : Scope) (hold : Nat) (b : Button) (s : State) :
    SameDepth s (stationPress a scope hold b s) := by
  refine ((motion_sameDepth false _ s).trans (pressList_sameDepth _ _ _ _ _)).trans (onInput_sameDepth (fun n t => ?_) _)
  cases n.device <;> exact .of_segs rfl

theorem stationReply_sameDepth (a sequence : Nat) (button : Byte) (s : State) :
    SameDepth s (stationReply a sequence button s) := by
  refine onInput_sameDepth (fun n t => ?_) s
  split
  · dsimp only
    split
    · split
      · exact .of_segs rfl
      · exact (SameDepth.of_segs (putInput_segs a _ t)).trans (stationPress_sameDepth _ _ _ _ _).of_event
    · exact .of_segs rfl
  · exact .refl t

theorem amendInput_leaves : LeavesDepth s (execAmendInput body s) := by
  unfold execAmendInput
  dsimp only
  split
  · exact leavesDepth_deny
  · split
    · exact leavesDepth_deny
    · split
      · exact leavesDepth_deny
      · split
        · exact leavesDepth_deny
        · split
          · exact leavesDepth_deny
          · refine leavesDepth_answer (SameDepth.of_event ?_)
            exact (SameDepth.of_segs (putInput_segs _ _ s)).trans (sameDepth_forEach (reResolve_sameDepth true) _ _)

theorem retireInput_sameDepth (a : Nat) (n : Input) (s : State) : SameDepth s (retireInput a n s) := by
  have hforgotten : SameDepth s { forgetInput a s with inputs := tabDel (forgetInput a s).inputs a } := .of_segs rfl
  unfold retireInput
  dsimp only
  split
  · exact hforgotten
  · exact hforgotten.trans (sameDepth_forEach (reResolve_sameDepth true) _ _)
  · exact hforgotten.trans (retireRecords_sameDepth _ _ _)

theorem retireInput_leaves : LeavesDepth s (execRetireInput body s) := by
  unfold execRetireInput
  dsimp only
  split
  · exact leavesDepth_deny
  · split
    · exact leavesDepth_deny
    · split
      · exact leavesDepth_deny
      · split
        · exact leavesDepth_deny
        · exact leavesDepth_answer (retireInput_sameDepth _ _ s).of_event

/-! ## The override list -/

theorem placeFloor_sameDepth (cls : OvClass) (scope : Scope) (action : OvAction) (hold : Option Nat) (s : State) :
    SameDepth s (placeFloor cls scope action hold s) := by
  refine SameDepth.trans ?_ (placeRecord_sameDepth _ _ _ _ _ _)
  cases cls
  · exact .refl s
  · exact motion_sameDepth true _ s

theorem placeOverride_leaves : LeavesDepth s (execPlaceOverride body s) := by
  unfold execPlaceOverride
  dsimp only
  split
  · exact leavesDepth_deny
  · split
    · exact leavesDepth_deny
    · split
      · split
        · exact leavesDepth_deny
        · exact leavesDepth_answer (placeFloor_sameDepth _ _ _ _ s).of_event
      · exact leavesDepth_deny

theorem cancelOverride_leaves : LeavesDepth s (execCancelOverride body s) := by
  unfold execCancelOverride
  dsimp only
  split
  · exact leavesDepth_deny
  · split
    · exact leavesDepth_deny
    · split
      · exact leavesDepth_answer (retireRecords_sameDepth _ _ s).of_event
      · exact leavesDepth_deny

theorem takeHolds_sameDepth (s : State) : SameDepth s (takeHolds s) := by
  have hdue : SameDepth s { s with time := { s.time with holdsDue := false } } := .of_segs rfl
  exact hdue.trans (countHolds_sameDepth _).of_event

theorem overrideHoldExpiry_leaves (handle : Nat) : LeavesDepth s (execOverrideHoldExpiry handle s) := by
  unfold execOverrideHoldExpiry
  split
  · exact leavesDepth_done (takeHolds_sameDepth s)
  · exact leavesDepth_same

/-! ## Flags, tallies and timers -/

theorem clearFlag_sameDepth (f : FlagKey) (s : State) : SameDepth s (clearFlag f s) := by
  cases f with
  | floor => exact .of_segs rfl
  | list => exact .of_segs rfl
  | lum k => exact onLum_rel (.refl s) fun l _ => .of_segs rfl
  | segment i => exact onSeg_rel (.refl s) fun g hg => sameDepth_putSeg hg rfl
  | input a => exact onInput_rel (.refl s) fun n _ => .of_segs rfl

theorem readChanges_leaves : LeavesDepth s (execReadChanges body s) := by
  have hcleared : ∀ (flags : List FlagKey) (t : State), SameDepth t (flags.foldl (fun u f => clearFlag f u) t) := by
    intro flags
    induction flags with
    | nil => exact .refl
    | cons f flags ih => exact fun t => (clearFlag_sameDepth f t).trans (ih _)
  exact leavesDepth_answer (hcleared _ s)

theorem addTallies_sameDepth (s : State) : SameDepth s (addTallies s) := by
  intro _
  simp only [addTallies, tabMap, List.map_map]
  rfl

theorem minuteEvent_leaves : LeavesDepth s (execMinuteEvent s) := by
  have htallies : SameDepth s (if s.time.tallyDue then addTallies s else s) := by
    split
    · exact addTallies_sameDepth s
    · exact .refl s
  unfold execMinuteEvent
  dsimp only
  generalize (if s.time.tallyDue then addTallies s else s) = t at htallies ⊢
  split
  · exact leavesDepth_done (htallies.trans (takeHolds_sameDepth _))
  · exact leavesDepth_done htallies

theorem tickAll_sameDepth (s : State) : SameDepth s (tickAll s) := by
  intro _
  simp only [tickAll, tabMap, List.map_map]
  rfl

theorem shortfallTimerExpiry_leaves (i : Nat) : LeavesDepth s (execShortfallTimerExpiry i s) :=
  leavesDepth_done (segExpiry_sameDepth fun _ hg => sameDepth_putSeg hg rfl)

theorem occupancyHoldExpiry_leaves (i : Nat) : LeavesDepth s (execOccupancyHoldExpiry i s) :=
  leavesDepth_done (segExpiry_sameDepth fun _ hg => holdExpired_sameDepth hg).of_event

theorem setbackTimerExpiry_leaves (i : Nat) : LeavesDepth s (execSetbackTimerExpiry i s) :=
  leavesDepth_done (segExpiry_sameDepth fun _ hg => goVacant_sameDepth hg).of_event

end Leaves

end Sys2Proof.Machine
end

section
/-! SUPPORT. The law of the depth ordering (R79) at every command: those that move H or a cap, define, amend or retire a segment,
or reset the block, and the law itself. -/

namespace Sys2Proof.Machine

/-- A command that ends with the law of R79. -/
def EndsOrdered (o : Host.Outcome State Fault Refusal) : Prop := ∀ t, o = .next t → DepthOk t

section Ends

variable {row : Nat → Nat} {s u : State} {o : Host.Outcome State Fault Refusal} {st : Status} {code : Nat}
  {body : List Byte}

theorem DepthOrdered.ends_done (h : DepthOrdered row ∅ u) : EndsOrdered (done u) := by
  intro t ht
  rw [done_next.mp ht]
  exact (h.of_segs (withAttn_segs u)).depthOk

theorem DepthOrdered.ends_answer {bytes : List Byte} (h : DepthOrdered row ∅ u) :
    EndsOrdered (done (answer st code bytes u)) := (h.of_segs (answer_segs ..)).ends_done

theorem DepthOrdered.ends_deny (h : DepthOrdered row ∅ s) : EndsOrdered (deny st code s) := h.ends_answer

theorem LeavesDepth.ends (hs : DepthOrdered row ∅ s) (h : LeavesDepth s o) : EndsOrdered o := fun t ht =>
  (hs.of_sameDepth (h t ht)).depthOk

/-! ## The events at the controllers, the sensors and the caps -/

theorem stepEvent_ends (h : DepthOrdered row ∅ s) (i : Nat) : EndsOrdered (execStepEvent i s) :=
  (stepExpiry_ordered h).of_event.ends_done

theorem offDelayExpiry_ends (h : DepthOrdered row ∅ s) (i : Nat) : EndsOrdered (execOffDelayExpiry i s) :=
  (offDelayExpiry_ordered h).of_event.ends_done

theorem blindTimerExpiry_ends (h : DepthOrdered row ∅ s) (i : Nat) : EndsOrdered (execBlindTimerExpiry i s) :=
  (blindTimerExpiry_ordered h).of_event.ends_done

/-- R154: of the replies that are dispatched, only a photosensor's can move H. -/
theorem takeReply_ordered (a : Nat) (v : InputValue) (h : DepthOrdered row ∅ s) : DepthOrdered row ∅ (takeReply a v s) := by
  have hheard : DepthOrdered row ∅ (onInput a (fun n => putInput a
      { n with link := .reporting, missCount := 0, changed := n.changed || n.link != .reporting }) s) :=
    h.of_segs (onInput_segs (fun _ _ => putInput_segs ..) a s)
  cases v with
  | photo x => exact takeSample_ordered a x hheard
  | presence isMotion => exact hheard.of_sameDepth (presenceReport_sameDepth a isMotion _)
  | station sequence button => exact hheard.of_sameDepth (stationReply_sameDepth a sequence button _)

theorem inputReply_ends (h : DepthOrdered row ∅ s) (bytes : List LineByte) : EndsOrdered (execInputReply bytes s) := by
  unfold execInputReply
  split
  · split
    · split
      · split
        · exact ((takeReply_ordered _ _ (h.of_segs (clearPoll_segs s))).of_segs (arbitrateInput_segs _)).ends_done
        · exact h.ends_done
      · exact (h.of_sameDepth (endDuePoll_sameDepth .refl s)).ends_done
    · exact h.ends_done
  · exact h.ends_done

theorem setFloorCap_ends (h : DepthOrdered row ∅ s) : EndsOrdered (execSetFloorCap body s) := by
  unfold execSetFloorCap
  dsimp only
  split
  · exact h.ends_deny
  · split
    · exact h.ends_deny
    · refine (recomputeAllCaps_ordered (h.of_segs ?_)).ends_answer
      rfl

/-- R123: the SHED pin taken at a tenth. -/
theorem takeShed_ordered (low : Bool) (h : DepthOrdered row ∅ s) : DepthOrdered row ∅ (takeShed low s) := by
  unfold takeShed
  split
  · exact recomputeAllCaps_ordered (h.of_segs rfl)
  · exact h.of_segs rfl

theorem tenth_ends (h : DepthOrdered row ∅ s) (low : Bool) : EndsOrdered (execTenth low s) := by
  have hticked := h.of_sameDepth (tickAll_sameDepth s)
  unfold execTenth
  dsimp only
  split
  · rcases inEitherOrder_cases (takeShed low) fillSlots (tickAll s) with heq | heq
    · rw [heq]
      exact ((takeShed_ordered low (hticked.draws _)).of_segs (fillSlots_segs _)).ends_done
    · rw [heq]
      exact (takeShed_ordered low ((hticked.draws _).of_segs (fillSlots_segs _))).ends_done
  · exact ((takeShed_ordered low hticked).of_segs (fillSlots_segs _)).ends_done

/-! ## The requests on segments -/

/-- R13: no defined segment links to an id at which none is defined. -/
theorem linkedTo_undefined (hr : RefsOk s) {i : Nat} (hi : seg? s i = none) : linkedTo s i = ∅ := by
  refine Set.eq_empty_of_forall_notMem fun j hj => ?_
  obtain ⟨v, hv, ho⟩ := mem_linkedTo.mp hj
  obtain ⟨_, _, hrefs⟩ := hr.2.2.1 _ (mem_of_tabGet hv)
  simp [refsFit, outerFits, ho, hi] at hrefs

theorem outerFits_of_refsFit {i : Nat} {c : SegConfig} (h : refsFit s i c = true) : outerFits s i c = true := by
  simp only [refsFit, Bool.and_eq_true] at h
  obtain ⟨⟨⟨houter, _⟩, _⟩, _⟩ := h
  exact houter

/-- R12: a row that is carried is one of the four; one that is not stays. -/
theorem takeSegStructure_row {c : SegConfig} (he : segEnumsOk body = true)
    (hc : (segField body 0).isNone = true → 1 ≤ c.row ∧ c.row ≤ 4) :
    1 ≤ (takeSegStructure body c).row ∧ (takeSegStructure body c).row ≤ 4 := by
  simp only [segEnumsOk, Bool.and_eq_true] at he
  obtain ⟨⟨⟨hrow, _⟩, _⟩, _⟩ := he
  cases hf : segField body 0 with
  | none => simpa [takeSegStructure, hf] using hc (by rw [hf]; rfl)
  | some b => simpa [takeSegStructure, hf, carriedOk] using hrow

theorem defineSegment_ends (h : DepthOrdered (rowOf s) ∅ s) (hr : RefsOk s) : EndsOrdered (execDefineSegment body s) := by
  unfold execDefineSegment
  split
  · exact h.ends_deny
  · dsimp only
    split
    · exact h.ends_deny
    · rename_i hid
      split
      · exact h.ends_deny
      · rename_i hnone
        split
        · exact h.ends_deny
        · rename_i hchecks
          simp only [Bool.or_eq_true, Bool.not_eq_true', not_or, Bool.not_eq_true, Bool.not_eq_false] at hchecks
          obtain ⟨⟨hrow, henums⟩, hrefs⟩ := hchecks
          obtain ⟨hpos, hle⟩ := takeSegStructure_row (c := segDefaults) henums fun _ => by decide
          have hfits : FitsFloor s (byteAt body 0) (takeSegNumbers body (takeSegStructure body segDefaults)).1 :=
            { key_lt := by omega
              row_pos := hpos
              row_le := hle
              outer := outerFits_of_refsFit hrefs
              inner := fun j _ hj => by rw [linkedTo_undefined hr hnone] at hj; exact absurd hj (Set.notMem_empty j) }
          exact (defineSeg_ordered hfits h).of_event.ends_answer

/-- R14: without the row, the outer link and the sensors the references stand as they are. -/
theorem takeSegStructure_uncarried {c : SegConfig} (h : carriesRefs body = false) :
    (takeSegStructure body c).row = c.row ∧ (takeSegStructure body c).outer = c.outer := by
  simp only [carriesRefs, Bool.or_eq_false_iff, Option.isSome_eq_false_iff, Option.isNone_iff_eq_none] at h
  obtain ⟨⟨⟨hrow, houter⟩, _⟩, _⟩ := h
  simp [takeSegStructure, hrow, houter]

/-- R14: a segment that another one links to is an outer segment. -/
theorem isOuter_of_linkedTo {i j : Nat} (hji : j ≠ i) (hj : j ∈ linkedTo s i) : isOuter s i = true := by
  obtain ⟨v, hv, ho⟩ := mem_linkedTo.mp hj
  exact List.any_eq_true.mpr ⟨_, mem_of_tabGet hv, by simp [hji, ho]⟩

/-- R14: an amendment that passes the checks leaves a configuration that fits the floor. -/
theorem amended_fitsFloor {i : Nat} {g : Segment} (h : DepthOrdered row ∅ s) (hr : RefsOk s) (hg : seg? s i = some g)
    (henums : segEnumsOk body = true)
    (hrefs : carriesRefs body = true → refsFit s i (takeSegStructure body g.cfg) = true)
    (hlinked : (takeSegStructure body g.cfg).row ≠ g.cfg.row → isOuter s i = false) :
    FitsFloor s i (takeSegNumbers body (takeSegStructure body g.cfg)).1 := by
  obtain ⟨hpos, hle, hfits⟩ := hr.2.2.1 _ (mem_of_tabGet hg)
  obtain ⟨hpos', hle'⟩ := takeSegStructure_row henums fun _ => ⟨hpos, hle⟩
  refine ⟨h.key_lt hg, hpos', hle', ?_, fun j hji hj => ?_⟩
  · by_cases hc : carriesRefs body = true
    · exact outerFits_of_refsFit (hrefs hc)
    · obtain ⟨hrow, houter⟩ := takeSegStructure_uncarried (c := g.cfg) (Bool.eq_false_iff.mpr hc)
      have hfit := outerFits_of_refsFit hfits
      unfold outerFits at hfit ⊢
      rwa [← hrow, ← houter] at hfit
  · have hrow : rowOf s i = g.cfg.row := by simp [rowOf, hg]
    rw [hrow]
    by_contra hne
    exact absurd (isOuter_of_linkedTo hji hj) (by rw [hlinked hne]; decide)

theorem amendSegment_ends (h : DepthOrdered (rowOf s) ∅ s) (hr : RefsOk s) : EndsOrdered (execAmendSegment body s) := by
  unfold execAmendSegment
  split
  · exact h.ends_deny
  · dsimp only
    split
    · exact h.ends_deny
    · rename_i hid
      split
      · exact h.ends_deny
      · rename_i g hg
        split
        · exact h.ends_deny
        · rename_i hchecks
          split
          · exact h.ends_deny
          · rename_i hlinked
            simp only [Bool.or_eq_true, Bool.not_eq_true', Bool.and_eq_true, not_or, not_and, Bool.not_eq_false,
              Bool.not_eq_true] at hchecks hlinked
            obtain ⟨henums, hrefs⟩ := hchecks
            exact (amendSeg_ordered _ (amended_fitsFloor h hr hg henums hrefs hlinked) h hg).of_event.ends_answer

theorem retireSegment_ends (h : DepthOrdered row ∅ s) : EndsOrdered (execRetireSegment body s) := by
  unfold execRetireSegment
  dsimp only
  split
  · exact h.ends_deny
  · split
    · exact h.ends_deny
    · split
      · exact h.ends_deny
      · split
        · exact h.ends_deny
        · exact (retireSeg_ordered h).of_event.ends_answer

/-! ## The resets -/

/-- R170: the compositions and the refreshes of a warm reset come after the raises, and touch no segment. -/
theorem warmReset_ends (h : DepthOrdered row ∅ s) : EndsOrdered (execWarmReset body s) := by
  have hrefresh : ∀ (i : LineId) (t : State), (warmRefresh i t).segs = t.segs := by
    intro i t
    unfold warmRefresh
    split
    · exact fullRefresh_segs i t
    · rfl
  refine DepthOrdered.ends_answer (DepthOrdered.of_segs (raiseRows_ordered h) ?_)
  rw [warmReset, hrefresh, hrefresh]
  rfl

/-- R171: a cold reset leaves no segments. -/
theorem coldReset_ends (low : Bool) (s : State) : EndsOrdered (execColdReset low s) := by
  intro t ht
  rw [done_next.mp ht]
  exact fun e he => absurd he List.not_mem_nil

end Ends

/-! ## Every command -/

/-- Every command ends with the law of R79, from a state that meets the laws. -/
theorem exec_endsOrdered {s : State} (hr : RefsOk s) (h : DepthOrdered (rowOf s) ∅ s) (c : Instr) :
    EndsOrdered (exec c s) := by
  have hleaves {o : Host.Outcome State Fault Refusal} (ho : LeavesDepth s o) : EndsOrdered o := ho.ends h
  have hsegs {o : Host.Outcome State Fault Refusal} (ho : LeavesSegs s o) : EndsOrdered o := ho.depth.ends h
  cases c with
  | nop body => exact hsegs (nop_leavesSegs (body := body))
  | badRequest shifted => exact hsegs badRequest_leavesSegs
  | enrolLuminaire body => exact hsegs enrolLuminaire_leavesSegs
  | amendLuminaire body => exact hsegs amendLuminaire_leavesSegs
  | readLuminaire body => exact hsegs readLuminaire_leavesSegs
  | retireLuminaire body => exact hsegs retireLuminaire_leavesSegs
  | defineSegment body => exact defineSegment_ends h hr
  | amendSegment body => exact amendSegment_ends h hr
  | readSegment body => exact hsegs readSegment_leavesSegs
  | retireSegment body => exact retireSegment_ends h
  | enrolInput body => exact hsegs enrolInput_leavesSegs
  | amendInput body => exact hleaves amendInput_leaves
  | readInput body => exact hsegs readInput_leavesSegs
  | retireInput body => exact hleaves retireInput_leaves
  | reinstateInput body => exact hsegs reinstateInput_leavesSegs
  | calibrate body => exact hsegs calibrate_leavesSegs
  | spotRead body => exact hsegs spotRead_leavesSegs
  | fetchSpot body => exact hsegs (fetchSpot_leavesSegs (body := body))
  | placeOverride body => exact hleaves placeOverride_leaves
  | cancelOverride body => exact hleaves cancelOverride_leaves
  | readOverrides body => exact hsegs readOverrides_leavesSegs
  | setFloorCap body => exact setFloorCap_ends h
  | readFloor body => exact hsegs (readFloor_leavesSegs (body := body))
  | readChanges body => exact hleaves (readChanges_leaves (body := body))
  | snapshotTally body => exact hsegs (snapshotTally_leavesSegs (body := body))
  | readTally body => exact hsegs readTally_leavesSegs
  | warmReset body => exact warmReset_ends (body := body) h
  | coldReset low => exact coldReset_ends low s
  | tenth low => exact tenth_ends h low
  | minuteEvent => exact hleaves minuteEvent_leaves
  | overrideHoldExpiry handle => exact hleaves (overrideHoldExpiry_leaves handle)
  | stepEvent i => exact stepEvent_ends h i
  | offDelayExpiry i => exact offDelayExpiry_ends h i
  | blindTimerExpiry i => exact blindTimerExpiry_ends h i
  | shortfallTimerExpiry i => exact hleaves (shortfallTimerExpiry_leaves i)
  | quarantineTimerExpiry a => exact hsegs (quarantineTimerExpiry_leavesSegs a)
  | occupancyHoldExpiry i => exact hleaves (occupancyHoldExpiry_leaves i)
  | setbackTimerExpiry i => exact hleaves (setbackTimerExpiry_leaves i)
  | pollTimerExpiry a => exact hsegs (pollTimerExpiry_leavesSegs a)
  | inputReply bytes => exact inputReply_ends h bytes
  | inputReplyWrongKind bytes => exact hleaves (inputReplyWrongKind_leaves bytes)
  | pollNoReply => exact hleaves pollNoReply_leaves
  | spotPollEnd bytes => exact hsegs (spotPollEnd_leavesSegs bytes)
  | inputLineDown => exact hleaves inputLineDown_leaves
  | inputLineRecovery => exact hsegs inputLineRecovery_leavesSegs
  | inrxReturnsHigh => exact hsegs inrxReturnsHigh_leavesSegs
  | inrxFallsLow => exact hsegs inrxFallsLow_leavesSegs
  | levelFrameEnd i => exact hsegs (levelFrameEnd_leavesSegs i)
  | driverReply i bytes => exact hsegs (driverReply_leavesSegs i bytes)
  | queryNoReply i => exact hsegs (queryNoReply_leavesSegs i)
  | fixtureLineDown i => exact hsegs (fixtureLineDown_leavesSegs i)
  | fixtureLineRecovery i => exact hsegs (fixtureLineRecovery_leavesSegs i)
  | fixtureRxReturnsHigh i => exact hsegs (fixtureRxReturnsHigh_leavesSegs i)
  | fixtureRxFallsLow i => exact hsegs (fixtureRxFallsLow_leavesSegs i)

/-- Settles O17, by the invariant of the segments that are late within an event: none is between events. -/
theorem depthLawKept : Obligations.DepthLawKept := by
  rintro s t ⟨ht, hr, _, hh⟩ hd hstep
  unfold step at hstep
  split at hstep
  · cases hstep
    exact hd
  · rename_i c rest _
    have h : DepthOrdered (rowOf s) ∅ s := depthOrdered_of_laws ht hr hh hd
    have htaken : DepthOrdered (rowOf s) ∅ { s with pending := rest } := h.of_segs rfl
    exact exec_endsOrdered (s := { s with pending := rest }) hr htaken c t hstep

end Sys2Proof.Machine
end

section
/-! SUPPORT. SNAPSHOT TALLY (R131) and READ TALLY (R132): what the capture holds at each segment id, and each check and effect
of the two requests as an equation of its own. -/

namespace Sys2Proof.Machine

/-! ## SNAPSHOT TALLY (R131) -/

/-- R131: the tally of every segment id in order, 0 where no segment is defined. -/
def talliesOf (s : State) : List Nat := (List.range 32).map fun i => ((seg? s i).map (·.tally)).getD 0

/-- R131: the number of the snapshot after one. -/
def nextSnapshotNumber (n : Nat) : Nat := if n < 255 then n + 1 else 1

section Tallies

variable {s : State} {body : List Byte}

@[simp] theorem talliesOf_length (s : State) : (talliesOf s).length = 32 := by simp [talliesOf]

theorem talliesOf_getElem? {i : Nat} (hi : i < 32) :
    (talliesOf s)[i]? = some (((seg? s i).map (·.tally)).getD 0) := by
  rw [talliesOf, List.getElem?_map, List.getElem?_range hi, Option.map_some]

theorem exec_snapshotTally (body : List Byte) (s : State) :
    exec (.snapshotTally body) s =
      done (answer .ok 0x63 [byte (nextSnapshotNumber s.composer.snapshotNumber)]
        { s with
          composer :=
            { s.composer with
              snapshot := talliesOf s
              snapshotNumber := nextSnapshotNumber s.composer.snapshotNumber } }) := rfl

/-! ## READ TALLY (R132) -/

theorem exec_readTally (body : List Byte) (s : State) : exec (.readTally body) s = execReadTally body s := rfl

/-- R177: a body too short. -/
theorem readTally_shortBody (h : body.length < 1) : exec (.readTally body) s = deny .badField 0x64 s := by
  rw [exec_readTally, execReadTally, if_pos h]

/-- R132: a starting id beyond 31. -/
theorem readTally_badId (hlen : 1 ≤ body.length) (hid : 31 < byteAt body 0) :
    exec (.readTally body) s = deny .badField 0x64 s := by
  simp [exec_readTally, execReadTally, Nat.not_lt.mpr hlen, hid]

/-- R132, R173: the snapshot number, the starting id and at most 8 entries from it. -/
theorem readTally_entries (hlen : 1 ≤ body.length) (hid : byteAt body 0 ≤ 31) :
    exec (.readTally body) s =
      done (answer .ok 0x64 ([byte s.composer.snapshotNumber, byte (byteAt body 0)]
        ++ ((s.composer.snapshot.drop (byteAt body 0)).take 8).flatMap bytes4) s) := by
  simp [exec_readTally, execReadTally, Nat.not_lt.mpr hlen, Nat.not_lt.mpr hid]

end Tallies

/-- Settles O42, by the equation of SNAPSHOT TALLY and that of READ TALLY at each side of the last id. -/
theorem talliesAreCapturedAndRead : Obligations.TalliesAreCapturedAndRead := by
  intro s body n
  refine ⟨?captured, fun hshort => refused_of_deny (readTally_shortBody hshort), fun hlen => ?read⟩
  case captured =>
    exact ⟨_, (exec_snapshotTally body s).trans (done_eq _), talliesOf_length s,
      fun i hi => talliesOf_getElem? (List.mem_range.mp hi), rfl, rfl, rfl⟩
  case read =>
    rcases Nat.lt_or_ge 31 (byteAt body 0) with hbeyond | hid
    · obtain ⟨t, hexec, hport, hframe⟩ := refused_of_deny (readTally_badId (s := s) hlen hbeyond)
      exact ⟨t, hexec, fun _ => hport, fun hid => absurd hbeyond (Nat.not_lt.mpr hid), hframe⟩
    · exact ⟨_, (readTally_entries hlen hid).trans (done_eq _), fun hbeyond => absurd hid (Nat.not_le.mpr hbeyond),
        fun _ => rfl, rfl⟩

end Sys2Proof.Machine
end

section
/-! SUPPORT. How the frames of a fixture line end: a LEVEL frame (R141), a QUERY with a valid reply (R142, R143, R145) and a QUERY
without one (R144). Each end is one line put, with at most one luminaire record put, before the arbiter chooses (R140). -/

namespace Sys2Proof.Machine

/-! ## The confirm list and the level queue (R136, R138) -/

/-- R138: a luminaire that joins the confirm list under a condition. -/
theorem joinConfirm_when (p : Prop) [Decidable p] (i : LineId) (k : Nat) (s : State) :
    (if p then joinConfirm i k s else s) =
      putLine i
        { lineOf i s with
          confirm := if p ∧ k ∉ (lineOf i s).confirm then (lineOf i s).confirm ++ [k] else (lineOf i s).confirm } s := by
  by_cases hp : p ∧ k ∉ (lineOf i s).confirm
  · obtain ⟨hjoins, hnew⟩ := hp
    simp [joinConfirm, hjoins, hnew]
  · have hstays : (if p then joinConfirm i k s else s) = s := by
      by_cases hjoins : p <;> simp_all [joinConfirm]
    rw [if_neg hp, hstays]
    exact (putLine_lineOf i s).symm

/-- R136: the level queue of a line to which an entry is handed: a line that is DOWN adds none. -/
theorem enqueue_eq (k code : Nat) (s : State) :
    enqueue k code s =
      putLine (keyLine k)
        { lineOf (keyLine k) s with
          queue :=
            if (lineOf (keyLine k) s).state = .running then coalesce (lineOf (keyLine k) s).queue k code
            else (lineOf (keyLine k) s).queue } s := by
  rw [enqueue]
  split
  · rfl
  · exact (putLine_lineOf (keyLine k) s).symm

/-! ## How a frame's end leaves the state -/

section Ends

variable {c : Instr} {i : LineId} {k : Nat} {m : FixtureLine} {l : Luminaire} {f : FixtureFlight}
  {bytes : List LineByte} {d : DriverReply} {s : State}

/-- The state of a line put before its arbiter chooses. -/
theorem arbitrate_putLine (i : LineId) (m : FixtureLine) (s : State) :
    arbitrate i (putLine i m s) = putLine i (chooseFrame m) s := by simp [arbitrate]

/-- A command that leaves a state `u` with one line put, whose arbiter then chooses: where `u` is the state before but for its
luminaires, nothing but these, that line and ATTN changes. -/
theorem next_of_arbitrate {u : State} (hexec : exec c s = done (arbitrate i (putLine i m u)))
    (hu : u = { s with lums := u.lums }) :
    ∃ t, exec c s = .next t ∧ t.lums = u.lums ∧ lineOf i t = chooseFrame m ∧ SameButFixtures s t ∧ SamePort s t
      ∧ ∀ j : LineId, j ≠ i → lineOf j t = lineOf j s := by
  have hfixtures : FixturesOnly s (putLine i (chooseFrame m) u) := by rw [hu]; cases i <;> rfl
  have hlines (j : LineId) : lineOf j u = lineOf j s := by rw [hu]; cases j <;> rfl
  obtain ⟨hsame, hport⟩ := hfixtures.same
  rw [arbitrate_putLine] at hexec
  exact ⟨_, hexec.trans (done_eq _), by simp, by simp, hsame, by rw [SamePort, withAttn_port, hport],
    fun j hj => by simp [hj, hlines]⟩

/-- A command that puts one line and lets its arbiter choose changes that line alone, and ATTN. -/
theorem next_of_arbitrateLine (hexec : exec c s = done (arbitrate i (putLine i m s))) :
    ∃ t, exec c s = .next t ∧ t.lums = s.lums ∧ lineOf i t = chooseFrame m ∧ SameButFixtures s t ∧ SamePort s t
      ∧ ∀ j : LineId, j ≠ i → lineOf j t = lineOf j s := next_of_arbitrate hexec rfl

/-- A command that puts one luminaire record and one line, whose arbiter then chooses, changes these alone, and ATTN. -/
theorem next_of_arbitrateLum (hexec : exec c s = done (arbitrate i (putLine i m (putLum k l s)))) :
    ∃ t, exec c s = .next t ∧ lum? t k = some l ∧ OtherLumsSame s t k ∧ lineOf i t = chooseFrame m
      ∧ SameButFixtures s t ∧ SamePort s t ∧ ∀ j : LineId, j ≠ i → lineOf j t = lineOf j s := by
  obtain ⟨t, hnext, hlums, hrest⟩ := next_of_arbitrate hexec rfl
  have hput (j : Nat) : lum? t j = lum? (putLum k l s) j := congrArg (tabGet · j) hlums
  exact ⟨t, hnext, (hput k).trans (lum?_putLum_self k l s), fun j hj => (hput j).trans (lum?_putLum_ne l s hj), hrest⟩

/-! ## The frame in flight ends -/

@[simp] theorem lineOf_clearFlight (i : LineId) (s : State) :
    lineOf i (clearFlight i s) = { lineOf i s with flight := none } := lineOf_putLine_self i _ s

@[simp] theorem lum?_clearFlight (i : LineId) (s : State) (k : Nat) : lum? (clearFlight i s) k = lum? s k :=
  lum?_putLine i _ s k

/-- A line put after its frame has ended is the line put at once. -/
theorem putLine_putLum_clearFlight (i : LineId) (m : FixtureLine) (k : Nat) (l : Luminaire) (s : State) :
    putLine i m (putLum k l (clearFlight i s)) = putLine i m (putLum k l s) := by
  cases i <;> rfl

theorem exec_levelFrameEnd {code : Nat} (hf : (lineOf i s).flight = some f) (hcode : f.levelCode = some code) :
    exec (.levelFrameEnd i) s = done (arbitrate i (levelEnded i code f.key f.retired (clearFlight i s))) := by
  obtain ⟨kind, key, retired⟩ := f
  cases kind with
  | level sent =>
    obtain rfl : sent = code := Option.some.inj hcode
    simp only [exec, execLevelFrameEnd, hf]
  | confirmQuery => cases hcode
  | scanQuery => cases hcode

theorem exec_queryNoReply (hf : (lineOf i s).flight = some f) (hquery : f.levelCode = none) :
    exec (.queryNoReply i) s =
      done (arbitrate i (if f.retired then clearFlight i s else queryMissed i f.kind f.key (clearFlight i s))) := by
  obtain ⟨kind, key, retired⟩ := f
  cases kind with
  | level code => cases hquery
  | confirmQuery => simp only [exec, execQueryNoReply, hf]
  | scanQuery => simp only [exec, execQueryNoReply, hf]

theorem exec_driverReply (hf : (lineOf i s).flight = some f) (hquery : f.levelCode = none)
    (hd : decodeDriverReply (keyAddress f.key) bytes = some d) :
    exec (.driverReply i bytes) s =
      done (arbitrate i (if f.retired then clearFlight i s else replied i f.key d (clearFlight i s))) := by
  obtain ⟨kind, key, retired⟩ := f
  cases kind with
  | level code => cases hquery
  | confirmQuery => simp only [exec, execDriverReply, hf, hd]
  | scanQuery => simp only [exec, execDriverReply, hf, hd]

/-! ## A frame of a record retired meanwhile (R146) -/

theorem exec_levelFrameEnd_retired {code : Nat} (hf : (lineOf i s).flight = some f) (hcode : f.levelCode = some code)
    (hretired : f.retired = true) :
    exec (.levelFrameEnd i) s = done (arbitrate i (putLine i { lineOf i s with flight := none } s)) := by
  rw [exec_levelFrameEnd hf hcode, hretired, levelEnded, if_pos rfl, clearFlight]

theorem exec_queryNoReply_retired (hf : (lineOf i s).flight = some f) (hquery : f.levelCode = none)
    (hretired : f.retired = true) :
    exec (.queryNoReply i) s = done (arbitrate i (putLine i { lineOf i s with flight := none } s)) := by
  rw [exec_queryNoReply hf hquery, hretired, if_pos rfl, clearFlight]

theorem exec_driverReply_retired (hf : (lineOf i s).flight = some f) (hquery : f.levelCode = none)
    (hd : decodeDriverReply (keyAddress f.key) bytes = some d) (hretired : f.retired = true) :
    exec (.driverReply i bytes) s = done (arbitrate i (putLine i { lineOf i s with flight := none } s)) := by
  rw [exec_driverReply hf hquery hd, hretired, if_pos rfl, clearFlight]

/-! ## A LEVEL frame and a QUERY without reply at an enrolled luminaire (R141, R144) -/

/-- R144: a miss leaves the confirmation. -/
@[simp] theorem unanswered_confirmation (l : Luminaire) : (unanswered l).confirmation = l.confirmation := rfl

/-- R144, R145: of what the change flag watches, a miss can change the link state alone. -/
theorem unanswered_eq (l : Luminaire) :
    unanswered l =
      { l with
        missCount := min (l.missCount + 1) 3
        link := if min (l.missCount + 1) 3 = 3 then .silent else l.link
        changed := l.changed || l.link != (if min (l.missCount + 1) 3 = 3 then .silent else l.link) } := by
  simp [unanswered, flagLumChange]

/-- R141: the sent code, AWAITING, and the confirm list unless SILENT. -/
theorem exec_levelFrameEnd_enrolled {code : Nat} (hf : (lineOf i s).flight = some f) (hcode : f.levelCode = some code)
    (hlive : f.retired = false) (hl : lum? s f.key = some l) :
    exec (.levelFrameEnd i) s = done (arbitrate i
      (putLine i
        { lineOf i s with
          flight := none
          confirm := if l.link = .silent ∨ f.key ∈ (lineOf i s).confirm then (lineOf i s).confirm
            else (lineOf i s).confirm ++ [f.key] }
        (putLum f.key { l with sentCode := some code, confirmation := .awaiting } s))) := by
  rw [exec_levelFrameEnd hf hcode, hlive, levelEnded, if_neg Bool.false_ne_true,
    onLum_some ((lum?_clearFlight i s f.key).trans hl)]
  dsimp only
  rw [← ite_not, joinConfirm_when, putLine_putLum_clearFlight]
  simp only [lineOf_putLum, lineOf_clearFlight, ← not_or, ite_not]

/-- R144: the miss counted, and the confirm list again where the QUERY came from it. -/
theorem exec_queryNoReply_enrolled (hf : (lineOf i s).flight = some f) (hquery : f.levelCode = none)
    (hlive : f.retired = false) (hl : lum? s f.key = some l) :
    exec (.queryNoReply i) s = done (arbitrate i
      (putLine i
        { lineOf i s with
          flight := none
          confirm := if f.kind = .confirmQuery ∧ l.confirmation = .awaiting ∧ (unanswered l).link ≠ .silent
              ∧ f.key ∉ (lineOf i s).confirm then (lineOf i s).confirm ++ [f.key] else (lineOf i s).confirm }
        (putLum f.key (unanswered l) s))) := by
  rw [exec_queryNoReply hf hquery, hlive, if_neg Bool.false_ne_true, queryMissed,
    onLum_some ((lum?_clearFlight i s f.key).trans hl)]
  dsimp only
  rw [joinConfirm_when, putLine_putLum_clearFlight]
  simp only [lineOf_putLum, lineOf_clearFlight, unanswered_confirmation, and_assoc]

end Ends

/-- Settles O58, by the equation of each event for a record retired meanwhile (R146) and for an enrolled one. -/
theorem framesEndAtTheirLuminaire : Obligations.FramesEndAtTheirLuminaire := by
  intro s i line others
  refine ⟨fun f hf hretired => ⟨fun hlevel => ?levelRetired, fun hquery => ?queryRetired⟩,
    fun f hf hlive l hl => ⟨fun code hcode => ?level, fun hquery => ?query⟩⟩
  case levelRetired =>
    obtain ⟨code, hcode⟩ := Option.isSome_iff_exists.mp hlevel
    exact next_of_arbitrateLine (exec_levelFrameEnd_retired hf hcode hretired)
  case queryRetired => exact next_of_arbitrateLine (exec_queryNoReply_retired hf hquery hretired)
  case level => exact next_of_arbitrateLum (exec_levelFrameEnd_enrolled hf hcode hlive hl)
  case query =>
    obtain ⟨t, hnext, hlum, hlums, hline, hsame, -, hlines⟩ :=
      next_of_arbitrateLum (exec_queryNoReply_enrolled hf hquery hlive hl)
    exact ⟨t, hnext, hlum.trans (congrArg some (unanswered_eq l)), hlums, hline, hsame, hlines⟩

/-! ## A valid reply at an enrolled luminaire (R142, R143, R145) -/

section Replies

variable {i : LineId} {k : Nat} {l : Luminaire} {f : FixtureFlight} {bytes : List LineByte} {d : DriverReply} {s : State}

/-- R143: the composed code of an assigned luminaire that is not UNCONFIRMED is sent again. -/
abbrev TriesAgain (l : Luminaire) : Prop := l.place ≠ none ∧ l.unconfirmed = false

/-- R143: a mismatch at an AWAITING luminaire counts. -/
abbrev MismatchCounts (echo : Nat) (l : Luminaire) : Prop :=
  l.confirmation = .awaiting ∧ ¬l.sentCode = some echo ∧ TriesAgain l

/-- R143: the first two mismatches. -/
abbrev StaysAwaiting (echo : Nat) (l : Luminaire) : Prop := MismatchCounts echo l ∧ l.mismatchCount + 1 < 3

/-- R143: the third mismatch. -/
abbrev GivesUp (echo : Nat) (l : Luminaire) : Prop := MismatchCounts echo l ∧ ¬l.mismatchCount + 1 < 3

/-- R143: the composed code is to be resent. -/
abbrev Resends (echo : Nat) (l : Luminaire) : Prop :=
  StaysAwaiting echo l ∨ (l.confirmation = .confirmed ∧ ¬l.sentCode = some echo ∧ TriesAgain l)

/-- R143: the record that an echo leaves. -/
def settledRecord (echo : Nat) (l : Luminaire) : Luminaire :=
  { l with
    confirmation := if StaysAwaiting echo l then .awaiting else .confirmed
    mismatchCount :=
      if MismatchCounts echo l then l.mismatchCount + 1
      else if l.confirmation = .awaiting ∧ l.sentCode = some echo then 0 else l.mismatchCount
    unconfirmed := l.unconfirmed || decide (GivesUp echo l) }

/-- R143, row by row: a match, a mismatch that does not count, one of the first two, the third, and a CONFIRMED luminaire. -/
theorem settleConfirmation_eq (echo : Nat) (l : Luminaire) :
    settleConfirmation echo l = (settledRecord echo l, decide (Resends echo l)) := by
  obtain ⟨place, trim, minLevel, maxLevel, composed, sentCode, reportedCode, link, missCount, confirmation, mismatchCount,
    lampFailed, hot, unconfirmed, changed⟩ := l
  cases confirmation with
  | awaiting =>
    by_cases hsame : sentCode = some echo
    · simp [settleConfirmation, settledRecord, hsame]
    · by_cases hassigned : place = none
      · simp [settleConfirmation, settledRecord, hsame, hassigned]
      · cases unconfirmed with
        | true => simp [settleConfirmation, settledRecord, hsame]
        | false =>
          by_cases hcount : mismatchCount + 1 < 3 <;>
            simp [settleConfirmation, settledRecord, Option.isSome_iff_ne_none, hsame, hassigned, hcount]
  | confirmed =>
    by_cases hassigned : place = none
    · simp [settleConfirmation, settledRecord, hassigned]
    · simp [settleConfirmation, settledRecord, Option.isSome_iff_ne_none.mpr hassigned, hassigned, Bool.and_comm, bne,
        beq_eq_decide]

theorem settledRecord_confirmed_iff (echo : Nat) (l : Luminaire) :
    (settledRecord echo l).confirmation = .confirmed ↔ ¬StaysAwaiting echo l := by
  rw [settledRecord]
  split <;> simp_all

/-- R142, R143: what R142 takes from a reply and what R143 settles are different fields. -/
theorem settleConfirmation_heardFrom (d : DriverReply) (l : Luminaire) :
    settleConfirmation d.echo (heardFrom d l) = (heardFrom d (settledRecord d.echo l), decide (Resends d.echo l)) :=
  settleConfirmation_eq d.echo (heardFrom d l)

/-- R138: a luminaire that leaves the confirm list unless a condition holds. -/
theorem leaveConfirm_unless (p : Prop) [Decidable p] (i : LineId) (k : Nat) (s : State) :
    (if ¬p then leaveConfirm i k s else s) =
      putLine i
        { lineOf i s with
          confirm := if p then (lineOf i s).confirm else (lineOf i s).confirm.filter fun j => j != k } s := by
  by_cases hp : p
  · rw [if_neg (not_not_intro hp), if_pos hp]
    exact (putLine_lineOf i s).symm
  · rw [if_pos hp, if_neg hp, leaveConfirm]

/-- R142, R143, R145: the record that a valid reply leaves, its change flag set where the reply changes what R145 lists. -/
def afterReply (d : DriverReply) (l : Luminaire) : Luminaire :=
  flagLumChange l (heardFrom d (settledRecord d.echo l))

/-- R142, R143: the record put, the confirm list left unless the luminaire stays AWAITING, the composed code resent. -/
theorem replied_enrolled (d : DriverReply) (hkey : keyLine k = i) (hl : lum? s k = some l) :
    replied i k d s =
      putLine i
        { lineOf i s with
          confirm := if StaysAwaiting d.echo l then (lineOf i s).confirm
            else (lineOf i s).confirm.filter fun j => j != k
          queue := if Resends d.echo l ∧ (lineOf i s).state = .running then
              (l.composed.map fun c => coalesce (lineOf i s).queue k c.code).getD (lineOf i s).queue
            else (lineOf i s).queue }
        (putLum k (afterReply d l) s) := by
  have hleaves : (heardFrom d (settledRecord d.echo l)).confirmation = .confirmed ↔ ¬StaysAwaiting d.echo l :=
    settledRecord_confirmed_iff d.echo l
  subst hkey
  rw [replied, onLum_some hl, settleConfirmation_heardFrom]
  simp only [hleaves, leaveConfirm_unless, lineOf_putLum, afterReply]
  by_cases hresends : Resends d.echo l
  · cases l.composed with
    | none => simp [hresends]
    | some c => simp [hresends, enqueue_eq]
  · simp [hresends]

/-- R142, R143: the QUERY's frame ends and the reply is taken at its luminaire. -/
theorem exec_driverReply_enrolled (hf : (lineOf i s).flight = some f) (hquery : f.levelCode = none)
    (hd : decodeDriverReply (keyAddress f.key) bytes = some d) (hlive : f.retired = false) (hkey : keyLine f.key = i)
    (hl : lum? s f.key = some l) :
    exec (.driverReply i bytes) s = done (arbitrate i
      (putLine i
        { lineOf i s with
          flight := none
          confirm := if StaysAwaiting d.echo l then (lineOf i s).confirm
            else (lineOf i s).confirm.filter fun j => j != f.key
          queue := if Resends d.echo l ∧ (lineOf i s).state = .running then
              (l.composed.map fun c => coalesce (lineOf i s).queue f.key c.code).getD (lineOf i s).queue
            else (lineOf i s).queue }
        (putLum f.key (afterReply d l) s))) := by
  rw [exec_driverReply hf hquery hd, hlive, if_neg Bool.false_ne_true,
    replied_enrolled d hkey ((lum?_clearFlight i s f.key).trans hl), putLine_putLum_clearFlight, lineOf_clearFlight]

end Replies

/-- Settles O59, by the equation of DRIVER REPLY for a record retired meanwhile (R146) and for an enrolled one. -/
theorem driverRepliesSettleConfirmation : Obligations.DriverRepliesSettleConfirmation := by
  intro s i bytes f hf hquery d hd line others
  refine ⟨fun hretired => next_of_arbitrateLine (exec_driverReply_retired hf hquery hd hretired),
    fun hlive hkey l hl => ?enrolled⟩
  case enrolled =>
    obtain ⟨t, hnext, hlum, hlums, hline, hothers⟩ :=
      next_of_arbitrateLum (exec_driverReply_enrolled hf hquery hd hlive hkey hl)
    exact ⟨t, hnext, hlum, hline, hlums, hothers⟩

end Sys2Proof.Machine
end

section
/-! SUPPORT. The frames that make no request (R165): which codes are requests of the catalogue (R173), and when the bytes of a
transaction are taken. -/

namespace Sys2Proof.Machine

/-! ## The catalogue (R173) -/

/-- A code whose body makes a request is that request's code. -/
theorem requestParts_requestOf {code : Nat} {body : List Byte} {c : Instr} (h : requestOf code body = some c) :
    requestParts c = some (code, body) := by
  unfold requestOf at h
  split at h <;> cases h <;> rfl

/-- No code makes a BAD REQUEST. -/
theorem requestOf_ne_badRequest (code : Nat) (body shifted : List Byte) :
    requestOf code body ≠ some (.badRequest shifted) := fun h => nomatch requestParts_requestOf h

/-- The codes that make a request are those of the catalogue, whatever the body. -/
theorem requestOf_eq_none_iff {code : Nat} {body : List Byte} : requestOf code body = none ↔ code ∉ catalogueCodes := by
  unfold requestOf
  split
  case h_27 => simp_all [catalogueCodes]
  all_goals simp [catalogueCodes]

/-! ## The frame of a transaction (R164, R165) -/

@[simp] theorem byteAt_cons_zero (b : Byte) (bytes : List Byte) : byteAt (b :: bytes) 0 = b.toNat := rfl

@[simp] theorem byteAt_cons_one (b n : Byte) (bytes : List Byte) : byteAt (b :: n :: bytes) 1 = n.toNat := rfl

/-- R165: the cases in which no request is taken from a transaction. -/
def BadFrame (shifted : List Byte) : Prop :=
  shifted.length < 2 ∨ 40 < byteAt shifted 1 ∨ shifted.length < 2 + byteAt shifted 1
    ∨ byteAt shifted 0 ∉ catalogueCodes

/-- A code and a body length were shifted in: the frame is bad by a length or by its code. -/
theorem badFrame_cons_iff {code n : Byte} {rest : List Byte} :
    BadFrame (code :: n :: rest) ↔ ¬(n.toNat ≤ 40 ∧ n.toNat ≤ rest.length) ∨ code.toNat ∉ catalogueCodes := by
  simp only [BadFrame, byteAt_cons_zero, byteAt_cons_one, List.length_cons]
  rw [← or_assoc, ← or_assoc]
  exact or_congr_left (by omega)

/-- R165: a transaction is a BAD REQUEST in the cases of a bad frame, and in no other. -/
theorem decodeFrame_eq_badRequest_iff (shifted : List Byte) :
    decodeFrame shifted = .badRequest shifted ↔ BadFrame shifted := by
  match shifted with
  | [] => exact iff_of_true rfl (.inl Nat.zero_lt_two)
  | [_] => exact iff_of_true rfl (.inl Nat.one_lt_two)
  | code :: n :: rest =>
    rw [badFrame_cons_iff, decodeFrame]
    by_cases hwhole : n.toNat ≤ 40 ∧ n.toNat ≤ rest.length
    · rw [if_pos hwhole, ← requestOf_eq_none_iff (body := rest.take n.toNat)]
      cases hrequest : requestOf code.toNat (rest.take n.toNat) with
      | none => simp
      | some c =>
        have hc : c ≠ .badRequest (code :: n :: rest) := fun h => requestOf_ne_badRequest _ _ _ (h ▸ hrequest)
        simp [hc, hwhole]
    · simp [hwhole]

/-- R165: nothing is executed; the answer echoes the code received, and ATTN follows the flags. -/
theorem exec_badRequest (shifted : List Byte) (s : State) :
    exec (.badRequest shifted) s = done (answer .badRequest (byteAt shifted 0) [] s) := rfl

/-- Settles O3, by the catalogue's codes and the equation of BAD REQUEST. -/
theorem badFramesAnswerBadRequest : Obligations.BadFramesAnswerBadRequest := fun s shifted =>
  ⟨decodeFrame_eq_badRequest_iff shifted, (exec_badRequest shifted s).trans (done_eq _)⟩

end Sys2Proof.Machine
end

section
/-! SUPPORT. The change flags and READ CHANGES (R168): the walk of the flags, what clearing flags leaves at every record, and
the request itself. -/

namespace Sys2Proof.Machine

/-! ## The walk (R168) -/

/-- In a canonical table the keys of the records with a property are, in table order, the places that hold such a record. -/
theorem keys_filter_eq_range {α : Type} {n : Nat} {t : Tab α} (ht : tabWf n t) (p : α → Bool) :
    (t.filter fun e => p e.2).map (·.1) = (List.range n).filter fun k => (tabGet t k).any p := by
  obtain ⟨hrising, hbelow⟩ := ht
  have hkeys : ((t.filter fun e => p e.2).map (·.1)).Pairwise (· < ·) := List.pairwise_map.mpr (hrising.filter _)
  refine hkeys.eq_of_mem_iff (List.pairwise_lt_range.filter _) fun k => ?_
  rw [List.mem_filter, List.mem_range, Option.any_eq_true]
  constructor
  · intro hk
    obtain ⟨e, he, rfl⟩ := List.mem_map.mp hk
    obtain ⟨he, hp⟩ := List.mem_filter.mp he
    exact ⟨hbelow e he, e.2, tabGet_of_mem hrising he, hp⟩
  · rintro ⟨-, v, hv, hp⟩
    exact List.mem_map.mpr ⟨(k, v), List.mem_filter.mpr ⟨mem_of_tabGet hv, hp⟩, rfl⟩

/-- R168: the flags in walk order, set or not. -/
def flagWalk : List FlagKey :=
  .floor :: .list :: ((List.range 128).map FlagKey.lum ++ (List.range 32).map FlagKey.segment
    ++ (List.range 48).map FlagKey.input)

/-- R168: no flag stands twice in the walk. -/
theorem flagWalk_nodup : flagWalk.Nodup := by
  have hlums : ((List.range 128).map FlagKey.lum).Nodup := List.nodup_range.map fun _ _ h => FlagKey.lum.inj h
  have hsegs : ((List.range 32).map FlagKey.segment).Nodup := List.nodup_range.map fun _ _ h => FlagKey.segment.inj h
  have hinputs : ((List.range 48).map FlagKey.input).Nodup := List.nodup_range.map fun _ _ h => FlagKey.input.inj h
  simp [flagWalk, List.nodup_append, hlums, hsegs, hinputs, or_imp, forall_and]

/-- R167: a change flag as it stands; that of a place with no record is not set. -/
def flagSet (s : State) : FlagKey → Bool
  | .floor => s.port.floorChanged
  | .list => s.overrides.changed
  | .lum k => (lum? s k).any (·.changed)
  | .segment i => (seg? s i).any (·.changed)
  | .input a => (input? s a).any (·.changed)

/-- R168: the set flags, table by table, each by ascending key. -/
theorem setFlags_eq_ranges {s : State} (h : TablesOk s) :
    setFlags s =
      (if s.port.floorChanged then [FlagKey.floor] else []) ++ (if s.overrides.changed then [FlagKey.list] else [])
        ++ ((List.range 128).filter fun k => (lum? s k).any (·.changed)).map FlagKey.lum
        ++ ((List.range 32).filter fun i => (seg? s i).any (·.changed)).map FlagKey.segment
        ++ ((List.range 48).filter fun a => (input? s a).any (·.changed)).map FlagKey.input := by
  obtain ⟨hlums, hsegs, hinputs⟩ := h
  simp only [lum?, seg?, input?, ← keys_filter_eq_range hlums, ← keys_filter_eq_range hsegs,
    ← keys_filter_eq_range hinputs, List.map_map]
  rfl

/-- R168: the set flags are those that the walk finds set. -/
theorem setFlags_eq_flagWalk {s : State} (h : TablesOk s) : setFlags s = flagWalk.filter (flagSet s) := by
  rw [setFlags_eq_ranges h]
  cases hfloor : s.port.floorChanged <;> cases hlist : s.overrides.changed <;>
    simp [flagWalk, flagSet, hfloor, hlist, List.filter_map, Function.comp_def]

theorem setFlags_nodup {s : State} (h : TablesOk s) : (setFlags s).Nodup := by
  rw [setFlags_eq_flagWalk h]
  exact flagWalk_nodup.sublist List.filter_sublist

/-- R167: no change flag is set exactly when the walk finds none. -/
theorem anyChange_eq_false_iff (s : State) : anyChange s = false ↔ setFlags s = [] := by
  simp [anyChange, setFlags, and_assoc]

/-! ## One record changed in place -/

/-- The table with the record at a key changed; a place that is not filled stays empty. -/
def tabUpdate {α : Type} (k : Nat) (f : α → α) (t : Tab α) : Tab α :=
  match tabGet t k with
  | some v => tabPut t k (f v)
  | none => t

theorem tabGet_update {α : Type} (k : Nat) (f : α → α) (t : Tab α) (j : Nat) :
    tabGet (tabUpdate k f t) j = if j = k then (tabGet t j).map f else tabGet t j := by
  unfold tabUpdate
  cases hk : tabGet t k with
  | none => split <;> simp_all
  | some v => rw [tabGet_put]; split <;> simp_all

/-- A change of one record keeps the canonical form (R2). -/
theorem tabWf_update {α : Type} {n : Nat} {t : Tab α} (h : tabWf n t) (k : Nat) (f : α → α) :
    tabWf n (tabUpdate k f t) := by
  unfold tabUpdate
  cases hk : tabGet t k with
  | none => exact h
  | some v => exact tabWf_put h (h.2 _ (mem_of_tabGet hk))

/-! ## Clearing flags (R168) -/

/-- A luminaire record with its change flag clear. -/
def unflagLum (l : Luminaire) : Luminaire := { l with changed := false }

/-- A segment record with its change flag clear. -/
def unflagSeg (g : Segment) : Segment := { g with changed := false }

/-- An input record with its change flag clear. -/
def unflagInput (n : Input) : Input := { n with changed := false }

@[simp] theorem unflagLum_changed (l : Luminaire) : (unflagLum l).changed = false := rfl

@[simp] theorem unflagSeg_changed (g : Segment) : (unflagSeg g).changed = false := rfl

@[simp] theorem unflagInput_changed (n : Input) : (unflagInput n).changed = false := rfl

@[simp] theorem unflagLum_comp : unflagLum ∘ unflagLum = unflagLum := rfl

@[simp] theorem unflagSeg_comp : unflagSeg ∘ unflagSeg = unflagSeg := rfl

@[simp] theorem unflagInput_comp : unflagInput ∘ unflagInput = unflagInput := rfl

theorem clearFlag_lum (k : Nat) (s : State) :
    clearFlag (.lum k) s = { s with lums := tabUpdate k unflagLum s.lums } := by
  simp only [clearFlag, onLum, lum?, tabUpdate]
  cases tabGet s.lums k <;> rfl

theorem clearFlag_segment (i : Nat) (s : State) :
    clearFlag (.segment i) s = { s with segs := tabUpdate i unflagSeg s.segs } := by
  simp only [clearFlag, onSeg, seg?, tabUpdate]
  cases tabGet s.segs i <;> rfl

theorem clearFlag_input (a : Nat) (s : State) :
    clearFlag (.input a) s = { s with inputs := tabUpdate a unflagInput s.inputs } := by
  simp only [clearFlag, onInput, input?, tabUpdate]
  cases tabGet s.inputs a <;> rfl

/-- The flags of a list are cleared, and nothing else changes. -/
structure FlagsCleared (fs : List FlagKey) (s t : State) : Prop where
  lum (k : Nat) :
    lum? t k = if .lum k ∈ fs then (lum? s k).map unflagLum else lum? s k
  segment (i : Nat) :
    seg? t i = if .segment i ∈ fs then (seg? s i).map unflagSeg else seg? s i
  input (a : Nat) :
    input? t a = if .input a ∈ fs then (input? s a).map unflagInput else input? s a
  rest : t =
    { s with
      lums := t.lums
      segs := t.segs
      inputs := t.inputs
      overrides := { s.overrides with changed := s.overrides.changed && decide (.list ∉ fs) }
      port := { s.port with floorChanged := s.port.floorChanged && decide (.floor ∉ fs) } }
  tables : TablesOk s → TablesOk t

theorem clearFlag_cleared (f : FlagKey) (s : State) : FlagsCleared [f] s (clearFlag f s) := by
  cases f with
  | floor => constructor <;> simp [clearFlag, lum?, seg?, input?]
  | list => constructor <;> simp [clearFlag, putOverrides, lum?, seg?, input?]
  | lum k =>
    rw [clearFlag_lum]
    constructor
    case tables => exact fun ⟨hlums, hrest⟩ => ⟨tabWf_update hlums k _, hrest⟩
    all_goals simp [lum?, seg?, input?, tabGet_update]
  | segment i =>
    rw [clearFlag_segment]
    constructor
    case tables => exact fun ⟨hlums, hsegs, hinputs⟩ => ⟨hlums, tabWf_update hsegs i _, hinputs⟩
    all_goals simp [lum?, seg?, input?, tabGet_update]
  | input a =>
    rw [clearFlag_input]
    constructor
    case tables => exact fun ⟨hlums, hsegs, hinputs⟩ => ⟨hlums, hsegs, tabWf_update hinputs a _⟩
    all_goals simp [lum?, seg?, input?, tabGet_update]

/-- R168: the change flags of a list cleared, one after the other. -/
def clearFlags (fs : List FlagKey) (s : State) : State := fs.foldl (fun u f => clearFlag f u) s

/-- A change that is made where it is called for, and once more where it is called for again, is made once. -/
theorem map_when_or {α : Type} {f : α → α} (hf : f ∘ f = f) (p q : Prop) [Decidable p] [Decidable q] (o : Option α) :
    (if q then Option.map f (if p then o.map f else o) else if p then o.map f else o) =
      if p ∨ q then o.map f else o := by
  by_cases hp : p <;> simp [hp, hf]

/-- The flags of a list are cleared one after the other. -/
theorem FlagsCleared.cons {f : FlagKey} {fs : List FlagKey} {s t u : State} (h : FlagsCleared [f] s t)
    (k : FlagsCleared fs t u) : FlagsCleared (f :: fs) s u where
  lum j := by rw [k.lum, h.lum, map_when_or unflagLum_comp]; simp
  segment i := by rw [k.segment, h.segment, map_when_or unflagSeg_comp]; simp
  input a := by rw [k.input, h.input, map_when_or unflagInput_comp]; simp
  rest := by rw [k.rest, h.rest]; simp [Bool.and_assoc]
  tables := k.tables ∘ h.tables

theorem clearFlags_cleared (fs : List FlagKey) (s : State) : FlagsCleared fs s (clearFlags fs s) := by
  induction fs generalizing s with
  | nil => constructor <;> simp [clearFlags]
  | cons f fs ih => exact (clearFlag_cleared f s).cons (ih _)

/-- A property that no changed record has is had by no record after the change. -/
theorem any_map_eq_false {α : Type} {p : α → Bool} {f : α → α} (h : ∀ v, p (f v) = false) (o : Option α) :
    (o.map f).any p = false := by
  cases o <;> simp [h]

section Cleared

variable {fs : List FlagKey} {s t : State}

/-- A flag is set after the read exactly where it was set and was not cleared. -/
theorem FlagsCleared.flagSet_eq (h : FlagsCleared fs s t) (f : FlagKey) :
    flagSet t f = (flagSet s f && decide (f ∉ fs)) := by
  cases f with
  | floor => simp only [flagSet]; rw [h.rest]
  | list => simp only [flagSet]; rw [h.rest]
  | lum k => by_cases hk : FlagKey.lum k ∈ fs <;> simp [flagSet, h.lum, hk, any_map_eq_false unflagLum_changed]
  | segment i => by_cases hi : FlagKey.segment i ∈ fs <;> simp [flagSet, h.segment, hi, any_map_eq_false unflagSeg_changed]
  | input a => by_cases ha : FlagKey.input a ∈ fs <;> simp [flagSet, h.input, ha, any_map_eq_false unflagInput_changed]

/-- R168: the set flags that were not cleared, still in walk order. -/
theorem FlagsCleared.setFlags_eq (h : FlagsCleared fs s t) (hs : TablesOk s) :
    setFlags t = (setFlags s).filter fun f => decide (f ∉ fs) := by
  rw [setFlags_eq_flagWalk (h.tables hs), setFlags_eq_flagWalk hs, List.filter_filter]
  exact List.filter_congr fun f _ => (h.flagSet_eq f).trans (Bool.and_comm ..)

/-- Of the luminaires nothing changes but the flags. -/
theorem FlagsCleared.unflagLum_eq (h : FlagsCleared fs s t) (k : Nat) :
    (lum? t k).map unflagLum = (lum? s k).map unflagLum := by
  rw [h.lum]; split <;> simp

theorem FlagsCleared.unflagSeg_eq (h : FlagsCleared fs s t) (i : Nat) :
    (seg? t i).map unflagSeg = (seg? s i).map unflagSeg := by
  rw [h.segment]; split <;> simp

theorem FlagsCleared.unflagInput_eq (h : FlagsCleared fs s t) (a : Nat) :
    (input? t a).map unflagInput = (input? s a).map unflagInput := by
  rw [h.input]; split <;> simp

end Cleared

/-- Of a list without repetition, what is not among its first `n` is the rest. -/
theorem filter_not_mem_take {α : Type} [DecidableEq α] {l : List α} (h : l.Nodup) (n : Nat) :
    (l.filter fun x => decide (x ∉ l.take n)) = l.drop n := by
  rw [← List.take_append_drop n l, List.nodup_append] at h
  obtain ⟨-, -, hdisjoint⟩ := h
  conv_lhs => enter [2]; rw [← List.take_append_drop n l]
  rw [List.filter_append, List.filter_eq_nil_iff.mpr (by simp), List.nil_append, List.filter_eq_self]
  exact fun x hx => decide_eq_true fun hx' => hdisjoint x hx' x hx rfl

/-! ## READ CHANGES (R168) -/

/-- R172: the key byte of a luminaire: its address on line A, 128 more on line B. -/
theorem byteOfKey_eq {k : Nat} (h : k < 128) : byteOfKey k = byte (if k < 64 then k else 128 + (k - 64)) := by
  rw [byteOfKey]
  congr 1
  split <;> omega

/-- R168: the flags that one READ CHANGES returns. -/
def returnedFlags (s : State) : List FlagKey := (setFlags s).take 16

theorem exec_readChanges (body : List Byte) (s : State) :
    exec (.readChanges body) s =
      done (answer .ok 0x62
        ([byte (returnedFlags s).length, byte (anyChange (clearFlags (returnedFlags s) s)).toNat]
          ++ (returnedFlags s).flatMap flagBytes)
        (clearFlags (returnedFlags s) s)) := rfl

/-- R168: the floor stands first in the walk: its flag does not stay set. -/
theorem floor_not_left (s : State) : (s.port.floorChanged && decide (.floor ∉ returnedFlags s)) = false := by
  cases hfloor : s.port.floorChanged <;> simp [returnedFlags, setFlags, hfloor]

/-- R168: the override list stands second in the walk: its flag does not stay set. -/
theorem list_not_left (s : State) : (s.overrides.changed && decide (.list ∉ returnedFlags s)) = false := by
  cases hlist : s.overrides.changed <;> cases hfloor : s.port.floorChanged <;>
    simp [returnedFlags, setFlags, hlist, hfloor]

section Read

variable {s t : State}

/-- R168: the flags beyond the first 16 stay set. -/
theorem setFlags_of_returned (h : FlagsCleared (returnedFlags s) s t) (hs : TablesOk s) :
    setFlags t = (setFlags s).drop 16 :=
  (h.setFlags_eq hs).trans (filter_not_mem_take (setFlags_nodup hs) 16)

/-- R168: a flag is still set after the read exactly when more than 16 were set before it. -/
theorem anyChange_of_returned (h : FlagsCleared (returnedFlags s) s t) (hs : TablesOk s) :
    (anyChange t).toNat = if 16 < (setFlags s).length then 1 else 0 := by
  have hnone : anyChange t = false ↔ (setFlags s).length ≤ 16 := by
    rw [anyChange_eq_false_iff, setFlags_of_returned h hs, List.drop_eq_nil_iff]
  cases hany : anyChange t with
  | false => rw [if_neg (Nat.not_lt.mpr (hnone.mp hany)), Bool.toNat_false]
  | true => rw [if_pos (Nat.lt_of_not_le fun hle => by simp [hnone.mpr hle] at hany), Bool.toNat_true]

/-- What the read leaves beside the records: the flags of the floor and of the list are clear, and all else is as it was. -/
theorem rest_of_returned (h : FlagsCleared (returnedFlags s) s t) :
    t.port = { s.port with floorChanged := false } ∧ t.overrides = { s.overrides with changed := false }
      ∧ t.lineA = s.lineA ∧ t.lineB = s.lineB ∧ SameFloor s t := by
  have hrest := h.rest
  rw [floor_not_left, list_not_left] at hrest
  rw [hrest]
  exact ⟨rfl, rfl, rfl, rfl, rfl, rfl, rfl, rfl⟩

/-- R168: the request clears the flags that it answers, and says whether there were more. -/
theorem readChanges_answers (body : List Byte) (hs : TablesOk s) :
    ∃ u, FlagsCleared (returnedFlags s) s u ∧
      exec (.readChanges body) s =
        done (answer .ok 0x62
          ([byte (returnedFlags s).length, byte (if 16 < (setFlags s).length then 1 else 0)]
            ++ (returnedFlags s).flatMap flagBytes) u) := by
  have hcleared := clearFlags_cleared (returnedFlags s) s
  exact ⟨_, hcleared, by rw [exec_readChanges, anyChange_of_returned hcleared hs]⟩

end Read

/-- Settles O41, by the walk of the flags and by what clearing the first 16 of them leaves. -/
theorem readChangesReturnsAndClears : Obligations.ReadChangesReturnsAndClears := by
  refine ⟨⟨rfl, rfl, fun k hk => by rw [flagBytes, byteOfKey_eq hk], fun _ => rfl, fun _ => rfl⟩,
    fun s hs => setFlags_eq_ranges hs, fun s body hs => ?read⟩
  case read =>
    obtain ⟨u, hcleared, hexec⟩ := readChanges_answers body hs
    obtain ⟨hport, hrest⟩ := rest_of_returned hcleared
    have hleft : setFlags u = (setFlags s).drop 16 := setFlags_of_returned hcleared hs
    refine ⟨_, hexec.trans (done_eq _), ?port, hleft, hcleared.unflagLum_eq, hcleared.unflagSeg_eq,
      hcleared.unflagInput_eq, hrest⟩
    case port => rw [PortAnswers, withAttn_port, answer_port, hport, returnedFlags]

end Sys2Proof.Machine
end

section
/-! SUPPORT. What a command can do, said once: the acts that the commands are made of, each with the checks under which it is
done. A law that every act keeps is a law that every step keeps. -/

namespace Sys2Proof.Machine

/-! ## The acts on the records of the floor -/

/-- The events at the segments, and the requests on them. -/
inductive SegAct (s : State) : State → Prop
  | stepped (i : Nat) : SegAct s (stepExpiry i s)
  | skyChanged (i : Nat) : SegAct s (skyChange i s)
  | offDelayed (i : Nat) : SegAct s (segExpiry i (·.offTimer) (fun g t => putSeg i (offDelayed t g) t) s)
  | fellBack (i : Nat) : SegAct s (segExpiry i (·.blindTimer) (fun g t => putRising i g (fellBack g) t) s)
  | fellShort (i : Nat) :
      SegAct s (segExpiry i (·.shortTimer)
        (fun g => putSeg i { g with shortfall := true, changed := true, shortTimer := none }) s)
  | holdExpired (i : Nat) : SegAct s (segExpiry i (·.holdTimer) (holdExpired i) s)
  | moved (byRequest : Bool) (i : Nat) : SegAct s (motion byRequest i s)
  | recapped (i : Nat) : SegAct s (recomputeCap i s)
  | defined (body : List Byte) (i : Nat) (hid : i ≤ 31) (hnone : seg? s i = none)
      (hrow : (segField body 0).isNone = false) (henums : segEnumsOk body = true)
      (hrefs : refsFit s i (takeSegStructure body segDefaults) = true) :
      SegAct s (defineSeg i (takeSegNumbers body (takeSegStructure body segDefaults)).1 s)
  | amended (body : List Byte) (i : Nat) (g : Segment) (clear : Bool) (hg : seg? s i = some g)
      (henums : segEnumsOk body = true)
      (hrefs : carriesRefs body = true → refsFit s i (takeSegStructure body g.cfg) = true)
      (hlinked : (takeSegStructure body g.cfg).row ≠ g.cfg.row → isOuter s i = false) :
      SegAct s (amendSeg i g (takeSegNumbers body (takeSegStructure body g.cfg)).1 clear s)
  | unflagged (i : Nat) : SegAct s (clearFlag (.segment i) s)

/-- The events at the override list, and the requests on it. -/
inductive ListAct (s : State) : State → Prop
  | wentVacant (i : Nat) : ListAct s (segExpiry i (·.setbackTimer) (goVacant i) s)
  | placed (cls : OvClass) (scope : Scope) (kind : Nat) (value : Int) (action : OvAction) (clamped : Bool) (hold : Nat)
      (hscope : scopeOk s scope = true) (haction : actionOf kind value = some (action, clamped))
      (hroom : findRecord .floor scope s.overrides.records = none → listRefuses s.overrides.records = false) :
      ListAct s (placeFloor cls scope action (holdOf cls hold).1 s)
  | pressed (a : Nat) (n : Input) (scope : Scope) (hold : Nat) (lastButton : Option Button) (sequence : Option Nat)
      (b : Button) (hn : input? s a = some n) (hdevice : n.device = .station scope hold lastButton sequence) :
      ListAct s (pressList a scope hold b (motion false scope.segment s))
  | retired (p : Override → Bool) (flag : Bool) : ListAct s (retireRecords p flag s)
  | retiredSeg (i : Nat) (href : segReferenced s i = false) : ListAct s (retireSeg i s)
  | counted : ListAct s (countHolds s)
  | unflagged : ListAct s (clearFlag .list s)

/-- What an act other than an enrolment, an amendment or a retirement can make of an input's record. -/
inductive InputMove : Input → Input → Prop
  | reinstated {n : Input} {c : PhotoConfig} {m : Measurement} (hdevice : n.device = .photo c m)
      (hstate : m.state = .quarantined) : InputMove n { n with device := .photo c unseeded }
  | calibrated {n : Input} {c : PhotoConfig} {m : Measurement} (hdevice : n.device = .photo c m) (task : Nat) :
      InputMove n { n with device := .photo { c with ratio := (calibrated task (filtered m)).1 } m }
  | unflagged (n : Input) : InputMove n { n with changed := false }
  | released {n : Input} {c : PhotoConfig} {m : Measurement} (hdevice : n.device = .photo c m) :
      InputMove n { n with device := .photo c unseeded, changed := true }
  | polled (n : Input) : InputMove n (restartPoll n)
  | heard (n : Input) :
      InputMove n { n with link := .reporting, missCount := 0, changed := n.changed || n.link != .reporting }
  | sampled {n : Input} {c : PhotoConfig} {m : Measurement} (hdevice : n.device = .photo c m)
      (hlink : n.link = .reporting) (x : Nat) (hx : x ≤ 65535) (changed : Bool) :
      InputMove n { n with device := .photo c (sample c m x).1, changed := changed }
  | reported {n : Input} {coverage : List Nat} {last : Option Report} (hdevice : n.device = .presence coverage last)
      (hlink : n.link = .reporting) (report : Report) :
      InputMove n { n with device := .presence coverage (some report) }
  | sequenced {n : Input} {scope : Scope} {hold : Nat} {lastButton : Option Button} {recorded : Option Nat}
      (hdevice : n.device = .station scope hold lastButton recorded) (hlink : n.link = .reporting) (sequence : Nat) :
      InputMove n { n with device := .station scope hold lastButton (some sequence) }
  | pressed {n : Input} {scope : Scope} {hold : Nat} {lastButton : Option Button} {recorded : Option Nat}
      (hdevice : n.device = .station scope hold lastButton recorded) (b : Button) :
      InputMove n { n with device := .station scope hold (some b) recorded, changed := true }
  | missed (n : Input) (misses : Nat) : InputMove n { n with missCount := misses }
  | lost (n : Input) (link : InputLink) (misses : Nat) (changed : Bool) (hlink : link ≠ .reporting) :
      InputMove n
        { n with
          link := link
          missCount := misses
          device := if n.link = .reporting then deviceLost n.device else n.device
          changed := changed }
  | ticked (n : Input) : InputMove n (tickInput n)
  | warmed (running : Bool) (n : Input) : InputMove n (warmInput running n)

/-- R17: the record of an input enrolled with a device. -/
def enrolledInput (k : InputKind) (d : Device) (interval missLimit : Option Nat) : Input :=
  { device := d, interval := (takeNum 2 50 (defaultInterval k) interval).1, missLimit := (takeNum 1 15 3 missLimit).1,
    link := .absent, missCount := 0, pollTimer := startTimer (takeNum 2 50 (defaultInterval k) interval).1,
    changed := false }

/-- R19: the record of an input amended to a device. -/
def amendedInput (n : Input) (d : Device) (interval missLimit : Option Nat) : Input :=
  { n with
    device := d
    interval := (takeNum 2 50 n.interval interval).1
    missLimit := (takeNum 1 15 n.missLimit missLimit).1 }

/-- The events at the inputs and at the input line, and the requests on them. -/
inductive InputAct (s : State) : State → Prop
  | put {a : Nat} {n new : Input} (hn : input? s a = some n) (hmove : InputMove n new)
      (hlink : n.link = .reporting → new.link = .reporting) : InputAct s (putInput a new s)
  | enrolled (body : List Byte) (a : Nat) (k : InputKind) (d : Device) (clamped : Bool) (interval missLimit : Option Nat)
      (haddr : a ≤ 47) (hnone : input? s a = none) (hcomplete : enrolComplete k body = true)
      (hdevice : takeDevice s body (freshDevice k) = some (d, clamped)) :
      InputAct s (putInput a (enrolledInput k d interval missLimit) s)
  | amended (body : List Byte) (a : Nat) (n : Input) (d : Device) (clamped : Bool) (interval missLimit : Option Nat)
      (hn : input? s a = some n) (hdevice : takeDevice s body n.device = some (d, clamped)) :
      InputAct s (amendInputRecord a n (amendedInput n d interval missLimit) s)
  | retired (a : Nat) (n : Input) (hn : input? s a = some n)
      (hfree : deviceKind n.device = .photo → namedAsSensor s a = false) : InputAct s (retireInput a n s)
  | lost (a : Nat) (link : InputLink) (misses : Nat) (hlink : link ≠ .reporting) : InputAct s (dropLink a link misses s)
  | lineDown (hstate : s.inputLine.state = .running) : InputAct s (goDownInput s)
  | lineUp (hstate : s.inputLine.state = .down) :
      InputAct s (flagFloor (putInputLine { s.inputLine with state := .running }
        { s with inputs := tabMap s.inputs restartPoll }))
  | chose : InputAct s (arbitrateInput s)
  | joinedDue (a : Nat) (hn : (input? s a).isSome = true) (hstate : s.inputLine.state = .running)
      (hdue : s.inputLine.due.contains a = false) :
      InputAct s (putInputLine { s.inputLine with due := s.inputLine.due ++ [a] } s)
  | pollEnded (a : Nat) (mark : PollMark) (hflight : s.inputLine.flight = some (.due a mark)) : InputAct s (clearPoll s)
  | spotEnded (a : Nat) (reply : Option InputValue) (hflight : s.inputLine.flight = some (.spot a)) :
      InputAct s (endSpot a reply (clearPoll s))
  | spotAsked (a : Nat) (hstate : s.inputLine.state = .running) (hfree : s.inputLine.spotRequest = none) :
      InputAct s (putInputLine { s.inputLine with spotRequest := some ⟨a, false⟩ } s)
  | spotRefused (a : Nat) (hfree : s.inputLine.spotRequest = none) : InputAct s (endSpot a none s)
  | pinMoved (high : Bool) : InputAct s (putInputLine { s.inputLine with rxHigh := high } s)

/-- One act on the segments, the override list, the inputs and the input line. -/
inductive RecordAct (s : State) : State → Prop
  | seg {t : State} (h : SegAct s t) : RecordAct s t
  | list {t : State} (h : ListAct s t) : RecordAct s t
  | input {t : State} (h : InputAct s t) : RecordAct s t

/-- Acts on the segments, the override list, the inputs and the input line, one after the other. -/
abbrev RecordActs : State → State → Prop := Relation.ReflTransGen RecordAct

/-- The inputs of composition of every segment stand, and no segment goes. -/
def Quiet (s t : State) : Prop :=
  ∀ i : Nat, sameInputs s t i = true ∧ ((seg? s i).isSome = true → (seg? t i).isSome = true)

/-! ## The acts on the fixtures -/

/-- The events at the luminaires and at the fixture lines, and the requests on them. -/
inductive FixtureAct (s : State) : State → Prop
  | enrolled (f : LumFields) (k : Nat) (hkey : k < 128) (hnone : lum? s k = none) :
      FixtureAct s (putLum k (takeLumNumbers f freshLum).1 s)
  | amended (f : LumFields) (k : Nat) (l : Luminaire) (place : Option Place) (hl : lum? s k = some l)
      (hplace : amendedPlace s l f = .ok place)
      (hfree : f.segment.isSome = true ∨ f.position.isSome = true → (place.map (positionHeld s k)).getD false = false) :
      FixtureAct s (amendLum k l (takeLumNumbers f { l with place := place }).1 s)
  | retired (k : Nat) (hl : (lum? s k).isSome = true) :
      FixtureAct s { forgetLum k s with lums := tabDel (forgetLum k s).lums k }
  | unflagged (k : Nat) : FixtureAct s (clearFlag (.lum k) s)
  | levelEnded (i : LineId) (code k : Nat) (retired : Bool)
      (hflight : (lineOf i s).flight = some ⟨.level code, k, retired⟩) :
      FixtureAct s (arbitrate i (levelEnded i code k retired (clearFlight i s)))
  | answered (i : LineId) (kind : FrameKind) (k : Nat) (retired : Bool) (d : DriverReply)
      (hflight : (lineOf i s).flight = some ⟨kind, k, retired⟩) (hkind : ∀ code, kind ≠ .level code)
      (hecho : d.echo ≤ 255) :
      FixtureAct s (arbitrate i (if retired then clearFlight i s else replied i k d (clearFlight i s)))
  | unanswered (i : LineId) (kind : FrameKind) (k : Nat) (retired : Bool)
      (hflight : (lineOf i s).flight = some ⟨kind, k, retired⟩) (hkind : ∀ code, kind ≠ .level code) :
      FixtureAct s (arbitrate i (if retired then clearFlight i s else queryMissed i kind k (clearFlight i s)))
  | lineDown (i : LineId) (hstate : (lineOf i s).state = .running) : FixtureAct s (goDown i s)
  | lineUp (i : LineId) (hstate : (lineOf i s).state = .down) :
      FixtureAct s (fullRefresh i (flagFloor (putLine i { lineOf i s with state := .running } s)))
  | pinRose (i : LineId) : FixtureAct s (arbitrate i (putLine i { lineOf i s with rxHigh := true } s))
  | pinFell (i : LineId) : FixtureAct s (putLine i { lineOf i s with rxHigh := false } s)
  | filled (i : LineId) : FixtureAct s (fillScanSlot i s)

/-! ## The acts of the block -/

/-- R171: the state after a cold reset, the SHED pin standing low or high. -/
def coldState (low : Bool) (s : State) : State :=
  { State.reset with
    composer := Composer.reset low
    lineA := { FixtureLine.reset with rxHigh := s.lineA.rxHigh }
    lineB := { FixtureLine.reset with rxHigh := s.lineB.rxHigh }
    inputLine := { InputLine.reset with rxHigh := s.inputLine.rxHigh }
    draws := s.draws
    pending := s.pending }

theorem exec_coldReset (low : Bool) (s : State) : exec (.coldReset low) s = done (coldState low s) := rfl

/-- What a command can do at once: an event, its recompositions with it, or an act outside the composition. -/
inductive Act (s : State) : State → Prop
  | event {f : State → State} (h : RecordActs s (f s)) : Act s (event f s)
  | quiet {t : State} (h : RecordAct s t) (hquiet : Quiet s t) : Act s t
  | fixture {t : State} (h : FixtureAct s t) : Act s t
  | recapped (c : Composer) (hcap : c.floorCap ≤ max 1000 s.composer.floorCap)
      (hnumber : c.snapshotNumber = s.composer.snapshotNumber) (hsnapshot : c.snapshot = s.composer.snapshot) : Act s (recomputeAllCaps { s with composer := c })
  | captured : Act s { s with composer :=
      { s.composer with snapshot := talliesOf s, snapshotNumber := nextSnapshotNumber s.composer.snapshotNumber } }
  | sampledPin (low : Bool) : Act s { s with composer := { s.composer with shedPinLow := low } }
  | ticked : Act s (tickAll s)
  | tallied : Act s (addTallies s)
  | holdsTaken : Act s { s with time := { s.time with holdsDue := false } }
  | drew (n : Nat) : Act s { s with draws := n }
  | portSet (p : Port) : Act s { s with port := p }
  | warmReset : Act s (warmReset s)
  | coldReset (low : Bool) : Act s (coldState low s)

/-- What a command can do: acts, one after the other. -/
abbrev Acts : State → State → Prop := Relation.ReflTransGen Act

end Sys2Proof.Machine
end

section
/-! SUPPORT. Every command is made of acts. -/

namespace Sys2Proof.Machine

/-! ## One act after the other -/

theorem acts_single {s t : State} (h : Act s t) : Acts s t := .single h

theorem recordActs_single {s t : State} (h : RecordAct s t) : RecordActs s t := .single h

theorem recordActs_onSeg {i : Nat} {f : Segment → State → State} {s : State}
    (h : ∀ g, seg? s i = some g → RecordActs s (f g s)) : RecordActs s (onSeg i f s) := onSeg_rel (R := RecordActs) .refl h

theorem acts_onInput {a : Nat} {f : Input → State → State} {s : State}
    (h : ∀ n, input? s a = some n → Acts s (f n s)) : Acts s (onInput a f s) := onInput_rel (R := Acts) .refl h

theorem acts_draws (s : State) (n : Nat) : Acts s { s with draws := n } := .single (.drew n)

theorem acts_forEachFree {f : Nat → State → State} {ks : List Nat} (h : ∀ k ∈ ks, ∀ s, Acts s (f k s)) (s : State) :
    Acts s (forEachFree ks f s) := forEachFree_rel (R := Acts) .trans acts_draws h s

theorem acts_event_seg {f : State → State} {s : State} (h : SegAct s (f s)) : Act s (event f s) :=
  .event (.single (.seg h))

/-- Segments and list as they were. -/
theorem quiet_of_eq {s t : State} (hsegs : t.segs = s.segs) (hlist : t.overrides.records = s.overrides.records) :
    Quiet s t := by
  intro i
  have hseg : seg? t i = seg? s i := by simp only [seg?, hsegs]
  simp only [sameInputs, recordsOf, hseg, hlist]
  cases seg? s i <;> simp

theorem sameInputs_of_composesAlike {s t : State} {i : Nat} {g u : Segment} (hg : seg? s i = some g)
    (hu : seg? t i = some u) (h : ComposesAlike g u) (hlist : t.overrides.records = s.overrides.records) :
    sameInputs s t i = true := by
  obtain ⟨hcfg, hh, hactivity, hcap⟩ := h
  simp [sameInputs, recordsOf, hg, hu, hcfg, hh, hactivity, hcap, hlist]

/-- A record put that composes alike. -/
theorem quiet_putSeg {s : State} {i : Nat} {g u : Segment} (hg : seg? s i = some g) (h : ComposesAlike g u) :
    Quiet s (putSeg i u s) := by
  intro j
  refine ⟨sameInputs_putSeg hg h j, fun hj => ?_⟩
  rw [seg?_putSeg]
  split
  · rfl
  · exact hj

theorem quiet_refl (s : State) : Quiet s s := quiet_of_eq rfl rfl

theorem quiet_onSeg {i : Nat} {f : Segment → State → State} {s : State}
    (h : ∀ g, seg? s i = some g → Quiet s (f g s)) : Quiet s (onSeg i f s) :=
  onSeg_rel (R := Quiet) (quiet_refl s) h

theorem InputAct.act {s t : State} (h : InputAct s t) (hsegs : t.segs = s.segs)
    (hlist : t.overrides.records = s.overrides.records) : Act s t := .quiet (.input h) (quiet_of_eq hsegs hlist)

theorem act_put {s : State} {a : Nat} {n new : Input} (hn : input? s a = some n) (hmove : InputMove n new)
    (hlink : n.link = .reporting → new.link = .reporting) : Act s (putInput a new s) :=
  (InputAct.put hn hmove hlink).act rfl rfl

/-! ## How a command ends -/

/-- A command that is made of acts, and ends as every command does. -/
def MadeOfActs (s : State) (o : Host.Outcome State Fault Refusal) : Prop := ∃ u, Acts s u ∧ o = done u

section Ends

variable {s u : State} {st : Status} {code : Nat} {body : List Byte}

theorem madeOfActs_done (h : Acts s u) : MadeOfActs s (done u) := ⟨u, h, rfl⟩

theorem madeOfActs_answer {bytes : List Byte} (h : Acts s u) : MadeOfActs s (done (answer st code bytes u)) :=
  madeOfActs_done (h.tail (.portSet _))

theorem madeOfActs_deny : MadeOfActs s (deny st code s) := madeOfActs_answer .refl

theorem madeOfActs_same : MadeOfActs s (done s) := madeOfActs_done .refl

/-! ## The requests on luminaires -/

theorem enrolLuminaire_acts : MadeOfActs s (execEnrolLuminaire body s) := by
  unfold execEnrolLuminaire
  dsimp only
  split
  · exact madeOfActs_deny
  · split
    · exact madeOfActs_deny
    · rename_i hnone
      split
      · exact madeOfActs_deny
      · exact madeOfActs_answer (.single (.fixture (.enrolled _ _ (keyOfByte_lt _) hnone)))

theorem amendLuminaire_acts : MadeOfActs s (execAmendLuminaire body s) := by
  unfold execAmendLuminaire
  dsimp only
  split
  · exact madeOfActs_deny
  · split
    · exact madeOfActs_deny
    · rename_i l hl
      split
      · exact madeOfActs_deny
      · rename_i place hplace
        split
        · exact madeOfActs_deny
        · rename_i hfree
          refine madeOfActs_answer (.single (.fixture (.amended _ _ l place hl hplace fun hcarried => ?_)))
          simpa [Bool.or_eq_true, hcarried] using Bool.eq_false_iff.mpr hfree

theorem readLuminaire_acts : MadeOfActs s (execReadLuminaire body s) := by
  unfold execReadLuminaire
  dsimp only
  split
  · exact madeOfActs_deny
  · split
    · exact madeOfActs_deny
    · exact madeOfActs_answer .refl

theorem retireLuminaire_acts : MadeOfActs s (execRetireLuminaire body s) := by
  unfold execRetireLuminaire
  dsimp only
  split
  · exact madeOfActs_deny
  · split
    · exact madeOfActs_deny
    · rename_i l hl
      exact madeOfActs_answer (.single (.fixture (.retired _ (by rw [hl]; rfl))))

/-! ## The requests on segments -/

theorem defineSegment_acts : MadeOfActs s (execDefineSegment body s) := by
  unfold execDefineSegment
  dsimp only
  split
  · exact madeOfActs_deny
  · split
    · exact madeOfActs_deny
    · rename_i hid
      split
      · exact madeOfActs_deny
      · rename_i hnone
        split
        · exact madeOfActs_deny
        · rename_i hchecks
          simp only [Bool.or_eq_true, Bool.not_eq_true', not_or, Bool.not_eq_true, Bool.not_eq_false] at hchecks
          obtain ⟨⟨hrow, henums⟩, hrefs⟩ := hchecks
          exact madeOfActs_answer (.single (acts_event_seg (.defined body _ (by omega) hnone hrow henums hrefs)))

theorem amendSegment_acts : MadeOfActs s (execAmendSegment body s) := by
  unfold execAmendSegment
  dsimp only
  split
  · exact madeOfActs_deny
  · split
    · exact madeOfActs_deny
    · split
      · exact madeOfActs_deny
      · rename_i g hg
        split
        · exact madeOfActs_deny
        · rename_i hchecks
          split
          · exact madeOfActs_deny
          · rename_i hlinked
            simp only [Bool.or_eq_true, Bool.not_eq_true', Bool.and_eq_true, not_or, not_and, Bool.not_eq_false,
              Bool.not_eq_true] at hchecks hlinked
            obtain ⟨henums, hrefs⟩ := hchecks
            exact madeOfActs_answer (.single (acts_event_seg (.amended body _ g _ hg henums hrefs hlinked)))

theorem readSegment_acts : MadeOfActs s (execReadSegment body s) := by
  unfold execReadSegment
  dsimp only
  split
  · exact madeOfActs_deny
  · split
    · exact madeOfActs_deny
    · split
      · exact madeOfActs_deny
      · exact madeOfActs_answer .refl

theorem retireSegment_acts : MadeOfActs s (execRetireSegment body s) := by
  unfold execRetireSegment
  dsimp only
  split
  · exact madeOfActs_deny
  · split
    · exact madeOfActs_deny
    · split
      · exact madeOfActs_deny
      · split
        · exact madeOfActs_deny
        · rename_i href
          exact madeOfActs_answer
            (.single (.event (.single (.list (.retiredSeg _ (Bool.eq_false_iff.mpr href))))))

/-! ## The requests on inputs -/

theorem enrolInput_acts : MadeOfActs s (execEnrolInput body s) := by
  unfold execEnrolInput
  dsimp only
  split
  · exact madeOfActs_deny
  · split
    · exact madeOfActs_deny
    · rename_i haddr
      split
      · exact madeOfActs_deny
      · rename_i hnone
        split
        · exact madeOfActs_deny
        · split
          · exact madeOfActs_deny
          · rename_i k _ hforeign
            split
            · exact madeOfActs_deny
            · rename_i d clamped hdevice
              simp only [Bool.or_eq_true, Bool.not_eq_true', not_or, Bool.not_eq_false] at hforeign
              exact madeOfActs_answer (.single (InputAct.act
                (.enrolled body _ k d clamped _ _ (by omega) hnone hforeign.2 hdevice) rfl rfl))

theorem amendInput_acts : MadeOfActs s (execAmendInput body s) := by
  unfold execAmendInput
  dsimp only
  split
  · exact madeOfActs_deny
  · split
    · exact madeOfActs_deny
    · split
      · exact madeOfActs_deny
      · rename_i n hn
        split
        · exact madeOfActs_deny
        · split
          · exact madeOfActs_deny
          · rename_i d clamped hdevice
            exact madeOfActs_answer
              (.single (.event (.single (.input (.amended body _ n d clamped _ _ hn hdevice)))))

theorem readInput_acts : MadeOfActs s (execReadInput body s) := by
  unfold execReadInput
  dsimp only
  split
  · exact madeOfActs_deny
  · split
    · exact madeOfActs_deny
    · split
      · exact madeOfActs_deny
      · exact madeOfActs_answer .refl

theorem retireInput_acts : MadeOfActs s (execRetireInput body s) := by
  unfold execRetireInput
  dsimp only
  split
  · exact madeOfActs_deny
  · split
    · exact madeOfActs_deny
    · split
      · exact madeOfActs_deny
      · rename_i n hn
        split
        · exact madeOfActs_deny
        · rename_i hfree
          rw [not_and, Bool.not_eq_true] at hfree
          exact madeOfActs_answer (.single (.event (.single (.input (.retired _ n hn hfree)))))

theorem reinstateInput_acts : MadeOfActs s (execReinstateInput body s) := by
  unfold execReinstateInput
  dsimp only
  split
  · exact madeOfActs_deny
  · split
    · exact madeOfActs_deny
    · split
      · exact madeOfActs_deny
      · rename_i n hn
        split
        · rename_i c m hdevice
          split
          · rename_i hstate
            exact madeOfActs_answer (.single (act_put hn (.reinstated hdevice hstate) id))
          · exact madeOfActs_deny
        · exact madeOfActs_deny

theorem calibrate_acts : MadeOfActs s (execCalibrate body s) := by
  unfold execCalibrate
  dsimp only
  split
  · exact madeOfActs_deny
  · split
    · exact madeOfActs_deny
    · split
      · exact madeOfActs_deny
      · split
        · exact madeOfActs_deny
        · split
          · exact madeOfActs_deny
          · rename_i n hn
            split
            · rename_i c m hdevice
              split
              · exact madeOfActs_deny
              · exact madeOfActs_answer (.single (act_put hn (.calibrated hdevice _) id))
            · exact madeOfActs_deny

/-! ## The requests on the override list -/

theorem placeOverride_acts : MadeOfActs s (execPlaceOverride body s) := by
  unfold execPlaceOverride
  dsimp only
  split
  · exact madeOfActs_deny
  · split
    · exact madeOfActs_deny
    · rename_i hscope
      split
      · rename_i cls action c1 _ haction
        split
        · exact madeOfActs_deny
        · rename_i hroom
          simp only [Bool.not_eq_true', Bool.not_eq_false] at hscope
          refine madeOfActs_answer (.single (.event (.single (.list
            (.placed cls _ _ _ action c1 _ hscope haction fun hnone => ?_)))))
          simpa [hnone] using hroom
      · exact madeOfActs_deny

theorem cancelOverride_acts : MadeOfActs s (execCancelOverride body s) := by
  unfold execCancelOverride
  dsimp only
  split
  · exact madeOfActs_deny
  · split
    · exact madeOfActs_deny
    · split
      · exact madeOfActs_answer (.single (.event (.single (.list (.retired _ _)))))
      · exact madeOfActs_deny

theorem readOverrides_acts : MadeOfActs s (execReadOverrides body s) := by
  unfold execReadOverrides
  dsimp only
  split
  · exact madeOfActs_deny
  · split
    · exact madeOfActs_deny
    · exact madeOfActs_answer .refl

/-! ## The requests of the port, the floor cap and the tallies -/

theorem flagFloor_acts (s : State) : Acts s (flagFloor s) := .single (.portSet _)

theorem spotRead_acts : MadeOfActs s (execSpotRead body s) := by
  unfold execSpotRead
  dsimp only
  split
  · exact madeOfActs_deny
  · split
    · exact madeOfActs_deny
    · split
      · exact madeOfActs_deny
      · rename_i hfree
        rw [Option.not_isSome_iff_eq_none] at hfree
        split
        · rename_i hstate
          have hasked : Act s _ := InputAct.act (.spotAsked (byteAt body 0) hstate hfree) rfl rfl
          exact madeOfActs_answer ((Relation.ReflTransGen.single hasked).tail (InputAct.chose.act rfl rfl))
        · exact madeOfActs_answer (.single (InputAct.act (.spotRefused _ hfree) rfl rfl))

theorem fetchSpot_acts : MadeOfActs s (execFetchSpot body s) := by
  unfold execFetchSpot
  split
  · exact madeOfActs_deny
  · exact madeOfActs_deny
  · exact madeOfActs_answer .refl

theorem setFloorCap_acts : MadeOfActs s (execSetFloorCap body s) := by
  unfold execSetFloorCap
  dsimp only
  split
  · exact madeOfActs_deny
  · split
    · exact madeOfActs_deny
    · refine madeOfActs_answer (.single (.recapped _ ?_ rfl rfl))
      simp only [takeNum, clampTo]
      omega

theorem clearFlag_acts (f : FlagKey) (s : State) : Acts s (clearFlag f s) := by
  cases f with
  | floor => exact .single (.portSet _)
  | list => exact .single (.quiet (.list .unflagged) (quiet_of_eq rfl rfl))
  | lum k => exact .single (.fixture (.unflagged k))
  | segment i =>
    refine .single (.quiet (.seg (.unflagged i)) (quiet_onSeg fun g hg => quiet_putSeg hg ?_))
    exact ⟨rfl, rfl, rfl, rfl⟩
  | input a => exact acts_onInput fun n hn => .single (act_put hn (.unflagged n) id)

theorem clearFlags_acts (fs : List FlagKey) (s : State) : Acts s (clearFlags fs s) := by
  induction fs generalizing s with
  | nil => exact .refl
  | cons f fs ih => exact (clearFlag_acts f s).trans (ih _)

theorem readTally_acts : MadeOfActs s (execReadTally body s) := by
  unfold execReadTally
  dsimp only
  split
  · exact madeOfActs_deny
  · split
    · exact madeOfActs_deny
    · exact madeOfActs_answer .refl

/-! ## The time base -/

theorem takeShed_acts (low : Bool) (s : State) : Acts s (takeShed low s) := by
  unfold takeShed
  split
  · exact (flagFloor_acts s).tail (.recapped _ (le_max_right _ _) rfl rfl)
  · exact .single (.sampledPin low)

theorem fillSlots_acts (s : State) : Acts s (fillSlots s) :=
  (Relation.ReflTransGen.single (Act.fixture (.filled .a))).tail (.fixture (.filled .b))

theorem tenth_acts (low : Bool) : MadeOfActs s (execTenth low s) := by
  have hticked : Acts s (tickAll s) := .single .ticked
  unfold execTenth
  dsimp only
  split
  · rcases inEitherOrder_cases (takeShed low) fillSlots (tickAll s) with heq | heq
    · rw [heq]
      exact madeOfActs_done (((hticked.tail (.drew _)).trans (takeShed_acts low _)).trans (fillSlots_acts _))
    · rw [heq]
      exact madeOfActs_done (((hticked.tail (.drew _)).trans (fillSlots_acts _)).trans (takeShed_acts low _))
  · exact madeOfActs_done ((hticked.trans (takeShed_acts low _)).trans (fillSlots_acts _))

theorem takeHolds_acts (s : State) : Acts s (takeHolds s) :=
  (acts_single .holdsTaken).tail (.event (.single (.list .counted)))

theorem minuteEvent_acts : MadeOfActs s (execMinuteEvent s) := by
  have htallies : Acts s (if s.time.tallyDue then addTallies s else s) := by
    split
    · exact .single .tallied
    · exact .refl
  unfold execMinuteEvent
  dsimp only
  generalize (if s.time.tallyDue then addTallies s else s) = t at htallies ⊢
  split
  · exact madeOfActs_done (htallies.trans (takeHolds_acts _))
  · exact madeOfActs_done htallies

theorem overrideHoldExpiry_acts (handle : Nat) : MadeOfActs s (execOverrideHoldExpiry handle s) := by
  unfold execOverrideHoldExpiry
  split
  · exact madeOfActs_done (takeHolds_acts s)
  · exact madeOfActs_same

/-! ## The expiries at segments and inputs -/

theorem segEvent_acts {f : State → State} (h : SegAct s (f s)) : MadeOfActs s (done (event f s)) :=
  madeOfActs_done (.single (acts_event_seg h))

theorem shortfallTimerExpiry_acts (i : Nat) : MadeOfActs s (execShortfallTimerExpiry i s) := by
  refine madeOfActs_done (.single (.quiet (.seg (.fellShort i)) (quiet_onSeg fun g hg => ?_)))
  split
  · exact quiet_putSeg hg ⟨rfl, rfl, rfl, rfl⟩
  · exact quiet_refl s

theorem setbackTimerExpiry_acts (i : Nat) : MadeOfActs s (execSetbackTimerExpiry i s) :=
  madeOfActs_done (.single (.event (.single (.list (.wentVacant i)))))

theorem quarantineTimerExpiry_acts (a : Nat) : MadeOfActs s (execQuarantineTimerExpiry a s) := by
  refine madeOfActs_done (acts_onInput fun n hn => ?_)
  split
  · rename_i c m hdevice
    split
    · exact .single (act_put hn (.released hdevice) id)
    · exact .refl
  · exact .refl

theorem arbitrateInput_acts (s : State) : Acts s (arbitrateInput s) := .single (InputAct.chose.act rfl rfl)

theorem pollTimerExpiry_acts (a : Nat) : MadeOfActs s (execPollTimerExpiry a s) := by
  refine madeOfActs_done (acts_onInput fun n hn => ?_)
  split
  · have hpolled : Acts s (putInput a (restartPoll n) s) := .single (act_put hn (.polled n) id)
    dsimp only
    split
    · rename_i hstate
      refine hpolled.trans (.trans ?_ (arbitrateInput_acts _))
      split
      · exact .refl
      · rename_i hdue
        exact .single (InputAct.act (.joinedDue a (by simp) hstate (Bool.eq_false_iff.mpr hdue)) rfl rfl)
    · exact hpolled
  · exact .refl

/-! ## The replies (R154 to R160) -/

/-- R63: the events of a sky change. -/
theorem takeSkyEvents_acts (ks : List Nat) (s : State) : Acts s (takeSkyEvents ks s) :=
  takeSkyEvents_keeps (P := Acts s) (fun i _ h => h.tail (acts_event_seg (.skyChanged i)))
    (fun i _ h => h.tail (acts_event_seg (.stepped i))) ks .refl

theorem takeSample_acts {a x : Nat} (hx : x ≤ 65535) {n : Input} (hn : input? s a = some n)
    (hlink : n.link = .reporting) : Acts s (takeSample a x s) := by
  unfold takeSample
  rw [onInput_some hn]
  split
  · rename_i c m hdevice
    have hsampled (changed : Bool) :
        Acts s (putInput a { n with device := .photo c (sample c m x).1, changed := changed } s) :=
      .single (act_put hn (.sampled hdevice hlink x hx changed) id)
    dsimp only
    split
    · rename_i hsky
      obtain ⟨ls, draws, _, heq⟩ := inFreeOrder_eq (skyKeys _ (skyTargets _ a)) takeSkyEvents (putInput a
        { n with
          device := .photo c (sample c m x).1
          changed := n.changed || ((sample c m x).1.state == .quarantined && m.state != .quarantined) } s)
      rw [heq]
      exact ((hsampled _).trans (acts_draws _ draws)).trans (takeSkyEvents_acts ls _)
    · exact hsampled _
  · exact .refl

theorem presenceReport_acts {a : Nat} {n : Input} (isMotion : Bool) (hn : input? s a = some n)
    (hlink : n.link = .reporting) : Acts s (presenceReport a isMotion s) := by
  unfold presenceReport
  rw [onInput_some hn]
  split
  · rename_i coverage last hdevice
    have hreported (report : Report) :
        Acts s (putInput a { n with device := .presence coverage (some report) } s) :=
      .single (act_put hn (.reported hdevice hlink report) id)
    dsimp only
    split
    · exact (hreported _).trans (acts_forEachFree (fun i _ t => .single (acts_event_seg (.moved false i))) _)
    · exact hreported _
  · exact .refl

theorem stationPress_acts {a : Nat} {n : Input} {scope : Scope} {hold : Nat} {lastButton : Option Button}
    {sequence : Option Nat} (b : Button) (hn : input? s a = some n)
    (hdevice : n.device = .station scope hold lastButton sequence) : RecordActs s (stationPress a scope hold b s) := by
  have hlisted := (motion_segsOnly false scope.segment s).listOnly.trans
    (pressList_listOnly a scope hold b (motion false scope.segment s))
  have hn' : input? (pressList a scope hold b (motion false scope.segment s)) a = some n := by
    rw [← hn]
    simp only [input?, hlisted.same.2.2.1]
  have hpressed : RecordActs s (pressList a scope hold b (motion false scope.segment s)) :=
    .single (.list (.pressed a n scope hold lastButton sequence b hn hdevice))
  unfold stationPress
  rw [onInput_some hn']
  simp only [hdevice]
  exact hpressed.tail (.input (.put hn' (.pressed hdevice b) id))

theorem stationReply_acts {a : Nat} {n : Input} (sequence : Nat) (button : Byte) (hn : input? s a = some n)
    (hlink : n.link = .reporting) : Acts s (stationReply a sequence button s) := by
  unfold stationReply
  rw [onInput_some hn]
  split
  · rename_i scope hold lastButton recorded hdevice
    have hsequenced : Acts s (putInput a { n with device := .station scope hold lastButton (some sequence) } s) :=
      .single (act_put hn (.sequenced hdevice hlink sequence) id)
    dsimp only
    split
    · split
      · exact hsequenced
      · exact hsequenced.tail (.event (stationPress_acts _ (input?_putInput_self ..) rfl))
    · exact hsequenced
  · exact .refl

/-- R154: the reply of an enrolled input. -/
theorem takeReply_acts {a : Nat} {n : Input} (v : InputValue) (hx : ∀ x, v = .photo x → x ≤ 65535)
    (hn : input? s a = some n) : Acts s (takeReply a v s) := by
  unfold takeReply
  rw [onInput_some hn]
  have hheard := acts_single (act_put hn (.heard n) fun _ => rfl)
  cases v with
  | photo x => exact hheard.trans (takeSample_acts (hx x rfl) (input?_putInput_self ..) rfl)
  | presence isMotion => exact hheard.trans (presenceReport_acts isMotion (input?_putInput_self ..) rfl)
  | station sequence button => exact hheard.trans (stationReply_acts sequence button (input?_putInput_self ..) rfl)

/-- R176: a photosensor's value is two bytes. -/
theorem decodeInputReply_photo_le {a x : Nat} {bytes : List LineByte} (h : decodeInputReply a bytes = some (.photo x)) :
    x ≤ 65535 := by
  unfold decodeInputReply at h
  split at h
  · rename_i b0 b1 b2 b3 _
    split at h
    · obtain ⟨k, _, hv⟩ := Option.map_eq_some_iff.mp h
      have h2 := b2.data.isLt
      have h3 := b3.data.isLt
      cases k <;> simp only [inputValueOf, InputValue.photo.injEq, reduceCtorEq] at hv
      omega
    · cases h
  · cases h

/-- The end of a due poll: its own act between the end of the poll and the arbiter's choice. -/
theorem endDuePoll_acts {a : Nat} {mark : PollMark} {f : State → State}
    (hflight : s.inputLine.flight = some (.due a mark)) (h : Acts (clearPoll s) (f (clearPoll s))) :
    Acts s (endDuePoll f s) :=
  ((acts_single (InputAct.act (.pollEnded a mark hflight) rfl rfl)).trans h).trans (arbitrateInput_acts _)

theorem inputReply_acts (bytes : List LineByte) : MadeOfActs s (execInputReply bytes s) := by
  unfold execInputReply
  split
  · rename_i a mark hflight
    split
    · rename_i v hv
      split
      · split
        · rename_i hkind
          have hn : (input? s a).isSome = true := by
            cases hn : input? s a with
            | none => simp [kindAt, hn] at hkind
            | some n => rfl
          obtain ⟨n, hn⟩ := Option.isSome_iff_exists.mp hn
          refine madeOfActs_done (endDuePoll_acts hflight (takeReply_acts v (fun x hx => ?_) (n := n) hn))
          subst hx
          exact decodeInputReply_photo_le hv
        · exact madeOfActs_same
      · exact madeOfActs_done (endDuePoll_acts hflight .refl)
    · exact madeOfActs_same
  · exact madeOfActs_same

theorem inputReplyWrongKind_acts (bytes : List LineByte) : MadeOfActs s (execInputReplyWrongKind bytes s) := by
  unfold execInputReplyWrongKind
  split
  · rename_i a mark hflight
    split
    · split
      · split
        · exact madeOfActs_same
        · exact madeOfActs_done (endDuePoll_acts hflight
            (.single (.event (.single (.input (.lost a .wrongKind 0 nofun))))))
      · exact madeOfActs_done (endDuePoll_acts hflight .refl)
    · exact madeOfActs_same
  · exact madeOfActs_same

theorem pollMissed_acts (a : Nat) (s : State) : RecordActs s (pollMissed a s) := by
  unfold pollMissed
  cases hn : input? s a with
  | none =>
    rw [onInput_none hn]
  | some n =>
    rw [onInput_some hn]
    dsimp only
    split
    · exact .single (.input (.lost a .absent _ nofun))
    · exact .single (.input (.put hn (.missed n _) id))

theorem pollNoReply_acts : MadeOfActs s (execPollNoReply s) := by
  unfold execPollNoReply
  split
  · rename_i a mark hflight
    refine madeOfActs_done (endDuePoll_acts hflight ?_)
    split
    · exact .refl
    · exact .single (.event (pollMissed_acts a _))
  · exact madeOfActs_same

theorem spotPollEnd_acts (bytes : List LineByte) : MadeOfActs s (execSpotPollEnd bytes s) := by
  unfold execSpotPollEnd
  split
  · rename_i a hflight
    exact madeOfActs_done
      ((acts_single (InputAct.act (.spotEnded a _ hflight) rfl rfl)).trans (arbitrateInput_acts _))
  · exact madeOfActs_same

/-! ## The input line and the fixture lines -/

theorem inputLineDown_acts : MadeOfActs s (execInputLineDown s) := by
  unfold execInputLineDown
  split
  · rename_i hdown
    exact madeOfActs_done (.single (.event (.single (.input (.lineDown hdown.1)))))
  · exact madeOfActs_same

theorem inputLineRecovery_acts : MadeOfActs s (execInputLineRecovery s) := by
  unfold execInputLineRecovery
  split
  · rename_i hup
    exact madeOfActs_done ((acts_single (InputAct.act (.lineUp hup.1) rfl rfl)).trans (arbitrateInput_acts _))
  · exact madeOfActs_same

theorem inrxReturnsHigh_acts : MadeOfActs s (execInrxReturnsHigh s) := by
  unfold execInrxReturnsHigh
  split
  · exact madeOfActs_same
  · exact madeOfActs_done ((acts_single (InputAct.act (.pinMoved true) rfl rfl)).trans (arbitrateInput_acts _))

theorem inrxFallsLow_acts : MadeOfActs s (execInrxFallsLow s) :=
  madeOfActs_done (.single (InputAct.act (.pinMoved false) rfl rfl))

theorem fixtureAct_acts {t : State} (h : FixtureAct s t) : MadeOfActs s (done t) := madeOfActs_done (.single (.fixture h))

theorem levelFrameEnd_acts (i : LineId) : MadeOfActs s (execLevelFrameEnd i s) := by
  unfold execLevelFrameEnd
  split
  · rename_i code k retired hflight
    exact fixtureAct_acts (.levelEnded i code k retired hflight)
  · exact madeOfActs_same

theorem decodeDriverReply_echo_le {address : Nat} {bytes : List LineByte} {d : DriverReply}
    (h : decodeDriverReply address bytes = some d) : d.echo ≤ 255 := by
  unfold decodeDriverReply at h
  split at h
  · rename_i b0 b1 b2 _
    split at h
    · cases h
      exact Nat.le_of_lt_succ b2.data.isLt
    · cases h
  · cases h

theorem driverReply_acts (i : LineId) (bytes : List LineByte) : MadeOfActs s (execDriverReply i bytes s) := by
  unfold execDriverReply
  split
  · exact madeOfActs_same
  · rename_i kind k retired hkind hflight
    split
    · rename_i d hd
      exact fixtureAct_acts (.answered i kind k retired d hflight hkind (decodeDriverReply_echo_le hd))
    · exact madeOfActs_same
  · exact madeOfActs_same

theorem queryNoReply_acts (i : LineId) : MadeOfActs s (execQueryNoReply i s) := by
  unfold execQueryNoReply
  split
  · exact madeOfActs_same
  · rename_i kind k retired hkind hflight
    exact fixtureAct_acts (.unanswered i kind k retired hflight hkind)
  · exact madeOfActs_same

theorem fixtureLineDown_acts (i : LineId) : MadeOfActs s (execFixtureLineDown i s) := by
  unfold execFixtureLineDown
  split
  · rename_i hdown
    exact fixtureAct_acts (.lineDown i hdown.1)
  · exact madeOfActs_same

theorem fixtureLineRecovery_acts (i : LineId) : MadeOfActs s (execFixtureLineRecovery i s) := by
  unfold execFixtureLineRecovery
  split
  · rename_i hup
    exact fixtureAct_acts (.lineUp i hup.1)
  · exact madeOfActs_same

theorem fixtureRxReturnsHigh_acts (i : LineId) : MadeOfActs s (execFixtureRxReturnsHigh i s) := by
  unfold execFixtureRxReturnsHigh
  split
  · exact madeOfActs_same
  · exact fixtureAct_acts (.pinRose i)

end Ends

/-! ## Every command -/

/-- Every command is made of acts. -/
theorem exec_acts (c : Instr) (s : State) : MadeOfActs s (exec c s) := by
  cases c with
  | nop body => exact madeOfActs_answer .refl
  | badRequest shifted => exact madeOfActs_answer .refl
  | enrolLuminaire body => exact enrolLuminaire_acts
  | amendLuminaire body => exact amendLuminaire_acts
  | readLuminaire body => exact readLuminaire_acts
  | retireLuminaire body => exact retireLuminaire_acts
  | defineSegment body => exact defineSegment_acts
  | amendSegment body => exact amendSegment_acts
  | readSegment body => exact readSegment_acts
  | retireSegment body => exact retireSegment_acts
  | enrolInput body => exact enrolInput_acts
  | amendInput body => exact amendInput_acts
  | readInput body => exact readInput_acts
  | retireInput body => exact retireInput_acts
  | reinstateInput body => exact reinstateInput_acts
  | calibrate body => exact calibrate_acts
  | spotRead body => exact spotRead_acts
  | fetchSpot body => exact fetchSpot_acts (body := body)
  | placeOverride body => exact placeOverride_acts
  | cancelOverride body => exact cancelOverride_acts
  | readOverrides body => exact readOverrides_acts
  | setFloorCap body => exact setFloorCap_acts
  | readFloor body => exact madeOfActs_answer (.single (.portSet _))
  | readChanges body => exact madeOfActs_answer (clearFlags_acts _ s)
  | snapshotTally body => exact madeOfActs_answer (.single .captured)
  | readTally body => exact readTally_acts
  | warmReset body => exact madeOfActs_answer (.single .warmReset)
  | coldReset low => exact madeOfActs_done (.single (.coldReset low))
  | tenth low => exact tenth_acts low
  | minuteEvent => exact minuteEvent_acts
  | overrideHoldExpiry handle => exact overrideHoldExpiry_acts handle
  | stepEvent i => exact segEvent_acts (.stepped i)
  | offDelayExpiry i => exact segEvent_acts (.offDelayed i)
  | blindTimerExpiry i => exact segEvent_acts (.fellBack i)
  | shortfallTimerExpiry i => exact shortfallTimerExpiry_acts i
  | quarantineTimerExpiry a => exact quarantineTimerExpiry_acts a
  | occupancyHoldExpiry i => exact segEvent_acts (.holdExpired i)
  | setbackTimerExpiry i => exact setbackTimerExpiry_acts i
  | pollTimerExpiry a => exact pollTimerExpiry_acts a
  | inputReply bytes => exact inputReply_acts bytes
  | inputReplyWrongKind bytes => exact inputReplyWrongKind_acts bytes
  | pollNoReply => exact pollNoReply_acts
  | spotPollEnd bytes => exact spotPollEnd_acts bytes
  | inputLineDown => exact inputLineDown_acts
  | inputLineRecovery => exact inputLineRecovery_acts
  | inrxReturnsHigh => exact inrxReturnsHigh_acts
  | inrxFallsLow => exact inrxFallsLow_acts
  | levelFrameEnd i => exact levelFrameEnd_acts i
  | driverReply i bytes => exact driverReply_acts i bytes
  | queryNoReply i => exact queryNoReply_acts i
  | fixtureLineDown i => exact fixtureLineDown_acts i
  | fixtureLineRecovery i => exact fixtureLineRecovery_acts i
  | fixtureRxReturnsHigh i => exact fixtureRxReturnsHigh_acts i
  | fixtureRxFallsLow i => exact fixtureAct_acts (.pinFell i)

/-- The state after a command. -/
theorem acts_of_exec {c : Instr} {s t : State} (h : exec c s = .next t) : Acts s t := by
  obtain ⟨u, hacts, hdone⟩ := exec_acts c s
  rw [hdone, done_next] at h
  rw [h]
  exact hacts.tail (.portSet _)

/-- A law that every act keeps holds after any number of acts. -/
theorem acts_keep {P : State → Prop} (h : ∀ s t, Act s t → P s → P t) {s t : State} (hacts : Acts s t) (hs : P s) :
    P t := by
  induction hacts with
  | refl => exact hs
  | tail _ hact ih => exact h _ _ hact ih

/-- A law that the queue does not touch and every act keeps is kept by every step. -/
theorem keptByStep_of_acts {P : State → Prop} (hqueue : ∀ s rest, P s → P { s with pending := rest })
    (h : ∀ s t, Act s t → P s → P t) : KeptByStep P := by
  intro s t hs hstep
  unfold step at hstep
  split at hstep
  · cases hstep
    exact hs
  · exact acts_keep h (acts_of_exec hstep) (hqueue s _ hs)

/-- A law that acts keep from states that meet the laws `inv` as well, which they keep too. -/
theorem keptUnder_of_acts {inv P : State → Prop} (hinv : ∀ s t, Act s t → inv s ∧ P s → inv t)
    (hqueue : ∀ s rest, inv s ∧ P s → inv { s with pending := rest } ∧ P { s with pending := rest })
    (h : ∀ s t, Act s t → inv s → P s → P t) : KeptUnder inv P := fun s t hi hp hstep =>
  (keptByStep_of_acts (P := fun s => inv s ∧ P s) hqueue (fun s t ha hs => ⟨hinv s t ha hs, h s t ha hs.1 hs.2⟩) s t
    ⟨hi, hp⟩ hstep).2

end Sys2Proof.Machine
end

section
/-! SUPPORT. What each kind of act leaves alone, and the laws that follow from it: ATTN and the tables (R169, R2), the answer to
every command and its queue. -/

namespace Sys2Proof.Machine

/-! ## What the acts leave alone -/

/-- Nothing changes but the segments, the override list, the inputs, the input line and the floor change flag. -/
def RecordsOnly (s t : State) : Prop :=
  t = { s with
    segs := t.segs, overrides := t.overrides, inputs := t.inputs, inputLine := t.inputLine,
    port := { s.port with floorChanged := t.port.floorChanged } }

/-- Nothing changes but the luminaires, the fixture lines and the floor change flag. -/
def LumsOnly (s t : State) : Prop :=
  t = { s with
    lums := t.lums, lineA := t.lineA, lineB := t.lineB, port := { s.port with floorChanged := t.port.floorChanged } }

theorem RecordsOnly.refl (s : State) : RecordsOnly s s := rfl

theorem RecordsOnly.trans {s t u : State} (h : RecordsOnly s t) (k : RecordsOnly t u) : RecordsOnly s u := by
  unfold RecordsOnly at *; rw [h] at k; exact k

theorem LumsOnly.refl (s : State) : LumsOnly s s := rfl

theorem LumsOnly.trans {s t u : State} (h : LumsOnly s t) (k : LumsOnly t u) : LumsOnly s u := by
  unfold LumsOnly at *; rw [h] at k; exact k

theorem ListOnly.recordsOnly {s t : State} (h : ListOnly s t) : RecordsOnly s t := by
  unfold ListOnly at h; rw [h]; rfl

theorem SegsOnly.recordsOnly {s t : State} (h : SegsOnly s t) : RecordsOnly s t := h.listOnly.recordsOnly

theorem RecordsOnly.fixtures {s t : State} (h : RecordsOnly s t) : SameFixtures s t := by
  unfold RecordsOnly at h; rw [h]; exact ⟨rfl, rfl, rfl⟩

theorem RecordsOnly.composer {s t : State} (h : RecordsOnly s t) : t.composer = s.composer := by
  unfold RecordsOnly at h; rw [h]

theorem RecordsOnly.time {s t : State} (h : RecordsOnly s t) : t.time = s.time := by
  unfold RecordsOnly at h; rw [h]

theorem RecordsOnly.pending {s t : State} (h : RecordsOnly s t) : t.pending = s.pending := by
  unfold RecordsOnly at h; rw [h]

theorem LumsOnly.records {s t : State} (h : LumsOnly s t) :
    t.segs = s.segs ∧ t.overrides = s.overrides ∧ t.inputs = s.inputs ∧ t.inputLine = s.inputLine := by
  unfold LumsOnly at h; rw [h]; exact ⟨rfl, rfl, rfl, rfl⟩

theorem LumsOnly.rest {s t : State} (h : LumsOnly s t) :
    t.composer = s.composer ∧ t.time = s.time ∧ t.pending = s.pending ∧ t.draws = s.draws := by
  unfold LumsOnly at h; rw [h]; exact ⟨rfl, rfl, rfl, rfl⟩

theorem defineSeg_segsOnly (i : Nat) (c : SegConfig) (s : State) : SegsOnly s (defineSeg i c s) := by
  unfold defineSeg
  dsimp only
  split
  · exact putSeg_segsOnly i _ s
  · exact (putSeg_segsOnly i _ s).trans (enterHarvest_segsOnly i _)

theorem storeCap_segsOnly (i : Nat) (s : State) : SegsOnly s (storeCap i s) :=
  onSeg_rel (R := SegsOnly) (.refl s) fun _ _ => putSeg_segsOnly i _ s

theorem modeChange_segsOnly (i : Nat) (old new : Mode) (s : State) : SegsOnly s (modeChange i old new s) := by
  cases old <;> cases new
  case manual.harvest => exact enterHarvest_segsOnly i s
  case harvest.manual => exact leaveHarvest_segsOnly i s
  all_goals exact .refl s

theorem capStep_segsOnly (i old : Nat) (s : State) : SegsOnly s (capStep i old s) := by
  refine onSeg_rel (R := SegsOnly) (.refl s) fun g _ => ?_
  split
  · exact .refl s
  · exact capChange_segsOnly i old s

/-- An operation that is done or not. -/
theorem segsOnly_ite {p : Prop} [Decidable p] {s t u : State} (ht : SegsOnly s t) (hu : SegsOnly t u) :
    SegsOnly s (if p then t else u) := by
  split
  · exact ht
  · exact ht.trans hu

theorem amendEffects_segsOnly (i : Nat) (old : Segment) (new : SegConfig) (s : State) :
    SegsOnly s (amendEffects i old new s) := by
  have hcap := segsOnly_ite (p := new.cap = old.cfg.cap) (.refl s) (storeCap_segsOnly i s)
  have hmode := (hcap.trans (modeChange_segsOnly i old.cfg.mode new.mode _)).trans (capStep_segsOnly i old.effCap _)
  have hcut := segsOnly_ite (p := new.cutOff = old.cfg.cutOff) hmode (cutOffChanged_segsOnly i _)
  have hsensing := segsOnly_ite (p := new.sensing = old.cfg.sensing) hcut (sensingChanged_segsOnly i _)
  exact segsOnly_ite hsensing (depthRaise_segsOnly 4 i _)

theorem clearShortfall_segsOnly (i : Nat) (s : State) : SegsOnly s (clearShortfall i s) :=
  onSeg_rel (R := SegsOnly) (.refl s) fun _ _ => putSeg_segsOnly i _ s

theorem amendSeg_segsOnly (i : Nat) (g : Segment) (c : SegConfig) (clear : Bool) (s : State) :
    SegsOnly s (amendSeg i g c clear s) := by
  have heffects := (putSeg_segsOnly i { g with cfg := c } s).trans (amendEffects_segsOnly i g c _)
  unfold amendSeg
  dsimp only
  split
  · exact heffects.trans (clearShortfall_segsOnly i _)
  · exact heffects

theorem SegAct.segsOnly {s t : State} (h : SegAct s t) : SegsOnly s t := by
  cases h with
  | stepped i => exact stepExpiry_segsOnly i s
  | skyChanged i => exact skyChange_segsOnly i s
  | offDelayed i => exact segExpiry_segsOnly fun g => putSeg_segsOnly i _ s
  | fellBack i => exact segExpiry_segsOnly fun g => putRising_segsOnly i g _ s
  | fellShort i => exact segExpiry_segsOnly fun g => putSeg_segsOnly i _ s
  | holdExpired i => exact segExpiry_segsOnly fun g => holdExpired_segsOnly i g s
  | moved byRequest i => exact motion_segsOnly byRequest i s
  | recapped i => exact recomputeCap_segsOnly i s
  | defined body i => exact defineSeg_segsOnly i _ s
  | amended body i g clear => exact amendSeg_segsOnly i g _ clear s
  | unflagged i => exact onSeg_rel (R := SegsOnly) (.refl s) fun _ _ => putSeg_segsOnly i _ s

theorem placeFloor_listOnly (cls : OvClass) (scope : Scope) (action : OvAction) (hold : Option Nat) (s : State) :
    ListOnly s (placeFloor cls scope action hold s) := by
  cases cls
  · exact placeRecord_listOnly _ _ _ _ _ s
  · exact (motion_segsOnly true _ s).listOnly.trans (placeRecord_listOnly _ _ _ _ _ _)

/-- R94: the setback expiry of a segment. -/
theorem setbackExpiry_listOnly (i : Nat) (s : State) : ListOnly s (segExpiry i (·.setbackTimer) (goVacant i) s) := by
  refine onSeg_rel (R := ListOnly) (.refl s) fun g _ => ?_
  split
  · exact goVacant_listOnly i g s
  · exact .refl s

theorem retireSeg_listOnly (i : Nat) (s : State) : ListOnly s (retireSeg i s) := by
  have h := retireRecords_listOnly (fun o => o.scope.segment == i) true s
  unfold ListOnly at h
  unfold retireSeg
  dsimp only
  rw [h]
  rfl

theorem ListAct.listOnly {s t : State} (h : ListAct s t) : ListOnly s t := by
  cases h with
  | wentVacant i => exact setbackExpiry_listOnly i s
  | placed cls scope kind value action clamped hold => exact placeFloor_listOnly cls scope action _ s
  | pressed a n scope hold lastButton sequence b =>
    exact (motion_segsOnly false _ s).listOnly.trans (pressList_listOnly a scope hold b _)
  | retired p flag => exact retireRecords_listOnly p flag s
  | retiredSeg i => exact retireSeg_listOnly i s
  | counted => exact countHolds_listOnly s
  | unflagged => rfl

theorem forEach_reResolve_segsOnly (byRequest : Bool) (ks : List Nat) (s : State) :
    SegsOnly s (forEach ks (reResolve byRequest) s) :=
  forEach_rel (R := SegsOnly) .refl .trans (fun i _ t => reResolve_segsOnly byRequest i t) s

theorem dropLink_recordsOnly (a : Nat) (link : InputLink) (misses : Nat) (s : State) :
    RecordsOnly s (dropLink a link misses s) := by
  refine onInput_rel (R := RecordsOnly) (.refl s) fun n _ => ?_
  dsimp only
  split
  · exact .trans (t := putInput a _ s) rfl (forEach_reResolve_segsOnly false _ _).recordsOnly
  · rfl

theorem retireInput_recordsOnly (a : Nat) (n : Input) (s : State) : RecordsOnly s (retireInput a n s) := by
  have hforgotten : RecordsOnly s { forgetInput a s with inputs := tabDel (forgetInput a s).inputs a } := rfl
  unfold retireInput
  dsimp only
  split
  · exact hforgotten
  · exact hforgotten.trans (forEach_reResolve_segsOnly true _ _).recordsOnly
  · exact hforgotten.trans (retireRecords_listOnly _ _ _).recordsOnly

theorem goDownInput_recordsOnly (s : State) : RecordsOnly s (goDownInput s) := by
  unfold goDownInput
  dsimp only
  refine .trans ?_ (forEach_reResolve_segsOnly false _ _).recordsOnly
  split <;> rfl

theorem InputAct.recordsOnly {s t : State} (h : InputAct s t) : RecordsOnly s t := by
  cases h with
  | amended body a n d clamped interval missLimit =>
    exact .trans (t := putInput a _ s) rfl (forEach_reResolve_segsOnly true _ _).recordsOnly
  | retired a n => exact retireInput_recordsOnly a n s
  | lost a link misses => exact dropLink_recordsOnly a link misses s
  | lineDown => exact goDownInput_recordsOnly s
  | _ => rfl

theorem RecordAct.recordsOnly {s t : State} (h : RecordAct s t) : RecordsOnly s t := by
  cases h with
  | seg h => exact h.segsOnly.recordsOnly
  | list h => exact h.listOnly.recordsOnly
  | input h => exact h.recordsOnly

theorem recordActs_recordsOnly {s t : State} (h : RecordActs s t) : RecordsOnly s t := by
  induction h with
  | refl => exact .refl s
  | tail _ h ih => exact ih.trans h.recordsOnly

theorem putLine_lumsOnly (i : LineId) (l : FixtureLine) (s : State) : LumsOnly s (putLine i l s) := by cases i <;> rfl

/-- Luminaires and lines that change by themselves, without the draw counter. -/
theorem onLum_lumsOnly {k : Nat} {f : Luminaire → State → State} (h : ∀ l t, LumsOnly t (f l t)) (s : State) :
    LumsOnly s (onLum k f s) := onLum_rel (R := LumsOnly) (.refl s) fun l _ => h l s

theorem arbitrate_lumsOnly (i : LineId) (s : State) : LumsOnly s (arbitrate i s) := putLine_lumsOnly i _ s

theorem enqueue_lumsOnly (k code : Nat) (s : State) : LumsOnly s (enqueue k code s) := by
  unfold enqueue
  dsimp only
  split
  · exact putLine_lumsOnly _ _ s
  · exact .refl s

theorem handOver_lumsOnly (k code : Nat) (s : State) : LumsOnly s (handOver k code s) :=
  ((onLum_lumsOnly (fun _ _ => by rfl) s).trans (enqueue_lumsOnly k code _)).trans (arbitrate_lumsOnly _ _)

theorem recomposeLum_lumsOnly (k : Nat) (s : State) : LumsOnly s (recomposeLum k s) := by
  unfold recomposeLum
  refine onLum_lumsOnly (fun l t => ?_) s
  split
  · exact .refl t
  · refine onSeg_rel (R := LumsOnly) (.refl t) fun g _ => ?_
    dsimp only
    split
    · rfl
    · exact .trans (t := putLum k _ t) rfl (handOver_lumsOnly k _ _)

theorem joinConfirm_lumsOnly (i : LineId) (k : Nat) (s : State) : LumsOnly s (joinConfirm i k s) := by
  unfold joinConfirm
  dsimp only
  split
  · exact .refl s
  · exact putLine_lumsOnly i _ s

theorem amendLum_lumsOnly (k : Nat) (old new : Luminaire) (s : State) : LumsOnly s (amendLum k old new s) := by
  unfold amendLum
  split
  · exact .refl s
  · split
    · exact .trans (t := putLum k _ s) rfl (putLine_lumsOnly _ _ _)
    · exact .trans (t := putLum k _ s) rfl (recomposeLum_lumsOnly k _)

theorem levelEnded_lumsOnly (i : LineId) (code k : Nat) (retired : Bool) (s : State) :
    LumsOnly s (levelEnded i code k retired s) := by
  unfold levelEnded
  split
  · exact .refl s
  · refine onLum_lumsOnly (fun l t => ?_) s
    dsimp only
    split
    · rfl
    · exact .trans (t := putLum k _ t) rfl (joinConfirm_lumsOnly i k _)

theorem replied_lumsOnly (i : LineId) (k : Nat) (d : DriverReply) (s : State) : LumsOnly s (replied i k d s) := by
  refine onLum_lumsOnly (fun l t => ?_) s
  dsimp only
  have hleft (new : Luminaire) (p : Prop) [Decidable p] :
      LumsOnly t (if p then leaveConfirm i k (putLum k new t) else putLum k new t) := by
    split
    · exact .trans (t := putLum k new t) rfl (putLine_lumsOnly i _ _)
    · rfl
  split
  · exact (hleft _ _).trans (enqueue_lumsOnly k _ _)
  · exact hleft _ _

theorem queryMissed_lumsOnly (i : LineId) (kind : FrameKind) (k : Nat) (s : State) :
    LumsOnly s (queryMissed i kind k s) := by
  refine onLum_lumsOnly (fun l t => ?_) s
  dsimp only
  split
  · exact .trans (t := putLum k _ t) rfl (joinConfirm_lumsOnly i k _)
  · rfl

theorem fullRefresh_lumsOnly (i : LineId) (s : State) : LumsOnly s (fullRefresh i s) := by
  refine .trans (forEach_rel (R := LumsOnly) .refl .trans (fun k _ t => ?_) s) (arbitrate_lumsOnly i _)
  refine onLum_lumsOnly (fun l u => ?_) t
  cases l.place <;> cases l.composed
  case some.some => exact enqueue_lumsOnly k _ u
  all_goals exact .refl u

theorem goDown_lumsOnly (i : LineId) (s : State) : LumsOnly s (goDown i s) := by
  refine .trans (.trans (forEach_rel (R := LumsOnly) .refl .trans (fun k _ t => ?_) s) (putLine_lumsOnly i _ _)) rfl
  exact onLum_lumsOnly (fun _ _ => by rfl) t

theorem fillScanSlot_lumsOnly (i : LineId) (s : State) : LumsOnly s (fillScanSlot i s) := by
  unfold fillScanSlot
  split
  · split
    · exact (putLine_lumsOnly i _ s).trans (arbitrate_lumsOnly i _)
    · exact .refl s
  · exact .refl s

theorem clearFlight_lumsOnly (i : LineId) (s : State) : LumsOnly s (clearFlight i s) := putLine_lumsOnly i _ s

theorem forgetLum_lumsOnly (k : Nat) (s : State) : LumsOnly s (forgetLum k s) := putLine_lumsOnly _ _ s

theorem FixtureAct.lumsOnly {s t : State} (h : FixtureAct s t) : LumsOnly s t := by
  have hcleared (i : LineId) {p : Prop} [Decidable p] {f : State → State} (hf : ∀ u, LumsOnly u (f u)) :
      LumsOnly s (arbitrate i (if p then clearFlight i s else f (clearFlight i s))) := by
    refine .trans ?_ (arbitrate_lumsOnly i _)
    split
    · exact clearFlight_lumsOnly i s
    · exact (clearFlight_lumsOnly i s).trans (hf _)
  cases h with
  | enrolled f k => rfl
  | amended f k l place => exact amendLum_lumsOnly k l _ s
  | retired k =>
    have h := forgetLum_lumsOnly k s
    unfold LumsOnly at h ⊢
    dsimp only
    rw [h]
  | unflagged k => exact onLum_lumsOnly (fun _ _ => by rfl) s
  | levelEnded i code k retired =>
    exact ((clearFlight_lumsOnly i s).trans (levelEnded_lumsOnly i code k retired _)).trans (arbitrate_lumsOnly i _)
  | answered i kind k retired d => exact hcleared i (replied_lumsOnly i k d)
  | unanswered i kind k retired => exact hcleared i (queryMissed_lumsOnly i kind k)
  | lineDown i => exact goDown_lumsOnly i s
  | lineUp i =>
    exact .trans (.trans (putLine_lumsOnly i _ s) (.trans (t := flagFloor (putLine i _ s)) rfl (.refl _)))
      (fullRefresh_lumsOnly i _)
  | pinRose i => exact (putLine_lumsOnly i _ s).trans (arbitrate_lumsOnly i _)
  | pinFell i => exact putLine_lumsOnly i _ s
  | filled i => exact fillScanSlot_lumsOnly i s

end Sys2Proof.Machine
end

section
/-! SUPPORT. How an act changes a table: the keys stay, and each record is made from the one that stood at its key; and the moves
of a controller. -/

namespace Sys2Proof.Machine

/-! ## Records made from records -/

/-- The keys of a table stay, and each record is made by `R` from one that stood at its key. -/
structure TabBy {α : Type} (R : α → α → Prop) (a b : Tab α) : Prop where
  keys : a.Pairwise (fun x y => x.1 < y.1) → b.map (·.1) = a.map (·.1)
  records : ∀ e ∈ b, ∃ v, (e.1, v) ∈ a ∧ R v e.2

section TabBy

variable {α : Type} {R Q : α → α → Prop} {a b c : Tab α} {i n : Nat} {v new : α}

theorem TabBy.of_eq (hR : ∀ v, R v v) (h : b = a) : TabBy R a b where
  keys _ := by rw [h]
  records e he := ⟨e.2, by rwa [← h], hR e.2⟩

theorem TabBy.refl (hR : ∀ v, R v v) (a : Tab α) : TabBy R a a := .of_eq hR rfl

/-- Keys that stand keep the canonical form. -/
theorem pairwise_keys (h : b.map (·.1) = a.map (·.1)) (ha : a.Pairwise fun x y => x.1 < y.1) :
    b.Pairwise fun x y => x.1 < y.1 := by
  rw [← List.pairwise_map (f := Prod.fst) (R := (· < ·))] at ha ⊢
  rwa [h]

theorem TabBy.trans (hR : ∀ {x y z}, R x y → R y z → R x z) (h : TabBy R a b) (k : TabBy R b c) : TabBy R a c where
  keys ha := (k.keys (pairwise_keys (h.keys ha) ha)).trans (h.keys ha)
  records e he := by
    obtain ⟨w, hw, hwe⟩ := k.records e he
    obtain ⟨v, hv, hvw⟩ := h.records _ hw
    exact ⟨v, hv, hR hvw hwe⟩

theorem TabBy.mono (hRQ : ∀ {x y}, R x y → Q x y) (h : TabBy R a b) : TabBy Q a b where
  keys := h.keys
  records e he := (h.records e he).imp fun _ k => ⟨k.1, hRQ k.2⟩

theorem tabPut_tabPut (a : Tab α) (i : Nat) (v w : α) : tabPut (tabPut a i v) i w = tabPut a i w := by
  induction a with
  | nil => simp [tabPut]
  | cons e a ih =>
    obtain ⟨k, u⟩ := e
    simp only [tabPut]
    split_ifs <;> simp_all [tabPut]

/-- A record put in place of the one it is made from. -/
theorem tabBy_put (hR : ∀ v, R v v) (hv : tabGet a i = some v) (h : R v new) : TabBy R a (tabPut a i new) where
  keys ha := tabPut_keys ha (by rw [hv]; rfl)
  records e he := by
    rcases mem_tabPut he with rfl | he
    · exact ⟨v, mem_of_tabGet hv, h⟩
    · exact ⟨e.2, he, hR e.2⟩

theorem tabBy_map {f : α → α} (h : ∀ v, R v (f v)) (a : Tab α) : TabBy R a (tabMap a f) where
  keys _ := tabMap_keys a f
  records e he := by
    obtain ⟨x, hx, rfl⟩ := List.mem_map.mp he
    exact ⟨x.2, hx, h x.2⟩

theorem TabBy.keepsTabWf (h : TabBy R a b) (ha : tabWf n a) : tabWf n b := by
  have hkeys := h.keys ha.1
  refine ⟨pairwise_keys hkeys ha.1, fun e he => ?_⟩
  have hkey : e.1 ∈ a.map (·.1) := hkeys ▸ List.mem_map_of_mem he
  obtain ⟨f, hf, hef⟩ := List.mem_map.mp hkey
  rw [← hef]
  exact ha.2 f hf

/-- Of canonical tables, the record read afterwards is made from the one read before. -/
theorem TabBy.get_some (h : TabBy R a b) (ha : tabWf n a) (hnew : tabGet b i = some new) :
    ∃ v, tabGet a i = some v ∧ R v new := by
  obtain ⟨v, hv, hvnew⟩ := h.records _ (mem_of_tabGet hnew)
  exact ⟨v, tabGet_of_mem ha.1 hv, hvnew⟩

theorem TabBy.isSome (h : TabBy R a b) (ha : tabWf n a) (i : Nat) : (tabGet b i).isSome = (tabGet a i).isSome := by
  rw [Bool.eq_iff_iff]
  simp only [tabGet_isSome_iff, h.keys ha.1]

/-- A law of the single record that the making keeps. -/
theorem TabBy.forall_keeps {p : α → Prop} (h : TabBy R a b) (hp : ∀ v w, R v w → p v → p w) (ha : ∀ e ∈ a, p e.2) :
    ∀ e ∈ b, p e.2 := by
  intro e he
  obtain ⟨v, hv, hve⟩ := h.records e he
  exact hp v e.2 hve (ha _ hv)

end TabBy

/-- The segments are made from those that stood. -/
abbrev SegsBy (R : Segment → Segment → Prop) (s t : State) : Prop := TabBy R s.segs t.segs

/-- The luminaires are made from those that stood. -/
abbrev LumsBy (R : Luminaire → Luminaire → Prop) (s t : State) : Prop := TabBy R s.lums t.lums

/-- The inputs are made from those that stood. -/
abbrev InputsBy (R : Input → Input → Prop) (s t : State) : Prop := TabBy R s.inputs t.inputs

section SegsBy

variable {R : Segment → Segment → Prop} {s t u : State} {i : Nat} {g new : Segment}

theorem segsBy_refl (hR : ∀ g, R g g) (s : State) : SegsBy R s s := .refl hR _

theorem segsBy_putSeg (hR : ∀ g, R g g) (hg : seg? s i = some g) (h : R g new) : SegsBy R s (putSeg i new s) :=
  tabBy_put hR hg h

theorem segsBy_forEach (hR : ∀ g, R g g) (htrans : ∀ {a b c}, R a b → R b c → R a c) {f : Nat → State → State}
    (h : ∀ k s, SegsBy R s (f k s)) (ks : List Nat) (s : State) : SegsBy R s (forEach ks f s) :=
  forEach_rel (R := SegsBy R) (segsBy_refl hR) (TabBy.trans htrans) (fun k _ t => h k t) s

theorem segsBy_onSeg (hR : ∀ g, R g g) {f : Segment → State → State}
    (h : ∀ g, seg? s i = some g → SegsBy R s (f g s)) : SegsBy R s (onSeg i f s) :=
  onSeg_rel (R := SegsBy R) (segsBy_refl hR s) h

theorem segsBy_segExpiry (hR : ∀ g, R g g) {timer : Segment → Timer} {f : Segment → State → State}
    (h : ∀ g, seg? s i = some g → timerDue (timer g) = true → SegsBy R s (f g s)) :
    SegsBy R s (segExpiry i timer f s) := by
  refine segsBy_onSeg hR fun g hg => ?_
  split
  · rename_i hdue
    exact h g hg hdue
  · exact segsBy_refl hR s

end SegsBy

/-! ## The moves of a controller -/

/-- A depth raise (R81). -/
inductive RaiseMove (g : Segment) : Segment → Prop
  | raised (h : Nat) (hmode : g.cfg.mode = .harvest) : RaiseMove g (afterRaise h g)

/-- Depth raises, one after the other. -/
abbrev RaiseMoves : Segment → Segment → Prop := Relation.ReflTransGen RaiseMove

/-- What an event at a controller, a timer or a flag can make of a segment's record. None touches the configuration, the
activity, its timers, the held flag or the effective cap. -/
inductive CtlMove (g : Segment) : Segment → Prop
  | raised {u : Segment} (h : RaiseMove g u) : CtlMove g u
  | stepped (s : State) (hdue : timerDue g.stepTimer = true) : CtlMove g (stepped s g)
  | skyChanged (s : State) : CtlMove g (earlyStepped s g)
  | offDelayed (s : State) (hdue : timerDue g.offTimer = true) : CtlMove g (offDelayed s g)
  | fellBack (hdue : timerDue g.blindTimer = true) : CtlMove g (fellBack g)
  | fellShort (hdue : timerDue g.shortTimer = true) :
      CtlMove g { g with shortfall := true, changed := true, shortTimer := none }
  | unflagged : CtlMove g { g with changed := false }

/-- Moves of a controller, one after the other. -/
abbrev CtlMoves : Segment → Segment → Prop := Relation.ReflTransGen CtlMove

/-- R68, R87, R122: what a new effective cap and its event can make of a segment's record. -/
inductive CapMove (g : Segment) : Segment → Prop
  | rose (cap : Nat) (hcap : g.cfg.mode = .harvest → g.h ≤ cap) : CapMove g { g with effCap := cap }
  | fell (cap : Nat) (hmode : g.cfg.mode = .harvest) (hcap : cap < g.h) :
      CapMove g (capClamped cap { g with effCap := cap })
  | raised {u : Segment} (h : RaiseMove g u) : CapMove g u

/-- What the moves of a controller never touch. -/
structure CtlFrame (g u : Segment) : Prop where
  cfg : u.cfg = g.cfg
  activity : u.activity = g.activity
  held : u.held = g.held
  tally : u.tally = g.tally
  holdTimer : u.holdTimer = g.holdTimer
  setbackTimer : u.setbackTimer = g.setbackTimer
  effCap : u.effCap = g.effCap

theorem CtlFrame.refl (g : Segment) : CtlFrame g g := ⟨rfl, rfl, rfl, rfl, rfl, rfl, rfl⟩

theorem CtlFrame.trans {g u v : Segment} (h : CtlFrame g u) (k : CtlFrame u v) : CtlFrame g v :=
  ⟨k.cfg.trans h.cfg, k.activity.trans h.activity, k.held.trans h.held, k.tally.trans h.tally,
    k.holdTimer.trans h.holdTimer, k.setbackTimer.trans h.setbackTimer, k.effCap.trans h.effCap⟩

section Frames

variable {g : Segment}

theorem afterRaise_frame (h : Nat) (g : Segment) : CtlFrame g (afterRaise h g) := by
  unfold afterRaise
  dsimp only
  split
  · exact .refl g
  · cases g.ctl
    case dwell => dsimp only; split <;> exact ⟨rfl, rfl, rfl, rfl, rfl, rfl, rfl⟩
    all_goals exact ⟨rfl, rfl, rfl, rfl, rfl, rfl, rfl⟩

theorem afterStep_frame (h : Nat) (g : Segment) : CtlFrame g (afterStep g h) := by
  unfold afterStep
  cases g.ctl
  case tracking => dsimp only; split <;> exact ⟨rfl, rfl, rfl, rfl, rfl, rfl, rfl⟩
  case dwell => dsimp only; split <;> exact ⟨rfl, rfl, rfl, rfl, rfl, rfl, rfl⟩
  all_goals exact ⟨rfl, rfl, rfl, rfl, rfl, rfl, rfl⟩

theorem madeUp_frame (g : Segment) : CtlFrame g (madeUp g) :=
  (afterStep_frame (upH g) g).trans ⟨rfl, rfl, rfl, rfl, rfl, rfl, rfl⟩

theorem reloadShorter_frame (g : Segment) : CtlFrame g (reloadShorter g) := ⟨rfl, rfl, rfl, rfl, rfl, rfl, rfl⟩

theorem monitorShortfall_frame (e : Nat) (g : Segment) : CtlFrame g (monitorShortfall e g) := by
  unfold monitorShortfall
  split
  · split <;> exact ⟨rfl, rfl, rfl, rfl, rfl, rfl, rfl⟩
  · exact ⟨rfl, rfl, rfl, rfl, rfl, rfl, rfl⟩

theorem evaluate_frame (floor e : Nat) (g : Segment) : CtlFrame g (evaluate floor e g) := by
  unfold evaluate
  dsimp only
  refine (monitorShortfall_frame e g).trans ?_
  split
  · split
    · exact reloadShorter_frame _
    · exact madeUp_frame _
  · split
    · split
      · exact reloadShorter_frame _
      · exact (afterStep_frame _ _).trans ⟨rfl, rfl, rfl, rfl, rfl, rfl, rfl⟩
    · exact reloadShorter_frame _

theorem startOffDelay_frame (g : Segment) : CtlFrame g (startOffDelay g) := by
  unfold startOffDelay
  split <;> exact ⟨rfl, rfl, rfl, rfl, rfl, rfl, rfl⟩

theorem goBlind_frame (g : Segment) : CtlFrame g (goBlind g) := ⟨rfl, rfl, rfl, rfl, rfl, rfl, rfl⟩

theorem seeAgain_frame (g : Segment) : CtlFrame g (seeAgain g) := ⟨rfl, rfl, rfl, rfl, rfl, rfl, rfl⟩

theorem struck_frame (s : State) (g : Segment) : CtlFrame g (struck s g) := ⟨rfl, rfl, rfl, rfl, rfl, rfl, rfl⟩

theorem stepped_frame (s : State) (g : Segment) : CtlFrame g (stepped s g) := by
  have hsees := (startOffDelay_frame g).trans (seeAgain_frame _)
  unfold stepped
  split
  · exact .refl g
  · exact ⟨rfl, rfl, rfl, rfl, rfl, rfl, rfl⟩
  · split
    · exact reloadShorter_frame g
    · split
      · exact (startOffDelay_frame g).trans (goBlind_frame _)
      · dsimp only
        split
        · split
          · exact hsees.trans (struck_frame s _)
          · exact hsees.trans (reloadShorter_frame _)
        · exact hsees.trans (evaluate_frame _ _ _)

theorem earlyStepped_frame (s : State) (g : Segment) : CtlFrame g (earlyStepped s g) := by
  unfold earlyStepped
  split
  · split
    · exact .refl g
    · split
      · split
        · exact madeUp_frame g
        · exact .refl g
      · split
        · exact madeUp_frame g
        · exact .refl g
      · split
        · exact struck_frame s g
        · exact .refl g
      · exact .refl g
  · exact .refl g

theorem offDelayed_frame (s : State) (g : Segment) : CtlFrame g (offDelayed s g) := by
  unfold offDelayed
  split
  · split <;> exact ⟨rfl, rfl, rfl, rfl, rfl, rfl, rfl⟩
  · exact ⟨rfl, rfl, rfl, rfl, rfl, rfl, rfl⟩

theorem capClamped_frame (cap : Nat) (g : Segment) : CtlFrame g (capClamped cap g) := by
  unfold capClamped
  split <;> exact ⟨rfl, rfl, rfl, rfl, rfl, rfl, rfl⟩

theorem CtlMove.frame {u : Segment} (h : CtlMove g u) : CtlFrame g u := by
  cases h with
  | raised h =>
    obtain ⟨o⟩ := h
    exact afterRaise_frame o g
  | stepped s => exact stepped_frame s g
  | skyChanged s => exact earlyStepped_frame s g
  | offDelayed s => exact offDelayed_frame s g
  | fellBack => exact ⟨rfl, rfl, rfl, rfl, rfl, rfl, rfl⟩
  | fellShort => exact ⟨rfl, rfl, rfl, rfl, rfl, rfl, rfl⟩
  | unflagged => exact ⟨rfl, rfl, rfl, rfl, rfl, rfl, rfl⟩

/-- A new effective cap and its event leave all that a controller's moves leave, the cap aside. -/
theorem CapMove.frame {u : Segment} (h : CapMove g u) : CtlFrame { g with effCap := u.effCap } u := by
  cases h with
  | rose cap => exact .refl _
  | fell cap =>
    have hframe := capClamped_frame cap { g with effCap := cap }
    exact hframe.effCap ▸ hframe
  | raised h =>
    obtain ⟨o⟩ := h
    have hframe := afterRaise_frame o g
    rw [hframe.effCap]
    exact hframe

theorem ctlMoves_frame {u : Segment} (h : CtlMoves g u) : CtlFrame g u := by
  induction h with
  | refl => exact .refl g
  | tail _ h ih => exact ih.trans h.frame

end Frames

/-! ## The operations that move controllers -/

section CtlOps

variable {s : State} {i : Nat} {g new : Segment}

theorem segsBy_refl_ctl (s : State) : SegsBy CtlMoves s s := segsBy_refl (fun _ => .refl) s

theorem segsBy_putSeg_ctl (hg : seg? s i = some g) (h : CtlMove g new) : SegsBy CtlMoves s (putSeg i new s) :=
  segsBy_putSeg (fun _ => .refl) hg (.single h)

theorem SegsBy.ctl_trans {t u : State} (h : SegsBy CtlMoves s t) (k : SegsBy CtlMoves t u) : SegsBy CtlMoves s u :=
  TabBy.trans .trans h k

/-- R81: the record of a depth raise. -/
theorem raised_move (h : raised s g = some new) : RaiseMove g new := by
  have heq : new = afterRaise (linkedH s g) g := by rw [← raised_getD, h]; rfl
  have hmode : g.cfg.mode = .harvest := by
    unfold raised activeOuter at h
    by_contra hm
    simp [hm] at h
  rw [heq]
  exact .raised _ hmode

theorem SegsBy.ctl {t : State} (h : SegsBy RaiseMoves s t) : SegsBy CtlMoves s t :=
  h.mono fun h => h.lift id fun _ _ => CtlMove.raised

/-- R82: what a depth raise makes of the segments. -/
theorem depthRaise_raises (n : Nat) : ∀ (i : Nat) (s : State), SegsBy RaiseMoves s (depthRaise n i s) := by
  induction n with
  | zero => exact fun _ s => segsBy_refl (fun _ => .refl) s
  | succ n ih =>
    intro i s
    cases hg : seg? s i with
    | none => rw [depthRaise_noSegment hg]; exact segsBy_refl (fun _ => .refl) s
    | some g =>
      cases hr : raised s g with
      | none => rw [depthRaise_unraised hg hr]; exact segsBy_refl (fun _ => .refl) s
      | some new =>
        rw [depthRaise_raised hg hr]
        exact (segsBy_putSeg (fun _ => .refl) hg (.single (raised_move hr))).trans .trans
          (segsBy_forEach (fun _ => .refl) .trans (fun k t => ih k t) _ _)

theorem raiseInner_raises (i : Nat) (s : State) : SegsBy RaiseMoves s (raiseInner i s) :=
  segsBy_forEach (fun _ => .refl) .trans (fun k t => depthRaise_raises 3 k t) _ _

theorem depthRaise_by (n i : Nat) (s : State) : SegsBy CtlMoves s (depthRaise n i s) := (depthRaise_raises n i s).ctl

theorem putRising_by (hg : seg? s i = some g) (h : CtlMove g new) : SegsBy CtlMoves s (putRising i g new s) := by
  unfold putRising
  split
  · exact (segsBy_putSeg_ctl hg h).ctl_trans (raiseInner_raises i _).ctl
  · exact segsBy_putSeg_ctl hg h

theorem raiseOnce_by (i : Nat) (s : State) : SegsBy CtlMoves s (raiseOnce i s) := by
  refine segsBy_onSeg (fun _ => .refl) fun g hg => ?_
  split
  · rename_i hr
    exact segsBy_putSeg_ctl hg (.raised (raised_move hr))
  · exact segsBy_refl_ctl s

theorem stepExpiry_by (i : Nat) (s : State) : SegsBy CtlMoves s (stepExpiry i s) :=
  segsBy_segExpiry (fun _ => .refl) fun _ hg hdue => putRising_by hg (.stepped s hdue)

theorem skyChange_by (i : Nat) (s : State) : SegsBy CtlMoves s (skyChange i s) :=
  segsBy_onSeg (fun _ => .refl) fun _ hg => putRising_by hg (.skyChanged s)

theorem offDelayExpiry_by (i : Nat) (s : State) :
    SegsBy CtlMoves s (segExpiry i (·.offTimer) (fun g t => putSeg i (offDelayed t g) t) s) :=
  segsBy_segExpiry (fun _ => .refl) fun _ hg hdue => segsBy_putSeg_ctl hg (.offDelayed s hdue)

theorem blindTimerExpiry_by (i : Nat) (s : State) :
    SegsBy CtlMoves s (segExpiry i (·.blindTimer) (fun g t => putRising i g (fellBack g) t) s) :=
  segsBy_segExpiry (fun _ => .refl) fun _ hg hdue => putRising_by hg (.fellBack hdue)

theorem shortfallExpiry_by (i : Nat) (s : State) :
    SegsBy CtlMoves s (segExpiry i (·.shortTimer)
      (fun g => putSeg i { g with shortfall := true, changed := true, shortTimer := none }) s) :=
  segsBy_segExpiry (fun _ => .refl) fun _ hg hdue => segsBy_putSeg_ctl hg (.fellShort hdue)

theorem unflagSeg_by (i : Nat) (s : State) : SegsBy CtlMoves s (clearFlag (.segment i) s) :=
  segsBy_onSeg (fun _ => .refl) fun _ hg => segsBy_putSeg_ctl hg .unflagged

/-- R68, R87: a new effective cap and its event: the record with the cap, clamped under it or raised. -/
theorem recomputeCap_by (i : Nat) (s : State) : SegsBy (Relation.ReflTransGen CapMove) s (recomputeCap i s) := by
  refine segsBy_onSeg (fun _ => .refl) fun g hg => ?_
  have hput {u : Segment} (h : CapMove g u) : SegsBy (Relation.ReflTransGen CapMove) s (putSeg i u s) :=
    segsBy_putSeg (fun _ => .refl) hg (.single h)
  dsimp only
  generalize effectiveCap s.composer g.cfg.cap = cap
  split
  · exact segsBy_refl (fun _ => .refl) s
  · unfold capChange
    rw [onSeg_some (seg?_putSeg_self i _ s)]
    dsimp only
    split
    · rename_i hmode
      split
      · rename_i hclamp
        rw [putSeg_putSeg]
        exact hput (.fell cap hmode hclamp)
      · rename_i hclamp
        have hrose := hput (.rose cap fun _ => Nat.not_lt.mp hclamp)
        split
        · exact hrose.trans .trans ((depthRaise_raises 4 i _).mono fun h => h.lift id fun _ _ => CapMove.raised)
        · exact hrose
    · rename_i hmode
      exact hput (.rose cap fun hm => absurd hm hmode)

/-- R122: a new effective cap leaves the configuration, the activity and the held flag of every segment. -/
theorem recomputeCap_frame (i : Nat) (s : State) :
    SegsBy (fun g u => CtlFrame { g with effCap := u.effCap } u) s (recomputeCap i s) := by
  refine (recomputeCap_by i s).mono fun {g u} h => ?_
  induction h with
  | refl => exact .refl _
  | tail _ h ih =>
    obtain ⟨hcfg, hactivity, hheld, htally, hhold, hsetback, _⟩ := ih
    obtain ⟨kcfg, kactivity, kheld, ktally, khold, ksetback, _⟩ := h.frame
    exact ⟨kcfg.trans hcfg, kactivity.trans hactivity, kheld.trans hheld, ktally.trans htally, khold.trans hhold,
      ksetback.trans hsetback, rfl⟩

end CtlOps

end Sys2Proof.Machine
end

section
/-! SUPPORT. How the acts at the activity of a segment, at the override list and at the inputs change the segments. -/

namespace Sys2Proof.Machine

/-! ## The moves of a segment -/

/-- What an act other than a definition, an amendment, a reset or an expiry of the activity can make of a segment's record: the
activity stays as it is, or becomes OCCUPIED. -/
inductive LiveMove (g : Segment) : Segment → Prop
  | ctl {u : Segment} (h : CtlMove g u) : LiveMove g u
  | held (s : State) (i : Nat) : LiveMove g (heldAgain s i g)
  | occupied (flag : Bool) (hsensing : g.cfg.sensing = true) :
      LiveMove g
        { g with
          activity := .occupied, holdTimer := startTimer (holdTenths g.cfg), setbackTimer := none, changed := flag }

/-- Live moves of a segment, one after the other. -/
abbrev LiveMoves : Segment → Segment → Prop := Relation.ReflTransGen LiveMove

/-- What an act other than a definition, an amendment or a reset can make of a segment's record. -/
inductive SegMove (g : Segment) : Segment → Prop
  | live {u : Segment} (h : LiveMove g u) : SegMove g u
  | recapped {u : Segment} (h : CapMove g u) : SegMove g u
  | dimmed (hdue : timerDue g.holdTimer = true) :
      SegMove g
        { g with
          activity := .setback, holdTimer := none, setbackTimer := startTimer (setbackTenths g.cfg), changed := true }
  | stayed (hdue : timerDue g.holdTimer = true) : SegMove g { g with holdTimer := startTimer (holdTenths g.cfg) }
  | emptied (hdue : timerDue g.setbackTimer = true) :
      SegMove g { g with activity := .vacant, setbackTimer := none, changed := true }

/-- Moves of a segment, one after the other. -/
abbrev SegMoves : Segment → Segment → Prop := Relation.ReflTransGen SegMove

/-- The configuration and the tally stand. -/
def SameSettings (g u : Segment) : Prop := u.cfg = g.cfg ∧ u.tally = g.tally

theorem SameSettings.refl (g : Segment) : SameSettings g g := ⟨rfl, rfl⟩

theorem SameSettings.trans {g u v : Segment} (h : SameSettings g u) (k : SameSettings u v) : SameSettings g v :=
  ⟨k.1.trans h.1, k.2.trans h.2⟩

theorem heldAgain_settings (s : State) (i : Nat) (g : Segment) : SameSettings g (heldAgain s i g) := by
  unfold heldAgain
  split <;> exact ⟨rfl, rfl⟩

theorem CtlFrame.settings {g u : Segment} (h : CtlFrame g u) : SameSettings g u := ⟨h.cfg, h.tally⟩

theorem LiveMove.settings {g u : Segment} (h : LiveMove g u) : SameSettings g u := by
  cases h with
  | ctl h => exact h.frame.settings
  | held s i => exact heldAgain_settings s i g
  | occupied => exact ⟨rfl, rfl⟩

theorem SegMove.settings {g u : Segment} (h : SegMove g u) : SameSettings g u := by
  cases h with
  | live h => exact h.settings
  | recapped h => exact ⟨h.frame.cfg, h.frame.tally⟩
  | dimmed => exact ⟨rfl, rfl⟩
  | stayed => exact ⟨rfl, rfl⟩
  | emptied => exact ⟨rfl, rfl⟩

theorem segMoves_settings {g u : Segment} (h : SegMoves g u) : SameSettings g u := by
  induction h with
  | refl => exact .refl g
  | tail _ h ih => exact ih.trans h.settings

theorem SegsBy.live {s t : State} (h : SegsBy CtlMoves s t) : SegsBy LiveMoves s t :=
  h.mono fun h => h.lift id fun _ _ => LiveMove.ctl

theorem SegsBy.moves {s t : State} (h : SegsBy LiveMoves s t) : SegsBy SegMoves s t :=
  h.mono fun h => h.lift id fun _ _ => SegMove.live

theorem SegsBy.settings {s t : State} (h : SegsBy SegMoves s t) : SegsBy SameSettings s t := h.mono segMoves_settings

theorem recomputeCap_moves (i : Nat) (s : State) : SegsBy SegMoves s (recomputeCap i s) :=
  (recomputeCap_by i s).mono fun h => h.lift id fun _ _ => SegMove.recapped

theorem SegsBy.live_trans {s t u : State} (h : SegsBy LiveMoves s t) (k : SegsBy LiveMoves t u) : SegsBy LiveMoves s u :=
  TabBy.trans .trans h k

theorem SegsBy.moves_trans {s t u : State} (h : SegsBy SegMoves s t) (k : SegsBy SegMoves t u) : SegsBy SegMoves s u :=
  TabBy.trans .trans h k

theorem SegsBy.settings_trans {s t u : State} (h : SegsBy SameSettings s t) (k : SegsBy SameSettings t u) :
    SegsBy SameSettings s u := TabBy.trans .trans h k

/-! ## The operations -/

section Ops

variable {s : State} {i : Nat} {g new : Segment}

theorem segsBy_refl_live (s : State) : SegsBy LiveMoves s s := segsBy_refl (fun _ => .refl) s

theorem segsBy_of_segs {t : State} (h : t.segs = s.segs) : SegsBy LiveMoves s t := TabBy.of_eq (fun _ => .refl) h

theorem segsBy_putSeg_live (hg : seg? s i = some g) (h : LiveMove g new) : SegsBy LiveMoves s (putSeg i new s) :=
  segsBy_putSeg (fun _ => .refl) hg (.single h)

theorem segsBy_putSeg_moves (hg : seg? s i = some g) (h : SegMove g new) : SegsBy SegMoves s (putSeg i new s) :=
  segsBy_putSeg (fun _ => .refl) hg (.single h)

theorem segsBy_forEach_live {f : Nat → State → State} (h : ∀ k s, SegsBy LiveMoves s (f k s)) (ks : List Nat)
    (s : State) : SegsBy LiveMoves s (forEach ks f s) := segsBy_forEach (fun _ => .refl) .trans h ks s

theorem recomputeHeld_eq (hg : seg? s i = some g) : recomputeHeld i s = putSeg i (heldAgain s i g) s := by
  rw [recomputeHeld, onSeg_some hg]
  dsimp only [heldAgain]
  split <;> rfl

/-- R64: the held flag recomputed. -/
theorem recomputeHeld_by (i : Nat) (s : State) : SegsBy LiveMoves s (recomputeHeld i s) := by
  cases hg : seg? s i with
  | none => rw [recomputeHeld, onSeg_none hg]; exact segsBy_refl_live s
  | some g => rw [recomputeHeld_eq hg]; exact segsBy_putSeg_live hg (.held s i)

theorem putHeld_by {j : Nat} (hg : seg? s i = some g) (h : LiveMove g new) :
    SegsBy LiveMoves s (recomputeHeld j (putSeg i new s)) :=
  (segsBy_putSeg_live hg h).live_trans (recomputeHeld_by j _)

theorem motion_by (byRequest : Bool) (i : Nat) (s : State) : SegsBy LiveMoves s (motion byRequest i s) := by
  refine segsBy_onSeg (fun _ => .refl) fun g hg => ?_
  split
  · rename_i hsensing
    exact putHeld_by hg (.occupied _ hsensing)
  · exact segsBy_refl_live s

theorem reResolve_by (byRequest : Bool) (i : Nat) (s : State) : SegsBy LiveMoves s (reResolve byRequest i s) := by
  refine segsBy_onSeg (fun _ => .refl) fun g hg => ?_
  split
  · rename_i h
    exact putHeld_by hg (.occupied _ h.1)
  · exact segsBy_refl_live s

theorem forEach_reResolve_by (byRequest : Bool) (ks : List Nat) (s : State) :
    SegsBy LiveMoves s (forEach ks (reResolve byRequest) s) := segsBy_forEach_live (reResolve_by byRequest) ks s

theorem holdExpiry_by (i : Nat) (s : State) : SegsBy SegMoves s (segExpiry i (·.holdTimer) (holdExpired i) s) := by
  refine segsBy_segExpiry (fun _ => .refl) fun g hg hdue => ?_
  unfold holdExpired
  split
  · exact (segsBy_putSeg_moves hg (.dimmed hdue)).moves_trans (recomputeHeld_by _ _).moves
  · exact segsBy_putSeg_moves hg (.stayed hdue)

theorem retireRecords_by (p : Override → Bool) (flag : Bool) (s : State) :
    SegsBy LiveMoves s (retireRecords p flag s) :=
  .live_trans (segsBy_of_segs (putOverrides_segs _ s)) (segsBy_forEach_live recomputeHeld_by _ _)

theorem setbackExpiry_by (i : Nat) (s : State) : SegsBy SegMoves s (segExpiry i (·.setbackTimer) (goVacant i) s) := by
  refine segsBy_segExpiry (fun _ => .refl) fun g hg hdue => ?_
  exact ((segsBy_putSeg_moves hg (.emptied hdue)).moves_trans (retireRecords_by _ _ _).moves).moves_trans
    (recomputeHeld_by i _).moves

theorem makeRoom_by (s : State) : SegsBy LiveMoves s (makeRoom s) := by
  unfold makeRoom
  split
  · exact segsBy_refl_live s
  · split
    · exact retireRecords_by _ _ s
    · exact segsBy_refl_live s

theorem placeRecord_by (origin : Origin) (cls : OvClass) (scope : Scope) (action : OvAction) (hold : Option Nat)
    (s : State) : SegsBy LiveMoves s (placeRecord origin cls scope action hold s) := by
  unfold placeRecord
  split
  · exact segsBy_of_segs rfl
  · exact (makeRoom_by s).live_trans
      (.live_trans (segsBy_of_segs (putOverrides_segs _ (makeRoom s))) (recomputeHeld_by _ _))

theorem placeFloor_by (cls : OvClass) (scope : Scope) (action : OvAction) (hold : Option Nat) (s : State) :
    SegsBy LiveMoves s (placeFloor cls scope action hold s) := by
  cases cls
  · exact placeRecord_by _ _ _ _ _ s
  · exact (motion_by true _ s).live_trans (placeRecord_by _ _ _ _ _ _)

theorem pressList_by (a : Nat) (scope : Scope) (hold : Nat) (b : Button) (s : State) :
    SegsBy LiveMoves s (pressList a scope hold b s) := by
  refine segsBy_onSeg (fun _ => .refl) fun g _ => ?_
  dsimp only
  split
  · exact retireRecords_by _ _ s
  · split
    · exact segsBy_refl_live s
    · exact placeRecord_by _ _ _ _ _ s

theorem countHolds_by (s : State) : SegsBy LiveMoves s (countHolds s) :=
  .live_trans (segsBy_of_segs (putOverrides_segs _ s)) (retireRecords_by _ _ _)

theorem dropLink_by (a : Nat) (link : InputLink) (misses : Nat) (s : State) :
    SegsBy LiveMoves s (dropLink a link misses s) := by
  refine onInput_rel (R := SegsBy LiveMoves) (segsBy_refl_live s) fun n _ => ?_
  dsimp only
  split
  · exact .live_trans (segsBy_of_segs (putInput_segs a _ s)) (forEach_reResolve_by false _ _)
  · exact segsBy_of_segs rfl

theorem amendInputRecord_by (a : Nat) (old new : Input) (s : State) :
    SegsBy LiveMoves s (amendInputRecord a old new s) :=
  .live_trans (segsBy_of_segs (putInput_segs a new s)) (forEach_reResolve_by true _ _)

theorem retireInput_by (a : Nat) (n : Input) (s : State) : SegsBy LiveMoves s (retireInput a n s) := by
  have hforgotten : SegsBy LiveMoves s { forgetInput a s with inputs := tabDel (forgetInput a s).inputs a } :=
    segsBy_of_segs rfl
  unfold retireInput
  dsimp only
  split
  · exact hforgotten
  · exact hforgotten.live_trans (forEach_reResolve_by true _ _)
  · exact hforgotten.live_trans (retireRecords_by _ _ _)

theorem goDownInput_by (s : State) : SegsBy LiveMoves s (goDownInput s) := by
  unfold goDownInput
  dsimp only
  refine .live_trans (segsBy_of_segs ?_) (forEach_reResolve_by false _ _)
  split <;> rfl

theorem InputAct.segsBy {t : State} (h : InputAct s t) : SegsBy LiveMoves s t := by
  cases h with
  | amended body a n d clamped interval missLimit => exact amendInputRecord_by a n _ s
  | retired a n => exact retireInput_by a n s
  | lost a link misses => exact dropLink_by a link misses s
  | lineDown => exact goDownInput_by s
  | _ => exact segsBy_of_segs rfl

/-! ## The requests on segments, as to settings and ids -/

theorem SegsBy.refl_settings (s : State) : SegsBy SameSettings s s := segsBy_refl .refl s

theorem putSeg_settings (hg : seg? s i = some g) (h : SameSettings g new) : SegsBy SameSettings s (putSeg i new s) :=
  segsBy_putSeg .refl hg h

theorem onSeg_settings {f : Segment → State → State} (h : ∀ g, seg? s i = some g → SegsBy SameSettings s (f g s)) :
    SegsBy SameSettings s (onSeg i f s) := segsBy_onSeg .refl h

theorem depthRaise_settings (n i : Nat) (s : State) : SegsBy SameSettings s (depthRaise n i s) :=
  (depthRaise_by n i s).live.moves.settings

theorem enterHarvest_settings (i : Nat) (s : State) : SegsBy SameSettings s (enterHarvest i s) :=
  ((onSeg_settings (f := fun g => putSeg i (enteredHarvest g)) fun _ hg => putSeg_settings hg ⟨rfl, rfl⟩).settings_trans
    (depthRaise_settings 4 i _)).settings_trans (raiseInner_raises i _).ctl.live.moves.settings

theorem capChange_settings (i old : Nat) (s : State) : SegsBy SameSettings s (capChange i old s) := by
  refine onSeg_settings fun g hg => ?_
  split
  · split
    · exact putSeg_settings hg (capClamped_frame _ g).settings
    · split
      · exact depthRaise_settings 4 i s
      · exact .refl_settings s
  · exact .refl_settings s

theorem capStep_settings (i old : Nat) (s : State) : SegsBy SameSettings s (capStep i old s) := by
  refine onSeg_settings fun g _ => ?_
  split
  · exact .refl_settings s
  · exact capChange_settings i old s

theorem modeChange_settings (i : Nat) (old new : Mode) (s : State) : SegsBy SameSettings s (modeChange i old new s) := by
  cases old <;> cases new
  case manual.harvest => exact enterHarvest_settings i s
  case harvest.manual => exact onSeg_settings fun _ hg => putSeg_settings hg ⟨rfl, rfl⟩
  all_goals exact .refl_settings s

theorem storeCap_settings (i : Nat) (s : State) : SegsBy SameSettings s (storeCap i s) :=
  onSeg_settings fun _ hg => putSeg_settings hg ⟨rfl, rfl⟩

theorem cutOffChanged_settings (i : Nat) (s : State) : SegsBy SameSettings s (cutOffChanged i s) := by
  refine onSeg_settings fun g hg => ?_
  split
  · exact putSeg_settings hg ⟨rfl, rfl⟩
  · exact .refl_settings s

theorem sensingChanged_settings (i : Nat) (s : State) : SegsBy SameSettings s (sensingChanged i s) := by
  refine onSeg_settings fun g hg => ?_
  split
  · exact putSeg_settings hg ⟨rfl, rfl⟩
  · refine .settings_trans (putSeg_settings hg ?_) (recomputeHeld_by i _).moves.settings
    exact ⟨rfl, rfl⟩

theorem SegsBy.ite_settings {p : Prop} [Decidable p] {t u : State} (h : SegsBy SameSettings s t)
    (k : SegsBy SameSettings t u) : SegsBy SameSettings s (if p then t else u) := by
  split
  · exact h
  · exact h.settings_trans k

/-- R14: the effects of an amendment touch no configuration. -/
theorem amendEffects_settings (i : Nat) (old : Segment) (c : SegConfig) (s : State) :
    SegsBy SameSettings s (amendEffects i old c s) := by
  have hcap := SegsBy.ite_settings (p := c.cap = old.cfg.cap) (.refl_settings s) (storeCap_settings i s)
  have hmode := (hcap.settings_trans (modeChange_settings i old.cfg.mode c.mode _)).settings_trans
    (capStep_settings i old.effCap _)
  have hcut := SegsBy.ite_settings (p := c.cutOff = old.cfg.cutOff) hmode (cutOffChanged_settings i _)
  have hsensing := SegsBy.ite_settings (p := c.sensing = old.cfg.sensing) hcut (sensingChanged_settings i _)
  exact SegsBy.ite_settings hsensing (depthRaise_settings 4 i _)

/-- R14: after the new configuration is put, an amendment touches no configuration. -/
theorem amendSeg_settings (i : Nat) (g : Segment) (c : SegConfig) (clear : Bool) (s : State) :
    SegsBy SameSettings (putSeg i { g with cfg := c } s) (amendSeg i g c clear s) := by
  have heffects := amendEffects_settings i g c (putSeg i { g with cfg := c } s)
  unfold amendSeg
  dsimp only
  split
  · exact heffects.settings_trans (onSeg_settings fun _ hg => putSeg_settings hg ⟨rfl, rfl⟩)
  · exact heffects

theorem defineSeg_settings (i : Nat) (c : SegConfig) (s : State) :
    SegsBy SameSettings (putSeg i (freshSeg c (effectiveCap s.composer c.cap)) s) (defineSeg i c s) := by
  unfold defineSeg
  dsimp only
  split
  · exact .refl_settings _
  · exact enterHarvest_settings i _

/-! ## Every act on the records -/

/-- What a record act makes of the segments, but for the four that define, amend or retire a segment. -/
inductive SegsChange (s t : State) : Prop
  | moves (h : SegsBy SegMoves s t)
  | defined (body : List Byte) (i : Nat) (hid : i ≤ 31) (hnone : seg? s i = none)
      (hrow : (segField body 0).isNone = false) (henums : segEnumsOk body = true)
      (hrefs : refsFit s i (takeSegStructure body segDefaults) = true)
      (heq : t = defineSeg i (takeSegNumbers body (takeSegStructure body segDefaults)).1 s)
  | amended (body : List Byte) (i : Nat) (g : Segment) (clear : Bool) (hg : seg? s i = some g)
      (henums : segEnumsOk body = true)
      (hrefs : carriesRefs body = true → refsFit s i (takeSegStructure body g.cfg) = true)
      (hlinked : (takeSegStructure body g.cfg).row ≠ g.cfg.row → isOuter s i = false)
      (heq : t = amendSeg i g (takeSegNumbers body (takeSegStructure body g.cfg)).1 clear s)
  | retired (i : Nat) (href : segReferenced s i = false) (heq : t = retireSeg i s)

theorem SegAct.segsChange {t : State} (h : SegAct s t) : SegsChange s t := by
  cases h with
  | stepped i => exact .moves (stepExpiry_by i s).live.moves
  | skyChanged i => exact .moves (skyChange_by i s).live.moves
  | offDelayed i => exact .moves (offDelayExpiry_by i s).live.moves
  | fellBack i => exact .moves (blindTimerExpiry_by i s).live.moves
  | fellShort i => exact .moves (shortfallExpiry_by i s).live.moves
  | holdExpired i => exact .moves (holdExpiry_by i s)
  | moved byRequest i => exact .moves (motion_by byRequest i s).moves
  | recapped i => exact .moves (recomputeCap_moves i s)
  | defined body i hid hnone hrow henums hrefs => exact .defined body i hid hnone hrow henums hrefs rfl
  | amended body i g clear hg henums hrefs hlinked => exact .amended body i g clear hg henums hrefs hlinked rfl
  | unflagged i => exact .moves (unflagSeg_by i s).live.moves

theorem ListAct.segsChange {t : State} (h : ListAct s t) : SegsChange s t := by
  cases h with
  | wentVacant i => exact .moves (setbackExpiry_by i s)
  | placed cls scope kind value action clamped hold => exact .moves (placeFloor_by cls scope action _ s).moves
  | pressed a n scope hold lastButton sequence b =>
    exact .moves ((motion_by false _ s).live_trans (pressList_by a scope hold b _)).moves
  | retired p flag => exact .moves (retireRecords_by p flag s).moves
  | retiredSeg i href => exact .retired i href rfl
  | counted => exact .moves (countHolds_by s).moves
  | unflagged => exact .moves (segsBy_of_segs rfl).moves

theorem RecordAct.segsChange {t : State} (h : RecordAct s t) : SegsChange s t := by
  cases h with
  | seg h => exact h.segsChange
  | list h => exact h.segsChange
  | input h => exact .moves h.segsBy.moves

end Ops

end Sys2Proof.Machine
end

section
/-! SUPPORT. How the acts change the luminaires: the moves of a luminaire's record. -/

namespace Sys2Proof.Machine

/-! ## The moves of a luminaire -/

/-- What the frames to a luminaire and the replies from it can make of its record. -/
inductive SendMove (l : Luminaire) : Luminaire → Prop
  | handed : SendMove l { l with unconfirmed := false, mismatchCount := 0 }
  | unflagged : SendMove l { l with changed := false }
  | sent (code : Nat) : SendMove l { l with sentCode := some code, confirmation := .awaiting }
  | heard (d : DriverReply) : SendMove l (flagLumChange l (settleConfirmation d.echo (heardFrom d l)).1)
  | unanswered : SendMove l (unanswered l)
  | lost : SendMove l (lumDown l)
  | warmed : SendMove l (warmLum l)

/-- What an act other than an enrolment, an amendment or a retirement can make of a luminaire's record. -/
inductive LumMove (l : Luminaire) : Luminaire → Prop
  | send {m : Luminaire} (h : SendMove l m) : LumMove l m
  | bared : LumMove l { l with composed := none }
  | composed (cap requested : Nat) : LumMove l { l with composed := some (composeFrom l cap requested) }

/-- Frames to a luminaire and replies from it, one after the other. -/
abbrev SendMoves : Luminaire → Luminaire → Prop := Relation.ReflTransGen SendMove

/-- Moves of a luminaire, one after the other. -/
abbrev LumMoves : Luminaire → Luminaire → Prop := Relation.ReflTransGen LumMove

/-- The assignment, the settings of the composer and what it composed stand. -/
structure SameComposition (l m : Luminaire) : Prop where
  place : m.place = l.place
  trim : m.trim = l.trim
  minLevel : m.minLevel = l.minLevel
  maxLevel : m.maxLevel = l.maxLevel
  composed : m.composed = l.composed

theorem SameComposition.refl (l : Luminaire) : SameComposition l l := ⟨rfl, rfl, rfl, rfl, rfl⟩

theorem SameComposition.trans {l m n : Luminaire} (h : SameComposition l m) (k : SameComposition m n) : SameComposition l n :=
  ⟨k.place.trans h.place, k.trim.trans h.trim, k.minLevel.trans h.minLevel, k.maxLevel.trans h.maxLevel,
    k.composed.trans h.composed⟩

theorem settleConfirmation_composition (echo : Nat) (l : Luminaire) : SameComposition l (settleConfirmation echo l).1 := by
  unfold settleConfirmation
  dsimp only
  (repeat' split) <;> exact ⟨rfl, rfl, rfl, rfl, rfl⟩

theorem SendMove.composition {l m : Luminaire} (h : SendMove l m) : SameComposition l m := by
  cases h with
  | heard d =>
    obtain ⟨hplace, htrim, hmin, hmax, hcomposed⟩ := settleConfirmation_composition d.echo (heardFrom d l)
    exact ⟨hplace, htrim, hmin, hmax, hcomposed⟩
  | _ => exact ⟨rfl, rfl, rfl, rfl, rfl⟩

theorem sendMoves_composition {l m : Luminaire} (h : SendMoves l m) : SameComposition l m := by
  induction h with
  | refl => exact .refl l
  | tail _ h ih => exact ih.trans h.composition

/-- R8: no move changes the assignment. -/
theorem LumMove.place {l m : Luminaire} (h : LumMove l m) : m.place = l.place := by
  cases h with
  | send h => exact h.composition.place
  | bared => rfl
  | composed => rfl

theorem lumMoves_place {l m : Luminaire} (h : LumMoves l m) : m.place = l.place := by
  induction h with
  | refl => rfl
  | tail _ h ih => exact h.place.trans ih

theorem LumsBy.moves {s t : State} (h : LumsBy SendMoves s t) : LumsBy LumMoves s t :=
  h.mono fun h => h.lift id fun _ _ => LumMove.send

section Ops

variable {M : Luminaire → Luminaire → Prop} {s t : State} {k : Nat} {l new : Luminaire}

theorem lumsBy_refl (s : State) : LumsBy (Relation.ReflTransGen M) s s := TabBy.refl (fun _ => .refl) _

theorem lumsBy_of_lums (h : t.lums = s.lums) : LumsBy (Relation.ReflTransGen M) s t := TabBy.of_eq (fun _ => .refl) h

theorem LumsBy.lum_trans {u : State} (h : LumsBy (Relation.ReflTransGen M) s t) (k : LumsBy (Relation.ReflTransGen M) t u) : LumsBy (Relation.ReflTransGen M) s u :=
  TabBy.trans .trans h k

theorem LumsBy.trans_lums {u : State} (h : LumsBy (Relation.ReflTransGen M) s t) (k : u.lums = t.lums) : LumsBy (Relation.ReflTransGen M) s u :=
  h.lum_trans (lumsBy_of_lums k)

theorem lumsBy_putLum (hl : lum? s k = some l) (h : Relation.ReflTransGen M l new) : LumsBy (Relation.ReflTransGen M) s (putLum k new s) :=
  tabBy_put (fun _ => .refl) hl h

theorem lumsBy_onLum {f : Luminaire → State → State} (h : ∀ l, lum? s k = some l → LumsBy (Relation.ReflTransGen M) s (f l s)) :
    LumsBy (Relation.ReflTransGen M) s (onLum k f s) := onLum_rel (R := LumsBy (Relation.ReflTransGen M)) (lumsBy_refl s) h

theorem lumsBy_forEach {f : Nat → State → State} (h : ∀ k s, LumsBy (Relation.ReflTransGen M) s (f k s)) (ks : List Nat) (s : State) :
    LumsBy (Relation.ReflTransGen M) s (forEach ks f s) :=
  forEach_rel (R := LumsBy (Relation.ReflTransGen M)) lumsBy_refl LumsBy.lum_trans (fun k _ t => h k t) s

@[simp] theorem arbitrate_lums (i : LineId) (s : State) : (arbitrate i s).lums = s.lums := putLine_lums i _ s

@[simp] theorem enqueue_lums (k code : Nat) (s : State) : (enqueue k code s).lums = s.lums := by
  unfold enqueue
  dsimp only
  split
  · exact putLine_lums _ _ s
  · rfl

@[simp] theorem joinConfirm_lums (i : LineId) (k : Nat) (s : State) : (joinConfirm i k s).lums = s.lums := by
  unfold joinConfirm
  dsimp only
  split
  · rfl
  · exact putLine_lums _ _ s

@[simp] theorem leaveConfirm_lums (i : LineId) (k : Nat) (s : State) : (leaveConfirm i k s).lums = s.lums :=
  putLine_lums i _ s

@[simp] theorem clearFlight_lums (i : LineId) (s : State) : (clearFlight i s).lums = s.lums := putLine_lums i _ s

@[simp] theorem dropEntry_lums (k : Nat) (s : State) : (dropEntry k s).lums = s.lums := putLine_lums _ _ s

@[simp] theorem forgetLum_lums (k : Nat) (s : State) : (forgetLum k s).lums = s.lums := putLine_lums _ _ s

@[simp] theorem fillScanSlot_lums (i : LineId) (s : State) : (fillScanSlot i s).lums = s.lums := by
  unfold fillScanSlot
  split
  · split
    · simp
    · rfl
  · rfl

theorem handOver_by (k code : Nat) (s : State) : LumsBy SendMoves s (handOver k code s) := by
  have hhanded : LumsBy SendMoves s
      (onLum k (fun l => putLum k { l with unconfirmed := false, mismatchCount := 0 }) s) :=
    lumsBy_onLum fun l hl => lumsBy_putLum hl (.single .handed)
  refine LumsBy.trans_lums hhanded ?_
  rw [handOver, arbitrate_lums, enqueue_lums]

/-- R127: one luminaire recomposed. -/
theorem recomposeLum_by (k : Nat) (s : State) : LumsBy LumMoves s (recomposeLum k s) := by
  unfold recomposeLum
  refine lumsBy_onLum fun l hl => ?_
  split
  · exact lumsBy_refl s
  · refine onSeg_rel (R := LumsBy LumMoves) (lumsBy_refl s) fun g _ => ?_
    have hcomposed := lumsBy_putLum hl (.single (LumMove.composed g.effCap (requestedLevel s g ‹_›)))
    dsimp only
    split
    · exact hcomposed
    · exact LumsBy.lum_trans hcomposed (handOver_by k _ _).moves

theorem fullRefresh_lums (i : LineId) (s : State) : (fullRefresh i s).lums = s.lums := by
  rw [fullRefresh, arbitrate_lums]
  refine forEach_keeps (P := fun t => t.lums = s.lums) (fun k _ t ht => ?_) rfl
  rw [← ht]
  refine onLum_rel (R := fun t u => u.lums = t.lums) rfl fun l _ => ?_
  cases l.place <;> cases l.composed
  case some.some => exact enqueue_lums k _ t
  all_goals rfl

theorem goDown_by (i : LineId) (s : State) : LumsBy SendMoves s (goDown i s) := by
  refine LumsBy.trans_lums (lumsBy_forEach (fun k t => lumsBy_onLum fun l hl => ?_) (enrolledOn i s) s) (putLine_lums i _ _)
  exact lumsBy_putLum hl (.single .lost)

theorem putLum_putLum (k : Nat) (l new : Luminaire) (s : State) : putLum k new (putLum k l s) = putLum k new s := by
  rw [putLum, putLum, putLum, tabPut_tabPut]

/-- R7, R9: an amendment changes nothing, or puts the amended record. -/
theorem amendLum_by (k : Nat) (old new : Luminaire) (s : State) :
    amendLum k old new s = s ∨ LumsBy LumMoves (putLum k new s) (amendLum k old new s) := by
  have hnew : lum? (putLum k new s) k = some new := lum?_putLum_self k new s
  unfold amendLum
  split
  · exact .inl rfl
  · split
    · have hbared := lumsBy_putLum hnew (.single LumMove.bared)
      rw [putLum_putLum] at hbared
      exact .inr (LumsBy.trans_lums hbared (dropEntry_lums k _))
    · exact .inr (recomposeLum_by k _)

theorem levelEnded_by (i : LineId) (code k : Nat) (retired : Bool) (s : State) :
    LumsBy SendMoves s (levelEnded i code k retired s) := by
  unfold levelEnded
  split
  · exact lumsBy_refl s
  · refine lumsBy_onLum fun l hl => ?_
    have hsent := lumsBy_putLum hl (.single (SendMove.sent code))
    dsimp only
    split
    · exact hsent
    · exact LumsBy.trans_lums hsent (joinConfirm_lums i k _)

theorem replied_by (i : LineId) (k : Nat) (d : DriverReply) (s : State) : LumsBy SendMoves s (replied i k d s) := by
  refine lumsBy_onLum fun l hl => ?_
  have hheard := lumsBy_putLum hl (.single (SendMove.heard d))
  dsimp only
  have hleft : LumsBy SendMoves s
      (if (settleConfirmation d.echo (heardFrom d l)).1.confirmation = .confirmed then
        leaveConfirm i k (putLum k (flagLumChange l (settleConfirmation d.echo (heardFrom d l)).1) s)
      else putLum k (flagLumChange l (settleConfirmation d.echo (heardFrom d l)).1) s) := by
    split
    · exact LumsBy.trans_lums hheard (leaveConfirm_lums i k _)
    · exact hheard
  split
  · exact LumsBy.trans_lums hleft (enqueue_lums k _ _)
  · exact hleft

theorem queryMissed_by (i : LineId) (kind : FrameKind) (k : Nat) (s : State) :
    LumsBy SendMoves s (queryMissed i kind k s) := by
  refine lumsBy_onLum fun l hl => ?_
  have hmissed := lumsBy_putLum hl (.single SendMove.unanswered)
  dsimp only
  split
  · exact LumsBy.trans_lums hmissed (joinConfirm_lums i k _)
  · exact hmissed

/-- What a fixture act makes of the luminaires. -/
inductive LumsChange (s t : State) : Prop
  | sends (h : LumsBy SendMoves s t)
  | enrolled (f : LumFields) (k : Nat) (hkey : k < 128) (hnone : lum? s k = none)
      (heq : t = putLum k (takeLumNumbers f freshLum).1 s)
  | amended (f : LumFields) (k : Nat) (l : Luminaire) (place : Option Place) (hl : lum? s k = some l)
      (hplace : amendedPlace s l f = .ok place)
      (hfree : f.segment.isSome = true ∨ f.position.isSome = true → (place.map (positionHeld s k)).getD false = false)
      (heq : t = amendLum k l (takeLumNumbers f { l with place := place }).1 s)
      (h : LumsBy LumMoves (putLum k (takeLumNumbers f { l with place := place }).1 s) t)
  | retired (k : Nat) (heq : t.lums = tabDel s.lums k)

theorem FixtureAct.lumsChange (h : FixtureAct s t) : LumsChange s t := by
  have hcleared (i : LineId) {p : Prop} [Decidable p] {f : State → State} (hf : ∀ u, LumsBy SendMoves u (f u)) :
      LumsChange s (arbitrate i (if p then clearFlight i s else f (clearFlight i s))) := by
    have hended := lumsBy_of_lums (M := SendMove) (clearFlight_lums i s)
    refine .sends (LumsBy.trans_lums ?_ (arbitrate_lums i _))
    split
    · exact hended
    · exact LumsBy.lum_trans hended (hf _)
  cases h with
  | enrolled f k hkey hnone => exact .enrolled f k hkey hnone rfl
  | amended f k l place hl hplace hfree =>
    rcases amendLum_by k l (takeLumNumbers f { l with place := place }).1 s with heq | h
    · rw [heq]
      exact .sends (lumsBy_refl s)
    · exact .amended f k l place hl hplace hfree rfl h
  | retired k => exact .retired k (by rw [forgetLum_lums])
  | unflagged k => exact .sends (lumsBy_onLum fun l hl => lumsBy_putLum hl (.single .unflagged))
  | levelEnded i code k retired =>
    exact .sends (LumsBy.trans_lums
      (LumsBy.lum_trans (lumsBy_of_lums (clearFlight_lums i s)) (levelEnded_by i code k retired _)) (arbitrate_lums i _))
  | answered i kind k retired d => exact hcleared i (replied_by i k d)
  | unanswered i kind k retired => exact hcleared i (queryMissed_by i kind k)
  | lineDown i => exact .sends (goDown_by i s)
  | lineUp i => exact .sends (lumsBy_of_lums ((fullRefresh_lums i _).trans (putLine_lums i _ s)))
  | pinRose i => exact .sends (lumsBy_of_lums ((arbitrate_lums i _).trans (putLine_lums i _ s)))
  | pinFell i => exact .sends (lumsBy_of_lums (putLine_lums i _ s))
  | filled i => exact .sends (lumsBy_of_lums (fillScanSlot_lums i s))

/-- R127: the recompositions at the end of an event. -/
theorem settle_by (s t : State) : LumsBy LumMoves t (settle s t) :=
  forEachFree_rel (R := LumsBy LumMoves) LumsBy.lum_trans (fun _ _ => lumsBy_of_lums rfl)
    (fun i _ u => lumsBy_forEach recomposeLum_by (members u i) u) t

/-- R133: every luminaire composed afresh. -/
theorem composeAll_by (s : State) : LumsBy LumMoves s (composeAll s) := by
  refine tabBy_map (fun l => ?_) s.lums
  unfold composeOnly
  split
  · exact .refl
  · split
    · exact .refl
    · exact .single (.composed _ _)

end Ops

end Sys2Proof.Machine
end

section
/-! SUPPORT. What a law has to bear to be kept by every act: the acts on the records and on the fixtures, one recomposition, the
fields of the floor, the parts of the resets. -/

namespace Sys2Proof.Machine

/-- A law that the parts of every act keep. -/
structure KeptByParts (P : State → Prop) : Prop where
  record : ∀ {s t : State}, RecordAct s t → P s → P t
  recompose : ∀ (k : Nat) {s : State}, P s → P (recomposeLum k s)
  fixture : ∀ {s t : State}, FixtureAct s t → P s → P t
  recapped : ∀ {s : State} (c : Composer), c.floorCap ≤ max 1000 s.composer.floorCap →
    c.snapshotNumber = s.composer.snapshotNumber → c.snapshot = s.composer.snapshot → P s → P { s with composer := c }
  captured : ∀ {s : State}, P s → P { s with composer :=
    { s.composer with snapshot := talliesOf s, snapshotNumber := nextSnapshotNumber s.composer.snapshotNumber } }
  ticked : ∀ {s : State}, P s → P (tickAll s)
  tallied : ∀ {s : State}, P s → P (addTallies s)
  holdsTaken : ∀ {s : State}, P s → P { s with time := { s.time with holdsDue := false } }
  drew : ∀ {s : State} (n : Nat), P s → P { s with draws := n }
  portSet : ∀ {s : State} (p : Port), P s → P { s with port := p }
  warmBlocks : ∀ {s : State}, P s → P (warmBlocks s)
  raiseOnce : ∀ (i : Nat) {s : State}, P s → P (raiseOnce i s)
  composeAll : ∀ {s : State}, P s → P (composeAll s)
  refresh : ∀ (i : LineId) {s : State}, (lineOf i s).state = .running → P s → P (fullRefresh i s)
  coldReset : ∀ {s : State} (low : Bool), P s → P (coldState low s)

section Kept

variable {P : State → Prop} {s t : State}

/-- What recompositions keep is kept to the end of an event. -/
theorem settle_keeps (hrec : ∀ (k : Nat) {s : State}, P s → P (recomposeLum k s))
    (hdraws : ∀ {s : State} (n : Nat), P s → P { s with draws := n }) (h : P t) : P (settle s t) :=
  forEachFree_keeps (fun _ n => hdraws n)
    (fun i _ u hu => forEach_keeps (fun k _ v => hrec k (s := v)) (ks := members u i) hu) h

theorem KeptByParts.event (h : KeptByParts P) {f : State → State} (hf : P (f s)) : P (event f s) :=
  settle_keeps h.recompose h.drew hf

theorem KeptByParts.recordActs (h : KeptByParts P) (hacts : RecordActs s t) (hs : P s) : P t := by
  induction hacts with
  | refl => exact hs
  | tail _ hact ih => exact h.record hact ih

/-- R122: every segment takes its new effective cap, each at an event of its own. -/
theorem KeptByParts.recomputeAllCaps (h : KeptByParts P) (hs : P s) : P (recomputeAllCaps s) :=
  forEachFree_keeps (fun _ n => h.drew n) (fun i _ _ ht => h.event (h.record (.seg (.recapped i)) ht)) hs

theorem KeptByParts.raiseRow (h : KeptByParts P) (row : Nat) (hs : P s) : P (raiseRow row s) :=
  forEach_keeps (fun i _ _ => h.raiseOnce i) hs

theorem KeptByParts.warmRefresh (h : KeptByParts P) (i : LineId) (hs : P s) : P (warmRefresh i s) := by
  unfold Machine.warmRefresh
  split
  · rename_i hrunning
    exact h.refresh i hrunning hs
  · exact hs

theorem KeptByParts.act (h : KeptByParts P) (hact : Act s t) (hs : P s) : P t := by
  cases hact with
  | event hf => exact h.event (h.recordActs hf hs)
  | quiet hrecord => exact h.record hrecord hs
  | fixture hfixture => exact h.fixture hfixture hs
  | recapped c hcap hnumber hsnapshot => exact h.recomputeAllCaps (h.recapped c hcap hnumber hsnapshot hs)
  | captured => exact h.captured hs
  | sampledPin low => exact h.recapped _ (le_max_right _ _) rfl rfl hs
  | ticked => exact h.ticked hs
  | tallied => exact h.tallied hs
  | holdsTaken => exact h.holdsTaken hs
  | drew n => exact h.drew n hs
  | portSet p => exact h.portSet p hs
  | warmReset =>
    exact h.warmRefresh .b (h.warmRefresh .a (h.composeAll
      (h.raiseRow 4 (h.raiseRow 3 (h.raiseRow 2 (h.warmBlocks hs))))))
  | coldReset low => exact h.coldReset low hs

/-- A law of the parts of every act is kept by every step. -/
theorem KeptByParts.keptByStep (h : KeptByParts P) (hqueue : ∀ s rest, P s → P { s with pending := rest }) :
    KeptByStep P := keptByStep_of_acts hqueue fun _ _ => h.act

/-- A part of a law of the parts is kept from the states that meet the rest. -/
theorem KeptByParts.keptUnder {inv Q : State → Prop} (h : KeptByParts fun s => inv s ∧ Q s)
    (hqueue : ∀ s rest, inv s ∧ Q s → inv { s with pending := rest } ∧ Q { s with pending := rest }) :
    KeptUnder inv Q := fun s t hinv hq hstep => (h.keptByStep hqueue s t ⟨hinv, hq⟩ hstep).2

/-- A law of the single segment that the moves of a controller keep, at every segment. -/
theorem forall_segs_of_moves {p : Segment → Prop} (hp : ∀ g u, SegMove g u → p g → p u) (h : SegsBy SegMoves s t)
    (hs : ∀ e ∈ s.segs, p e.2) : ∀ e ∈ t.segs, p e.2 := by
  refine h.forall_keeps (fun g u hmoves hg => ?_) hs
  induction hmoves with
  | refl => exact hg
  | tail _ hmove ih => exact hp _ _ hmove ih

/-- A law of the single luminaire that the moves keep, at every luminaire. -/
theorem forall_lums_of_moves {p : Luminaire → Prop} (hp : ∀ l m, LumMove l m → p l → p m) (h : LumsBy LumMoves s t)
    (hs : ∀ e ∈ s.lums, p e.2) : ∀ e ∈ t.lums, p e.2 := by
  refine h.forall_keeps (fun l m hmoves hl => ?_) hs
  induction hmoves with
  | refl => exact hl
  | tail _ hmove ih => exact hp _ _ hmove ih

end Kept

end Sys2Proof.Machine
end

section
/-! SUPPORT. ATTN and the tables (R169, R2), and the answer to every command. -/

namespace Sys2Proof.Machine

section Tables

variable {s t : State}

theorem tabWf_nil {α : Type} (n : Nat) : tabWf n ([] : Tab α) := ⟨.nil, nofun⟩

theorem tablesOk_of_lumsOnly (h : LumsOnly s t) (hlums : tabWf 128 t.lums) (hs : TablesOk s) : TablesOk t := by
  obtain ⟨hsegs, _, hinputs, _⟩ := h.records
  exact ⟨hlums, by rw [hsegs]; exact hs.2.1, by rw [hinputs]; exact hs.2.2⟩

theorem tablesOk_of_segsOnly (h : SegsOnly s t) (hsegs : tabWf 32 t.segs) (hs : TablesOk s) : TablesOk t := by
  obtain ⟨⟨hlums, _⟩, ⟨hinputs, _⟩, _⟩ := h.same
  exact ⟨by rw [hlums]; exact hs.1, hsegs, by rw [hinputs]; exact hs.2.2⟩

theorem raiseOnce_segsOnly (i : Nat) (s : State) : SegsOnly s (raiseOnce i s) := by
  refine onSeg_rel (R := SegsOnly) (.refl s) fun g _ => ?_
  split
  · exact putSeg_segsOnly i _ s
  · exact .refl s

/-- R2: the records made from those that stood keep the form of the table. -/
theorem SegsChange.tabWf (h : SegsChange s t) (hs : tabWf 32 s.segs) : tabWf 32 t.segs := by
  cases h with
  | moves h => exact h.keepsTabWf hs
  | defined body i hid hnone hrow henums hrefs heq =>
    rw [heq]
    exact (defineSeg_settings i _ s).keepsTabWf (tabWf_put hs (by omega))
  | amended body i g clear hg henums hrefs hlinked heq =>
    rw [heq]
    exact (amendSeg_settings i g _ clear s).keepsTabWf (tabWf_put hs (hs.2 _ (mem_of_tabGet hg)))
  | retired i href heq =>
    rw [heq]
    exact tabWf_del ((retireRecords_by _ true s).keepsTabWf hs) i

theorem LumsChange.tabWf (h : LumsChange s t) (hs : tabWf 128 s.lums) : tabWf 128 t.lums := by
  cases h with
  | sends h => exact h.keepsTabWf hs
  | enrolled f k hkey hnone heq =>
    rw [heq]
    exact tabWf_put hs hkey
  | amended f k l place hl hplace hfree _ h => exact h.keepsTabWf (tabWf_put hs (hs.2 _ (mem_of_tabGet hl)))
  | retired k heq =>
    rw [heq]
    exact tabWf_del hs k

/-- What the retirement of an input leaves of the inputs. -/
theorem retireInput_inputs (a : Nat) (n : Input) (s : State) : (retireInput a n s).inputs = tabDel s.inputs a := by
  unfold retireInput
  dsimp only
  split
  · rfl
  · exact (forEach_reResolve_segsOnly true _ _).same.2.1.1
  · exact (retireRecords_listOnly _ _ _).same.2.2.1

theorem goDownInput_inputs (s : State) : (goDownInput s).inputs = tabMap s.inputs inputDown := by
  unfold goDownInput
  dsimp only
  rw [(forEach_reResolve_segsOnly false _ _).same.2.1.1]
  cases s.inputLine.spotRequest <;> rfl

theorem InputAct.tabWf (h : InputAct s t) (hs : tabWf 48 s.inputs) : tabWf 48 t.inputs := by
  cases h with
  | put hn => exact tabWf_put hs (hs.2 _ (mem_of_tabGet hn))
  | enrolled body a k d clamped interval missLimit haddr => exact tabWf_put hs (by omega)
  | amended body a n d clamped interval missLimit hn =>
    rw [amendInputRecord, (forEach_reResolve_segsOnly true _ _).same.2.1.1]
    exact tabWf_put hs (hs.2 _ (mem_of_tabGet hn))
  | retired a n =>
    rw [retireInput_inputs]
    exact tabWf_del hs a
  | lost a link misses =>
    unfold dropLink
    refine onInput_rel (R := fun s t => Machine.tabWf 48 s.inputs → Machine.tabWf 48 t.inputs) id (fun n hn hs => ?_) hs
    have hput (new : Input) : Machine.tabWf 48 (putInput a new s).inputs := tabWf_put hs (hs.2 _ (mem_of_tabGet hn))
    dsimp only
    split
    · rw [(forEach_reResolve_segsOnly false _ _).same.2.1.1]
      exact hput _
    · exact hput _
  | lineDown =>
    rw [goDownInput_inputs]
    exact tabWf_map hs _
  | lineUp => exact tabWf_map hs _
  | _ => exact hs

theorem RecordAct.tablesOk (h : RecordAct s t) (hs : TablesOk s) : TablesOk t := by
  obtain ⟨hlums, hsegs, hinputs⟩ := hs
  refine ⟨h.recordsOnly.fixtures.1 ▸ hlums, h.segsChange.tabWf hsegs, ?_⟩
  cases h with
  | seg h => exact h.segsOnly.same.2.1.1 ▸ hinputs
  | list h => exact h.listOnly.same.2.2.1 ▸ hinputs
  | input h => exact h.tabWf hinputs

theorem tablesOk_tallied (hs : TablesOk s) : TablesOk (addTallies s) := by
  obtain ⟨hlums, ⟨hrising, hbelow⟩, hinputs⟩ := hs
  refine ⟨hlums, ⟨?_, fun e he => ?_⟩, hinputs⟩
  · simpa [addTallies, List.pairwise_map] using hrising
  · obtain ⟨a, ha, rfl⟩ := List.mem_map.mp he
    exact hbelow a ha

theorem tablesOk_keptByParts : KeptByParts TablesOk where
  record h hs := h.tablesOk hs
  recompose k _ hs := tablesOk_of_lumsOnly (recomposeLum_lumsOnly k _) ((recomposeLum_by k _).keepsTabWf hs.1) hs
  fixture h hs := tablesOk_of_lumsOnly h.lumsOnly (h.lumsChange.tabWf hs.1) hs
  recapped _ _ _ _ hs := hs
  captured hs := hs
  ticked hs := ⟨hs.1, tabWf_map hs.2.1 _, tabWf_map hs.2.2 _⟩
  tallied hs := tablesOk_tallied hs
  holdsTaken hs := hs
  drew _ hs := hs
  portSet _ hs := hs
  warmBlocks hs := ⟨tabWf_map hs.1 _, tabWf_map hs.2.1 _, tabWf_map hs.2.2 _⟩
  raiseOnce i _ hs := tablesOk_of_segsOnly (raiseOnce_segsOnly i _) ((raiseOnce_by i _).keepsTabWf hs.2.1) hs
  composeAll hs := ⟨(composeAll_by _).keepsTabWf hs.1, hs.2⟩
  refresh i s _ hs :=
    tablesOk_of_lumsOnly (fullRefresh_lumsOnly i s) (by rw [fullRefresh_lums]; exact hs.1) hs
  coldReset _ _ := ⟨tabWf_nil _, tabWf_nil _, tabWf_nil _⟩

/-- R169: every command ends with ATTN following the flags. -/
theorem attnOk_of_exec {c : Instr} (h : exec c s = .next t) : AttnOk t := by
  obtain ⟨u, _, hdone⟩ := exec_acts c s
  rw [hdone, done_next] at h
  rw [h]
  rfl

/-- Settles O10, by the end of every command and by the acts that keep the tables. -/
theorem attnAndTablesKept : Obligations.AttnAndTablesKept := by
  rintro s t ⟨hattn, htables⟩ hstep
  refine ⟨?_, tablesOk_keptByParts.keptByStep (fun _ _ h => h) s t htables hstep⟩
  unfold step at hstep
  split at hstep
  · cases hstep
    exact hattn
  · exact attnOk_of_exec hstep

/-! ## The answer to every command -/

/-- Log 1: no act touches the queue. -/
theorem Act.pending (h : Act s t) : t.pending = s.pending := by
  cases h with
  | @event f hf =>
    obtain ⟨⟨_, _, _, _, _, _, hpending⟩, _⟩ := event_same f s
    exact hpending.trans (recordActs_recordsOnly hf).pending
  | quiet h => exact h.recordsOnly.pending
  | fixture h => exact h.lumsOnly.rest.2.2.1
  | recapped c => exact (recomputeAllCaps_eventOnly _).same.2.1.2.2.2
  | warmReset =>
    have hrefresh (i : LineId) (u : State) : (warmRefresh i u).pending = u.pending := by
      unfold warmRefresh
      split
      · exact (fullRefresh_lumsOnly i u).rest.2.2.1
      · rfl
    have hraise (row : Nat) (u : State) : (raiseRow row u).pending = u.pending :=
      forEach_keeps (P := fun v => v.pending = u.pending)
        (fun i _ v hv => (raiseOnce_segsOnly i v).recordsOnly.pending.trans hv) rfl
    rw [Machine.warmReset, hrefresh, hrefresh]
    exact (hraise 4 _).trans ((hraise 3 _).trans (hraise 2 _))
  | _ => rfl

theorem acts_pending (h : Acts s t) : t.pending = s.pending :=
  acts_keep (P := fun u => u.pending = s.pending) (fun _ _ ha hu => ha.pending.trans hu) h rfl

/-- Settles O4, by the acts that every command is made of. -/
theorem everyCommandAnswers : Obligations.EveryCommandAnswers := by
  intro s c
  obtain ⟨u, hacts, hdone⟩ := exec_acts c s
  exact ⟨withAttn u, hdone.trans (done_eq u), acts_pending (s := s) (t := u) hacts⟩

/-- Settles O1. -/
theorem stepRunsFrontCommand : Obligations.StepRunsFrontCommand := by
  intro s c rest
  constructor <;> intro h <;> simp only [step, h]

end Tables

end Sys2Proof.Machine
end

section
/-! SUPPORT. How the acts change the inputs, and the law of the configuration (R3, R6, R7, R12, R17, R18). -/

namespace Sys2Proof.Machine

/-! ## The inputs under each act -/

/-- Moves of an input, one after the other. -/
abbrev InputMoves : Input → Input → Prop := Relation.ReflTransGen InputMove

section Inputs

variable {s t : State} {a : Nat} {n new : Input}

theorem inputsBy_of_inputs (h : t.inputs = s.inputs) : InputsBy InputMoves s t := TabBy.of_eq (fun _ => .refl) h

theorem InputsBy.trans_inputs {u : State} (h : InputsBy InputMoves s t) (k : u.inputs = t.inputs) :
    InputsBy InputMoves s u := TabBy.trans .trans h (inputsBy_of_inputs k)

theorem inputsBy_putInput (hn : input? s a = some n) (h : InputMove n new) : InputsBy InputMoves s (putInput a new s) :=
  tabBy_put (fun _ => .refl) hn (.single h)

theorem forEach_reResolve_inputs (byRequest : Bool) (ks : List Nat) (s : State) :
    (forEach ks (reResolve byRequest) s).inputs = s.inputs := (forEach_reResolve_segsOnly byRequest ks s).same.2.1.1

/-- R158: what the loss of a link leaves of the inputs. -/
theorem dropLink_inputsBy (a : Nat) (link : InputLink) (misses : Nat) (s : State) (hlink : link ≠ .reporting) :
    InputsBy InputMoves s (dropLink a link misses s) := by
  refine onInput_rel (R := InputsBy InputMoves) (inputsBy_of_inputs rfl) fun n hn => ?_
  have hlost := inputsBy_putInput hn (.lost n link misses (n.changed || (n.link != link)) hlink)
  dsimp only
  simp only [beq_iff_eq]
  split
  · rename_i hreporting
    rw [if_pos hreporting] at hlost
    exact InputsBy.trans_inputs hlost (forEach_reResolve_inputs false _ _)
  · rename_i hreporting
    rw [if_neg hreporting] at hlost
    exact hlost

/-- What an input act makes of the inputs. -/
inductive InputsChange (s t : State) : Prop
  | moves (h : InputsBy InputMoves s t)
  | enrolled (body : List Byte) (a : Nat) (k : InputKind) (d : Device) (clamped : Bool) (interval missLimit : Option Nat)
      (haddr : a ≤ 47) (hnone : input? s a = none) (hcomplete : enrolComplete k body = true)
      (hdevice : takeDevice s body (freshDevice k) = some (d, clamped))
      (heq : t = putInput a (enrolledInput k d interval missLimit) s)
  | amended (body : List Byte) (a : Nat) (n : Input) (d : Device) (clamped : Bool) (interval missLimit : Option Nat)
      (hn : input? s a = some n) (hdevice : takeDevice s body n.device = some (d, clamped))
      (heq : t.inputs = tabPut s.inputs a (amendedInput n d interval missLimit))
  | retired (a : Nat) (n : Input) (hn : input? s a = some n)
      (hfree : deviceKind n.device = .photo → namedAsSensor s a = false) (heq : t.inputs = tabDel s.inputs a)

theorem InputAct.inputsChange (h : InputAct s t) : InputsChange s t := by
  cases h with
  | put hn hmove => exact .moves (inputsBy_putInput hn hmove)
  | enrolled body a k d clamped interval missLimit haddr hnone hcomplete hdevice =>
    exact .enrolled body a k d clamped interval missLimit haddr hnone hcomplete hdevice rfl
  | amended body a n d clamped interval missLimit hn hdevice =>
    exact .amended body a n d clamped interval missLimit hn hdevice (forEach_reResolve_inputs true _ _)
  | retired a n hn hfree => exact .retired a n hn hfree (retireInput_inputs a n s)
  | lost a link misses hlink => exact .moves (dropLink_inputsBy a link misses s hlink)
  | lineDown =>
    refine .moves (TabBy.trans .trans (tabBy_map (f := inputDown) (fun n => ?_) s.inputs)
      (.of_eq (fun _ => .refl) (goDownInput_inputs s)))
    exact .single (.lost n .absent 0 n.changed nofun)
  | lineUp => exact .moves (tabBy_map (fun n => .single (.polled n)) s.inputs)
  | _ => exact .moves (inputsBy_of_inputs rfl)

theorem RecordAct.inputsChange (h : RecordAct s t) : InputsChange s t := by
  cases h with
  | seg h => exact .moves (inputsBy_of_inputs h.segsOnly.same.2.1.1)
  | list h => exact .moves (inputsBy_of_inputs h.listOnly.same.2.2.1)
  | input h => exact h.inputsChange

/-- A law of the single input that the moves keep, at every input. -/
theorem forall_inputs_of_moves {p : Input → Prop} (hp : ∀ n m, InputMove n m → p n → p m) (h : InputsBy InputMoves s t)
    (hs : ∀ e ∈ s.inputs, p e.2) : ∀ e ∈ t.inputs, p e.2 := by
  refine h.forall_keeps (fun n m hmoves hn => ?_) hs
  induction hmoves with
  | refl => exact hn
  | tail _ hmove ih => exact hp _ _ hmove ih

/-- A law of the single input: the moves and the amendments keep it, and an input enrolled meets it. -/
theorem forall_inputs_of_record {p : Input → Prop} (hp : ∀ n m, InputMove n m → p n → p m)
    (henrol : ∀ (body : List Byte) (k : InputKind) (d : Device) (clamped : Bool) (interval missLimit : Option Nat),
      enrolComplete k body = true → takeDevice s body (freshDevice k) = some (d, clamped) →
      p (enrolledInput k d interval missLimit))
    (hamend : ∀ (body : List Byte) (n : Input) (d : Device) (clamped : Bool) (interval missLimit : Option Nat),
      takeDevice s body n.device = some (d, clamped) → p n → p (amendedInput n d interval missLimit))
    (h : RecordAct s t) (hs : ∀ e ∈ s.inputs, p e.2) : ∀ e ∈ t.inputs, p e.2 := by
  cases h.inputsChange with
  | moves h => exact forall_inputs_of_moves hp h hs
  | enrolled body a k d clamped interval missLimit haddr hnone hcomplete hdevice heq =>
    rw [heq]
    exact tabPut_forall hs (henrol body k d clamped interval missLimit hcomplete hdevice)
  | amended body a n d clamped interval missLimit hn hdevice heq =>
    rw [heq]
    exact tabPut_forall hs (hamend body n d clamped interval missLimit hdevice (hs _ (mem_of_tabGet hn)))
  | retired a n hn hfree heq =>
    rw [heq]
    exact fun e he => hs e (mem_tabDel he)

end Inputs

/-! ## Numeric settings taken (R3) -/

theorem clampTo_bounds {lo hi : Nat} (h : lo ≤ hi) (v : Nat) : lo ≤ clampTo lo hi v ∧ clampTo lo hi v ≤ hi := by
  unfold clampTo
  omega

/-- A setting taken stays in its range. -/
theorem takeNum_bounds {lo hi held : Nat} (hlo : lo ≤ held) (hhi : held ≤ hi) (v : Option Nat) :
    lo ≤ (takeNum lo hi held v).1 ∧ (takeNum lo hi held v).1 ≤ hi := by
  cases v with
  | none => exact ⟨hlo, hhi⟩
  | some v => exact clampTo_bounds (hlo.trans hhi) v

theorem takeNum_le {hi held : Nat} (hhi : held ≤ hi) (v : Option Nat) : (takeNum 0 hi held v).1 ≤ hi :=
  (takeNum_bounds (Nat.zero_le _) hhi v).2

/-- An upper setting taken stays between the lower one and its limit. -/
theorem takeAbove_bounds {lower hi held : Nat} (hlower : lower ≤ hi) (hhi : held ≤ hi) (v : Option Nat) :
    lower ≤ (takeAbove lower hi held v).1 ∧ (takeAbove lower hi held v).1 ≤ hi := by
  cases v with
  | none => simp only [takeAbove]; omega
  | some v => exact clampTo_bounds hlower v

/-- R7: the settings of a luminaire request. -/
theorem takeLumNumbers_configOk {f : LumFields} {l : Luminaire} (h : lumConfigOk l) :
    lumConfigOk (takeLumNumbers f l).1 := by
  obtain ⟨htrim, htrim', hmin, hmin', _, hmax⟩ := h
  have hlo := takeNum_bounds hmin hmin' f.minLevel
  have htrims := takeNum_bounds htrim htrim' f.trim
  have hhi := takeAbove_bounds (hlo.2.trans (by decide)) hmax f.maxLevel
  exact ⟨htrims.1, htrims.2, hlo.1, hlo.2, hhi.1, hhi.2⟩

/-- R12: the settings of a segment request, the structural fields being fit. -/
theorem takeSegNumbers_configOk {body : List Byte} {c : SegConfig} (h : segConfigOk c) :
    segConfigOk (takeSegNumbers body c).1 := by
  obtain ⟨hrow, hrow', hmanual, htarget, htolerance, hrelight, hup, hup', hdown, hdown', hupInt, hupInt', hdownInt,
    hdownInt', hcut, hoff, hoff', _, hstrike, hfallback, hsensorless, hsensorless', hshort, hshort', hcap, hhold, hhold',
    hsetback, hsetback', hlevel⟩ := h
  have hcut' := takeNum_le hcut (segField body 13)
  have hstrikes := takeAbove_bounds (hcut'.trans (by decide)) hstrike (segField body 15)
  have hups := takeNum_bounds hup hup' (segField body 9)
  have hdowns := takeNum_bounds hdown hdown' (segField body 10)
  have hupInts := takeNum_bounds hupInt hupInt' (segField body 11)
  have hdownInts := takeNum_bounds hdownInt hdownInt' (segField body 12)
  have hoffs := takeNum_bounds hoff hoff' (segField body 14)
  have hsensorlesses := takeNum_bounds hsensorless hsensorless' (segField body 17)
  have hshorts := takeNum_bounds hshort hshort' (segField body 18)
  have hholds := takeNum_bounds hhold hhold' (segField body 21)
  have hsetbacks := takeNum_bounds hsetback hsetback' (segField body 22)
  exact ⟨hrow, hrow', takeNum_le hmanual _, takeNum_le htarget _, takeNum_le htolerance _, takeNum_le hrelight _,
    hups.1, hups.2, hdowns.1, hdowns.2, hupInts.1, hupInts.2, hdownInts.1, hdownInts.2, hcut', hoffs.1, hoffs.2,
    hstrikes.1, hstrikes.2, takeNum_le hfallback _, hsensorlesses.1, hsensorlesses.2, hshorts.1, hshorts.2,
    takeNum_le hcap _, hholds.1, hholds.2, hsetbacks.1, hsetbacks.2, takeNum_le hlevel _⟩

/-- R12: a structural field touches no numeric setting, and leaves the row one of the four. -/
theorem takeSegStructure_configOk {body : List Byte} {c : SegConfig} (henums : segEnumsOk body = true)
    (h : segConfigOk c) : segConfigOk (takeSegStructure body c) := by
  obtain ⟨hpos, hle⟩ := takeSegStructure_row (c := c) henums fun _ => ⟨h.1, h.2.1⟩
  exact ⟨hpos, hle, h.2.2⟩

theorem segDefaults_configOk : segConfigOk segDefaults := by decide

/-- R17, R18: the kind fields of an input request. -/
theorem takeDevice_configOk {s : State} {body : List Byte} {d d' : Device} {clamped : Bool}
    (h : takeDevice s body d = some (d', clamped))
    (hd : deviceConfigOk d = true ∨ (inputMask body).testBit 2 = true ∧ ∃ k, d = freshDevice k) :
    deviceConfigOk d' = true := by
  cases d with
  | photo c m =>
    have hd : deviceConfigOk (.photo c m) = true := hd.elim id fun ⟨_, k, hk⟩ => by cases k <;> cases hk; decide
    simp only [deviceConfigOk, Bool.and_eq_true, decide_eq_true_eq] at hd
    obtain ⟨⟨⟨⟨⟨hshift, htol⟩, htol'⟩, hspike⟩, hratio⟩, hratio'⟩ := hd
    simp only [takeDevice, Option.some.injEq, Prod.mk.injEq] at h
    obtain ⟨rfl, _⟩ := h
    have htols := takeNum_bounds htol htol' (carriedAt (inputMask body) 3 (word2At body 6))
    have hratios := takeNum_bounds hratio hratio' (carriedAt (inputMask body) 5 (word2At body 10))
    simp only [deviceConfigOk, Bool.and_eq_true, decide_eq_true_eq]
    exact ⟨⟨⟨⟨⟨takeNum_le hshift _, htols.1⟩, htols.2⟩, takeNum_le hspike _⟩, hratios.1⟩, hratios.2⟩
  | presence coverage last =>
    unfold takeDevice at h
    dsimp only at h
    split at h
    · obtain ⟨ids, hids, heq⟩ := Option.map_eq_some_iff.mp h
      cases heq
      unfold coverageIn at hids
      dsimp only at hids
      split at hids
      · rename_i hfit
        obtain ⟨hone, hfour, hnodup, _⟩ := hfit
        cases hids
        simp only [deviceConfigOk, Bool.and_eq_true, decide_eq_true_eq, List.length_take, List.length_map,
          List.length_range]
        exact ⟨⟨by omega, by omega⟩, hnodup⟩
      · cases hids
    · rename_i hmask
      cases h
      exact hd.resolve_right fun hfresh => hmask hfresh.1
  | station scope hold lastButton sequence =>
    have hd : deviceConfigOk (.station scope hold lastButton sequence) = true :=
      hd.elim id fun ⟨_, k, hk⟩ => by cases k <;> cases hk; decide
    simp only [deviceConfigOk, Bool.and_eq_true, decide_eq_true_eq] at hd
    obtain ⟨⟨⟨hfirst, hlast⟩, hhold⟩, hhold'⟩ := hd
    have hholds := takeNum_bounds hhold hhold' (carriedAt (inputMask body) 3 (word2At body 8))
    unfold takeDevice at h
    dsimp only at h
    split at h
    · split at h
      · rename_i hscope
        cases h
        simp only [scopeOk, Bool.and_eq_true, decide_eq_true_eq] at hscope
        simp only [deviceConfigOk, Bool.and_eq_true, decide_eq_true_eq]
        exact ⟨⟨⟨hscope.1.2, hscope.2⟩, hholds.1⟩, hholds.2⟩
      · cases h
    · cases h
      simp only [deviceConfigOk, Bool.and_eq_true, decide_eq_true_eq]
      exact ⟨⟨⟨hfirst, hlast⟩, hholds.1⟩, hholds.2⟩

/-! ## The law of the configuration -/

section Config

variable {s t : State}

theorem lumConfigOk_of_composition {l m : Luminaire} (h : SameComposition l m) (hl : lumConfigOk l) : lumConfigOk m := by
  unfold lumConfigOk
  rw [h.trim, h.minLevel, h.maxLevel]
  exact hl

theorem LumMove.configOk {l m : Luminaire} (h : LumMove l m) (hl : lumConfigOk l) : lumConfigOk m := by
  cases h with
  | send h => exact lumConfigOk_of_composition h.composition hl
  | bared => exact hl
  | composed => exact hl

theorem deviceConfigOk_lost (d : Device) : deviceConfigOk (deviceLost d) = deviceConfigOk d := by cases d <;> rfl

theorem InputMove.configOk {n m : Input} (h : InputMove n m) (hn : inputConfigOk n) : inputConfigOk m := by
  obtain ⟨hlo, hhi, hmiss, hmiss', hdevice⟩ := hn
  cases h with
  | calibrated hd task =>
    refine ⟨hlo, hhi, hmiss, hmiss', ?_⟩
    have hratio := clampTo_bounds (lo := 1) (hi := 4095) (by decide)
    rw [hd] at hdevice
    simp only [deviceConfigOk, Bool.and_eq_true, decide_eq_true_eq] at hdevice ⊢
    exact ⟨⟨hdevice.1.1, (hratio _).1⟩, (hratio _).2⟩
  | lost _ link misses changed hlink =>
    refine ⟨hlo, hhi, hmiss, hmiss', ?_⟩
    dsimp only
    split
    · rw [deviceConfigOk_lost]
      exact hdevice
    · exact hdevice
  | ticked => exact ⟨hlo, hhi, hmiss, hmiss', by cases hd : n.device <;> simpa [tickInput, hd, deviceConfigOk] using hdevice⟩
  | warmed running =>
    exact ⟨hlo, hhi, hmiss, hmiss', by cases hd : n.device <;> simpa [warmInput, warmDevice, hd, deviceConfigOk] using hdevice⟩
  | reinstated hd => exact ⟨hlo, hhi, hmiss, hmiss', by rwa [hd] at hdevice⟩
  | released hd => exact ⟨hlo, hhi, hmiss, hmiss', by rwa [hd] at hdevice⟩
  | sampled hd => exact ⟨hlo, hhi, hmiss, hmiss', by rwa [hd] at hdevice⟩
  | reported hd => exact ⟨hlo, hhi, hmiss, hmiss', by rwa [hd] at hdevice⟩
  | sequenced hd => exact ⟨hlo, hhi, hmiss, hmiss', by rwa [hd] at hdevice⟩
  | pressed hd => exact ⟨hlo, hhi, hmiss, hmiss', by rwa [hd] at hdevice⟩
  | unflagged => exact ⟨hlo, hhi, hmiss, hmiss', hdevice⟩
  | polled => exact ⟨hlo, hhi, hmiss, hmiss', hdevice⟩
  | heard => exact ⟨hlo, hhi, hmiss, hmiss', hdevice⟩
  | missed => exact ⟨hlo, hhi, hmiss, hmiss', hdevice⟩

/-- The configurations of the segments stay in their ranges. -/
theorem forall_segConfigOk_of_settings (h : SegsBy SameSettings s t) (hs : ∀ e ∈ s.segs, segConfigOk e.2.cfg) :
    ∀ e ∈ t.segs, segConfigOk e.2.cfg :=
  h.forall_keeps (p := fun g => segConfigOk g.cfg) (fun _ _ hsame hg => by rw [hsame.1]; exact hg) hs

theorem SegsChange.configOk (h : SegsChange s t) (hs : ∀ e ∈ s.segs, segConfigOk e.2.cfg) :
    ∀ e ∈ t.segs, segConfigOk e.2.cfg := by
  cases h with
  | moves h => exact forall_segConfigOk_of_settings (SegsBy.settings h) hs
  | defined body i hid hnone hrow henums hrefs heq =>
    rw [heq]
    exact forall_segConfigOk_of_settings (defineSeg_settings i _ s)
      (tabPut_forall hs (takeSegNumbers_configOk (takeSegStructure_configOk henums segDefaults_configOk)))
  | amended body i g clear hg henums hrefs hlinked heq =>
    rw [heq]
    exact forall_segConfigOk_of_settings (amendSeg_settings i g _ clear s)
      (tabPut_forall hs (takeSegNumbers_configOk (takeSegStructure_configOk henums (hs _ (mem_of_tabGet hg)))))
  | retired i href heq =>
    rw [heq]
    exact fun e he => forall_segConfigOk_of_settings (SegsBy.settings (retireRecords_by _ true s).moves) hs e (mem_tabDel he)

theorem LumsChange.configOk (h : LumsChange s t) (hs : ∀ e ∈ s.lums, lumConfigOk e.2) : ∀ e ∈ t.lums, lumConfigOk e.2 := by
  cases h with
  | sends h => exact forall_lums_of_moves (fun _ _ => LumMove.configOk) h.moves hs
  | enrolled f k hkey hnone heq =>
    rw [heq]
    exact tabPut_forall hs (takeLumNumbers_configOk (by decide))
  | amended f k l place hl hplace hfree _ h =>
    refine forall_lums_of_moves (fun _ _ => LumMove.configOk) h (tabPut_forall hs ?_)
    exact takeLumNumbers_configOk (l := { l with place := place }) (hs _ (mem_of_tabGet hl))
  | retired k heq =>
    rw [heq]
    exact fun e he => hs e (mem_tabDel he)

theorem enrolled_configOk {body : List Byte} {k : InputKind} {d : Device} {clamped : Bool} (interval missLimit : Option Nat)
    (hcomplete : enrolComplete k body = true) (hdevice : takeDevice s body (freshDevice k) = some (d, clamped)) :
    inputConfigOk (enrolledInput k d interval missLimit) := by
  have hinterval : 2 ≤ defaultInterval k ∧ defaultInterval k ≤ 50 := by cases k <;> decide
  have hintervals := takeNum_bounds hinterval.1 hinterval.2 interval
  have hmisses := takeNum_bounds (lo := 1) (hi := 15) (held := 3) (by decide) (by decide) missLimit
  refine ⟨hintervals.1, hintervals.2, hmisses.1, hmisses.2, takeDevice_configOk hdevice ?_⟩
  cases k with
  | photo => exact .inl (by decide)
  | presence => exact .inr ⟨hcomplete, .presence, rfl⟩
  | station => exact .inr ⟨hcomplete, .station, rfl⟩

theorem amended_configOk {body : List Byte} {n : Input} {d : Device} {clamped : Bool} (interval missLimit : Option Nat)
    (hdevice : takeDevice s body n.device = some (d, clamped)) (hn : inputConfigOk n) :
    inputConfigOk (amendedInput n d interval missLimit) := by
  obtain ⟨hlo, hhi, hmiss, hmiss', hconfig⟩ := hn
  have hintervals := takeNum_bounds hlo hhi interval
  have hmisses := takeNum_bounds hmiss hmiss' missLimit
  exact ⟨hintervals.1, hintervals.2, hmisses.1, hmisses.2, takeDevice_configOk hdevice (.inl hconfig)⟩

theorem configOk_of_lumsOnly (h : LumsOnly s t) (hlums : ∀ e ∈ t.lums, lumConfigOk e.2) (hs : ConfigOk s) :
    ConfigOk t := by
  obtain ⟨hsegs, _, hinputs, _⟩ := h.records
  exact ⟨hlums, by rw [hsegs]; exact hs.2.1, by rw [hinputs]; exact hs.2.2⟩

theorem RecordAct.configOk (h : RecordAct s t) (hs : ConfigOk s) : ConfigOk t := by
  obtain ⟨hlums, hsegs, hinputs⟩ := hs
  refine ⟨h.recordsOnly.fixtures.1 ▸ hlums, h.segsChange.configOk hsegs, ?_⟩
  exact forall_inputs_of_record (fun _ _ => InputMove.configOk)
    (fun _ _ _ _ interval missLimit => enrolled_configOk interval missLimit)
    (fun _ _ _ _ interval missLimit => amended_configOk interval missLimit) h hinputs

theorem forall_tabMap {α : Type} {p : α → Prop} {f : α → α} {a : Tab α} (h : ∀ v, p v → p (f v))
    (ha : ∀ e ∈ a, p e.2) : ∀ e ∈ tabMap a f, p e.2 := by
  intro e he
  obtain ⟨x, hx, rfl⟩ := List.mem_map.mp he
  exact h _ (ha x hx)

theorem warmBlocks_configOk (hs : ConfigOk s) : ConfigOk (warmBlocks s) := by
  obtain ⟨hlums, hsegs, hinputs⟩ := hs
  exact ⟨forall_tabMap (p := lumConfigOk) (fun _ => (LumMove.send .warmed).configOk) hlums,
    forall_tabMap (p := fun g : Segment => segConfigOk g.cfg) (fun g h => (warmSeg_cfg _ g).symm ▸ h) hsegs,
    forall_tabMap (p := inputConfigOk) (fun n => (InputMove.warmed _ n).configOk) hinputs⟩

theorem tickAll_configOk (hs : ConfigOk s) : ConfigOk (tickAll s) := by
  obtain ⟨hlums, hsegs, hinputs⟩ := hs
  exact ⟨hlums, forall_tabMap (p := fun g : Segment => segConfigOk g.cfg) (fun _ h => h) hsegs,
    forall_tabMap (p := inputConfigOk) (fun n => (InputMove.ticked n).configOk) hinputs⟩

theorem configOk_keptByParts : KeptByParts ConfigOk where
  record h hs := h.configOk hs
  recompose k s hs :=
    configOk_of_lumsOnly (recomposeLum_lumsOnly k s)
      (forall_lums_of_moves (fun _ _ => LumMove.configOk) (recomposeLum_by k s) hs.1) hs
  fixture h hs := configOk_of_lumsOnly h.lumsOnly (h.lumsChange.configOk hs.1) hs
  recapped _ _ _ _ hs := hs
  captured hs := hs
  ticked hs := tickAll_configOk hs
  tallied hs := ⟨hs.1, fun e he => by obtain ⟨a, ha, rfl⟩ := List.mem_map.mp he; exact hs.2.1 a ha, hs.2.2⟩
  holdsTaken hs := hs
  drew _ hs := hs
  portSet _ hs := hs
  warmBlocks hs := warmBlocks_configOk hs
  raiseOnce i s hs := by
    have hsegs := forall_segConfigOk_of_settings (raiseOnce_by i s).live.moves.settings hs.2.1
    obtain ⟨⟨hlums, _⟩, ⟨hinputs, _⟩, _⟩ := (raiseOnce_segsOnly i s).same
    exact ⟨by rw [hlums]; exact hs.1, hsegs, by rw [hinputs]; exact hs.2.2⟩
  composeAll {s} hs := ⟨forall_lums_of_moves (fun _ _ => LumMove.configOk) (composeAll_by s) hs.1, hs.2⟩
  refresh i s _ hs := configOk_of_lumsOnly (fullRefresh_lumsOnly i s) (by rw [fullRefresh_lums]; exact hs.1) hs
  coldReset _ _ := ⟨List.forall_mem_nil _, List.forall_mem_nil _, List.forall_mem_nil _⟩

/-- Settles O11, by the moves of the records of the three tables. -/
theorem configurationStaysInRange : Obligations.ConfigurationStaysInRange :=
  configOk_keptByParts.keptByStep fun _ _ h => h

end Config

end Sys2Proof.Machine
end

section
/-! SUPPORT. The laws right after a reset (R23, R120, R133, R149, R163, R171): the tables, the list and the lines are empty. -/

namespace Sys2Proof.Machine

section Cold

variable (low : Bool) (s : State)

theorem attnOk_cold : AttnOk (coldState low s) := rfl

theorem tablesOk_cold : TablesOk (coldState low s) := ⟨tabWf_nil _, tabWf_nil _, tabWf_nil _⟩

theorem configOk_cold : ConfigOk (coldState low s) :=
  ⟨List.forall_mem_nil _, List.forall_mem_nil _, List.forall_mem_nil _⟩

theorem refsOk_cold : RefsOk (coldState low s) :=
  ⟨List.forall_mem_nil _, .nil, List.forall_mem_nil _, List.forall_mem_nil _, List.forall_mem_nil _⟩

theorem overridesOk_cold : OverridesOk (coldState low s) :=
  ⟨Nat.zero_le 24, .nil, .nil, .nil, List.forall_mem_nil _, le_refl 1, (by decide : 1 ≤ 65535)⟩

/-- R149: a line without entries meets its law. -/
theorem lineOk_empty {i : LineId} {l : FixtureLine} (hqueue : l.queue = []) (hconfirm : l.confirm = [])
    (hslot : l.slot = none) (hflight : l.flight = none) (t : State) : lineOk t i l := by
  simp [lineOk, hqueue, hconfirm, hslot, hflight]

theorem linesOk_cold : LinesOk (coldState low s) := ⟨lineOk_empty rfl rfl rfl rfl _, lineOk_empty rfl rfl rfl rfl _⟩

theorem awaitingOk_cold : AwaitingOk (coldState low s) := ⟨List.forall_mem_nil _, List.forall_mem_nil _⟩

theorem missesOk_cold : MissesOk (coldState low s) := List.forall_mem_nil _

theorem codesOk_cold : CodesOk (coldState low s) :=
  ⟨List.forall_mem_nil _, ⟨List.forall_mem_nil _, rfl⟩, ⟨List.forall_mem_nil _, rfl⟩⟩

theorem inputLineOk_cold : InputLineOk (coldState low s) := by
  refine ⟨.nil, List.forall_mem_nil _, ?_, rfl, fun h => ?_⟩
  · exact fun r h => absurd h (Option.not_mem_none r)
  · cases h

theorem reportsOk_cold : ReportsOk (coldState low s) := List.forall_mem_nil _

theorem harvestOk_cold : HarvestOk (coldState low s) := List.forall_mem_nil _

theorem depthOk_cold : DepthOk (coldState low s) := List.forall_mem_nil _

theorem vacantOk_cold : VacantOk (coldState low s) := List.forall_mem_nil _

theorem timersOk_cold : TimersOk (coldState low s) := List.forall_mem_nil _

theorem watchedOk_cold : WatchedOk (coldState low s) := List.forall_mem_nil _

theorem heldOk_cold : HeldOk (coldState low s) := List.forall_mem_nil _

theorem capsOk_cold : CapsOk (coldState low s) := List.forall_mem_nil _

theorem measurementsOk_cold : MeasurementsOk (coldState low s) := List.forall_mem_nil _

theorem countersOk_cold : CountersOk (coldState low s) := by
  refine ⟨(by decide : 0 < 600), le_refl 1000, Nat.zero_le 255, List.length_replicate, fun n h => ?_, List.forall_mem_nil _⟩
  rw [List.eq_of_mem_replicate h]
  exact Nat.zero_le _

theorem currentOk_cold : CurrentOk (coldState low s) := List.forall_mem_nil _

theorem deliveryOk_cold : DeliveryOk (coldState low s) := List.forall_mem_nil _

/-- The state after a reset is that of a cold reset. -/
theorem reset_eq_cold : State.reset = coldState false State.reset := rfl

end Cold

/-- Settles O9, law by law. -/
theorem resetMeetsTheLaws : Obligations.ResetMeetsTheLaws := by
  unfold Obligations.ResetMeetsTheLaws
  rw [reset_eq_cold]
  exact ⟨⟨attnOk_cold _ _, tablesOk_cold _ _, configOk_cold _ _, refsOk_cold _ _, overridesOk_cold _ _, linesOk_cold _ _,
      awaitingOk_cold _ _, missesOk_cold _ _, codesOk_cold _ _⟩,
    ⟨inputLineOk_cold _ _, reportsOk_cold _ _, harvestOk_cold _ _, depthOk_cold _ _, vacantOk_cold _ _, timersOk_cold _ _,
      watchedOk_cold _ _, heldOk_cold _ _⟩,
    capsOk_cold _ _, measurementsOk_cold _ _, countersOk_cold _ _, currentOk_cold _ _, deliveryOk_cold _ _⟩

/-- Settles O44. -/
theorem coldResetStartsAfresh : Obligations.ColdResetStartsAfresh := by
  intro s low
  exact ⟨withAttn (coldState low s), (exec_coldReset low s).trans (done_eq _), rfl⟩

end Sys2Proof.Machine
end

section
/-! SUPPORT. What the acts make of the override list (chapter 6), as functions of the list alone. -/

namespace Sys2Proof.Machine

/-- R118: a list without the records that satisfy `p`. -/
def listWithout (p : Override → Bool) (flag : Bool) (l : OverrideList) : OverrideList :=
  { l with
    records := l.records.filter fun o => !p o
    changed := l.changed || (flag && l.records.any p) }

/-- R107, R117: a list with room for a record, where it has an OCCUPANT record or is not full. -/
def roomyList (l : OverrideList) : OverrideList :=
  if l.records.length < Config.overrideRoom then l
  else
    match lastOccupant l.records with
    | some d => listWithout (fun o => o.handle == d.handle) true l
    | none => l

/-- R104, R107: a list with a new record at the front of its class. -/
def listWithNew (origin : Origin) (cls : OvClass) (scope : Scope) (action : OvAction) (hold : Option Nat)
    (l : OverrideList) : OverrideList :=
  { l with
    records := insertFront ⟨freeHandle l.records 25 l.counter, origin, cls, scope, action, hold⟩ l.records
    counter := handleAfter (freeHandle l.records 25 l.counter) }

/-- R106, R113: a list with a record refreshed. -/
def listRefreshed (r : Override) (cls : OvClass) (action : OvAction) (hold : Option Nat) (l : OverrideList) :
    OverrideList :=
  { l with
    records := insertFront { r with cls := cls, action := action, hold := hold }
      (l.records.filter fun o => o.handle != r.handle) }

/-- R106, R107, R117: a list with a record placed for an origin and a scope. -/
def listPlaced (origin : Origin) (cls : OvClass) (scope : Scope) (action : OvAction) (hold : Option Nat)
    (l : OverrideList) : OverrideList :=
  match findRecord origin scope l.records with
  | some r => listRefreshed r cls action hold l
  | none => listWithNew origin cls scope action hold (roomyList l)

/-- R111: a list whose holds are counted. -/
def listCounted (l : OverrideList) : OverrideList :=
  listWithout (fun o => o.hold == some 0) true
    { l with records := l.records.map fun o => { o with hold := o.hold.map (· - 1) } }

section ListOps

variable {s t : State} {i : Nat}

theorem retireRecords_list (p : Override → Bool) (flag : Bool) (s : State) :
    (retireRecords p flag s).overrides = listWithout p flag s.overrides := retireRecords_overrides p flag s

theorem makeRoom_list (s : State) : (makeRoom s).overrides = roomyList s.overrides := by
  unfold makeRoom roomyList
  split
  · rfl
  · cases lastOccupant s.overrides.records with
    | none => rfl
    | some d => exact retireRecords_list _ _ s

theorem placeRecord_list (origin : Origin) (cls : OvClass) (scope : Scope) (action : OvAction) (hold : Option Nat)
    (s : State) :
    (placeRecord origin cls scope action hold s).overrides = listPlaced origin cls scope action hold s.overrides := by
  unfold placeRecord listPlaced
  cases findRecord origin scope s.overrides.records with
  | some r => rfl
  | none =>
    dsimp only [createRecord]
    rw [recomputeHeld_overrides, makeRoom_list]
    rfl

theorem motion_list (byRequest : Bool) (i : Nat) (s : State) : (motion byRequest i s).overrides = s.overrides :=
  (motion_segsOnly byRequest i s).same.2.1.2.1

theorem placeFloor_list (cls : OvClass) (scope : Scope) (action : OvAction) (hold : Option Nat) (s : State) :
    (placeFloor cls scope action hold s).overrides = listPlaced .floor cls scope action hold s.overrides := by
  cases cls
  · exact placeRecord_list _ _ _ _ _ s
  · exact (placeRecord_list _ _ _ _ _ _).trans (by rw [motion_list])

theorem countHolds_list (s : State) : (countHolds s).overrides = listCounted s.overrides := retireRecords_list _ _ _

theorem setbackExpiry_list (i : Nat) (s : State) :
    (segExpiry i (·.setbackTimer) (goVacant i) s).overrides = s.overrides
      ∨ (segExpiry i (·.setbackTimer) (goVacant i) s).overrides
          = listWithout (fun o => o.scope.segment == i && !isFacility o) true s.overrides := by
  refine onSeg_rel (R := fun s t => t.overrides = s.overrides
    ∨ t.overrides = listWithout (fun o => o.scope.segment == i && !isFacility o) true s.overrides) (.inl rfl) fun g _ => ?_
  split
  · rw [goVacant, recomputeHeld_overrides, retireRecords_list]
    exact .inr rfl
  · exact .inl rfl

/-- R113: a button acts on what a segment permits, which its configuration says. -/
theorem pressAction_congr {g u : Segment} (h : u.cfg = g.cfg) (b : Button) (own : Option OvAction) :
    pressAction u b own = pressAction g b own := by
  cases b <;> simp only [pressAction, offAction, h]

/-- What the override list becomes. -/
inductive ListChange (s t : State) : Prop
  | same (h : t.overrides = s.overrides)
  | without (p : Override → Bool) (flag : Bool) (h : t.overrides = listWithout p flag s.overrides)
  | placed (cls : OvClass) (scope : Scope) (kind : Nat) (value : Int) (action : OvAction) (clamped : Bool) (hold : Nat)
      (hscope : scopeOk s scope = true) (haction : actionOf kind value = some (action, clamped))
      (hroom : findRecord .floor scope s.overrides.records = none → listRefuses s.overrides.records = false)
      (h : t.overrides = listPlaced .floor cls scope action (holdOf cls hold).1 s.overrides)
  | pressed (a : Nat) (n : Input) (scope : Scope) (hold : Nat) (lastButton : Option Button) (sequence : Option Nat)
      (b : Button) (g : Segment) (own : Option OvAction) (action : OvAction) (hn : input? s a = some n)
      (hdevice : n.device = .station scope hold lastButton sequence) (hg : (scope.segment, g) ∈ s.segs)
      (hown : own = (findRecord (.station a) scope s.overrides.records).map (·.action))
      (haction : pressAction g b own = some action)
      (hroom : findRecord (.station a) scope s.overrides.records = none → listRefuses s.overrides.records = false)
      (h : t.overrides = listPlaced (.station a) .occupant scope action (some hold) s.overrides)
  | counted (h : t.overrides = listCounted s.overrides)
  | unflagged (h : t.overrides = { s.overrides with changed := false })

theorem pressList_change {a : Nat} {n : Input} {scope : Scope} {hold : Nat} {lastButton : Option Button}
    {sequence : Option Nat} (b : Button) (hn : input? s a = some n)
    (hdevice : n.device = .station scope hold lastButton sequence) :
    ListChange s (pressList a scope hold b (motion false scope.segment s)) := by
  have hlist := motion_list false scope.segment s
  have hsegs := (motion_by false scope.segment s).moves.settings
  revert hlist hsegs
  generalize motion false scope.segment s = u
  intro hlist hsegs
  refine onSeg_rel (R := fun _ t => ListChange s t) (.same hlist) fun v hv => ?_
  obtain ⟨g, hg, hcfg, _⟩ := hsegs.records _ (mem_of_tabGet hv)
  dsimp only
  rw [pressAction_congr hcfg, hlist]
  split
  · exact .without _ true ((retireRecords_list _ true u).trans (by rw [hlist]))
  · rename_i action haction
    split
    · exact .same hlist
    · rename_i hroom
      refine .pressed a n scope hold lastButton sequence b g _ action hn hdevice hg rfl haction (fun hnone => ?_) ?_
      · simpa [hnone] using hroom
      · rw [placeRecord_list, hlist]

theorem ListAct.listChange (h : ListAct s t) : ListChange s t := by
  cases h with
  | wentVacant i =>
    rcases setbackExpiry_list i s with h | h
    · exact .same h
    · exact .without _ _ h
  | placed cls scope kind value action clamped hold hscope haction hroom =>
    exact .placed cls scope kind value action clamped hold hscope haction hroom (placeFloor_list cls scope action _ s)
  | pressed a n scope hold lastButton sequence b hn hdevice => exact pressList_change b hn hdevice
  | retired p flag => exact .without p flag (retireRecords_list p flag s)
  | retiredSeg i => exact .without _ true (retireRecords_list _ true s)
  | counted => exact .counted (countHolds_list s)
  | unflagged => exact .unflagged rfl

/-- R20: a retired station takes its records with it. -/
theorem retireInput_list (a : Nat) (n : Input) (s : State) :
    (retireInput a n s).overrides = s.overrides
      ∨ ∃ p, (retireInput a n s).overrides = listWithout p true s.overrides := by
  unfold retireInput
  dsimp only
  split
  · exact .inl rfl
  · exact .inl (forEach_reResolve_segsOnly true _ _).same.2.1.2.1
  · exact .inr ⟨_, retireRecords_list _ true _⟩

theorem goDownInput_list (s : State) : (goDownInput s).overrides = s.overrides := by
  unfold goDownInput
  dsimp only
  rw [(forEach_reResolve_segsOnly false _ _).same.2.1.2.1]
  cases s.inputLine.spotRequest <;> rfl

theorem dropLink_list (a : Nat) (link : InputLink) (misses : Nat) (s : State) :
    (dropLink a link misses s).overrides = s.overrides := by
  refine onInput_rel (R := fun s t => t.overrides = s.overrides) rfl fun n _ => ?_
  dsimp only
  split
  · exact (forEach_reResolve_segsOnly false _ _).same.2.1.2.1
  · rfl

theorem InputAct.list (h : InputAct s t) :
    t.overrides = s.overrides ∨ ∃ p, t.overrides = listWithout p true s.overrides := by
  cases h with
  | amended body a n d clamped interval missLimit => exact .inl (forEach_reResolve_segsOnly true _ _).same.2.1.2.1
  | retired a n => exact retireInput_list a n s
  | lost a link misses => exact .inl (dropLink_list a link misses s)
  | lineDown => exact .inl (goDownInput_list s)
  | _ => exact .inl rfl

theorem RecordAct.listChange (h : RecordAct s t) : ListChange s t := by
  cases h with
  | seg h => exact .same h.segsOnly.same.2.1.2.1
  | list h => exact h.listChange
  | input h =>
    rcases h.list with h | ⟨p, h⟩
    · exact .same h
    · exact .without p true h

end ListOps

end Sys2Proof.Machine
end

section
/-! SUPPORT. The laws of the override list (R101, R102, R104). -/

namespace Sys2Proof.Machine

/-- The laws of R101, R102 and R104, as a law of the list. -/
def ListLaws (l : OverrideList) : Prop :=
  l.records.length ≤ 24
    ∧ l.records.Pairwise (fun a b => ¬(a.origin = b.origin ∧ a.scope = b.scope))
    ∧ l.records.Pairwise (fun a b => a.handle ≠ b.handle)
    ∧ l.records.Pairwise (fun a b => a.cls = .facility ∨ b.cls = .occupant)
    ∧ (∀ o ∈ l.records, recordOk o = true)
    ∧ 1 ≤ l.counter ∧ l.counter ≤ 65535

theorem overridesOk_iff {s : State} : OverridesOk s ↔ ListLaws s.overrides := .rfl

/-- R101: an action stays in its range. -/
def ActionInRange (action : OvAction) : Prop :=
  (∀ v, action = .set v → v ≤ 1000) ∧ ∀ d, action = .nudge d → -500 ≤ d ∧ d ≤ 500

/-- R101: a hold fits its class. -/
def HoldFits (cls : OvClass) (hold : Option Nat) : Prop :=
  (hold = none → cls = .facility) ∧ ∀ h, hold = some h → 1 ≤ h ∧ h ≤ 720

/-- R101: the law of a record, field by field. -/
theorem recordOk_iff {o : Override} :
    recordOk o = true ↔
      (1 ≤ o.handle ∧ o.handle ≤ 65535) ∧ (o.scope.first ≤ o.scope.last ∧ o.scope.last ≤ 15)
        ∧ (∀ a, o.origin = .station a → o.cls = .occupant) ∧ ActionInRange o.action ∧ HoldFits o.cls o.hold := by
  obtain ⟨handle, origin, cls, scope, action, hold⟩ := o
  cases origin <;> cases action <;> cases hold <;>
    simp [recordOk, ActionInRange, HoldFits, and_assoc]

/-! ## Handles (R104) -/

section Handles

theorem handleAfter_bounds (h : Nat) : 1 ≤ handleAfter h ∧ handleAfter h ≤ 65535 := by
  unfold handleAfter
  split <;> omega

theorem freeHandle_bounds (l : List Override) (n : Nat) {h : Nat} (hpos : 1 ≤ h) (hle : h ≤ 65535) :
    1 ≤ freeHandle l n h ∧ freeHandle l n h ≤ 65535 := by
  induction n generalizing h with
  | zero => exact ⟨hpos, hle⟩
  | succ n ih =>
    unfold freeHandle
    split
    · exact ih (handleAfter_bounds h).1 (handleAfter_bounds h).2
    · exact ⟨hpos, hle⟩

/-- The handle found is free, or every handle tried is held. -/
theorem freeHandle_spec (l : List Override) (n h : Nat) :
    (∀ o ∈ l, o.handle ≠ freeHandle l n h) ∨ ∀ k < n, handleAfter^[k] h ∈ l.map (·.handle) := by
  induction n generalizing h with
  | zero => exact .inr fun k hk => absurd hk (Nat.not_lt_zero k)
  | succ n ih =>
    unfold freeHandle
    split
    · rename_i hheld
      refine (ih (handleAfter h)).imp_right fun htried k hk => ?_
      cases k with
      | zero =>
        obtain ⟨o, ho, heq⟩ := List.any_eq_true.mp hheld
        exact List.mem_map.mpr ⟨o, ho, by simpa using heq⟩
      | succ k => exact htried k (by omega)
    · rename_i hfree
      refine .inl fun o ho heq => hfree ?_
      exact List.any_eq_true.mpr ⟨o, ho, by simpa using heq⟩

/-- The handles from `h` on, 65535 being followed by 1. -/
theorem iterate_handleAfter {h k : Nat} (hpos : 1 ≤ h) (hle : h ≤ 65535) (hk : k ≤ 65535) :
    handleAfter^[k] h = if h + k ≤ 65535 then h + k else h + k - 65535 := by
  induction k with
  | zero => simp [hle]
  | succ k ih =>
    rw [Function.iterate_succ_apply', ih (by omega)]
    unfold handleAfter
    split_ifs <;> omega

/-- R104: a list of at most 24 records leaves one of 25 successive handles free. -/
theorem freeHandle_free {l : List Override} (hroom : l.length ≤ 24) {h : Nat} (hpos : 1 ≤ h) (hle : h ≤ 65535) :
    ∀ o ∈ l, o.handle ≠ freeHandle l 25 h := by
  refine (freeHandle_spec l 25 h).resolve_right fun htried => ?_
  have hinj : Set.InjOn (fun k => handleAfter^[k] h) (Finset.range 25) := by
    intro j hj k hk heq
    simp only [Finset.coe_range, Set.mem_Iio] at hj hk
    dsimp only at heq
    rw [iterate_handleAfter hpos hle (by omega), iterate_handleAfter hpos hle (by omega)] at heq
    split_ifs at heq <;> omega
  have hsub : (Finset.range 25).image (fun k => handleAfter^[k] h) ⊆ (l.map (·.handle)).toFinset := by
    intro x hx
    obtain ⟨k, hk, rfl⟩ := Finset.mem_image.mp hx
    exact List.mem_toFinset.mpr (htried k (Finset.mem_range.mp hk))
  have hcard := Finset.card_le_card hsub
  rw [Finset.card_image_of_injOn hinj, Finset.card_range] at hcard
  have := hcard.trans (List.toFinset_card_le _)
  rw [List.length_map] at this
  omega

end Handles

/-! ## Each change of the list -/

section Changes

variable {l : OverrideList} {p : Override → Bool} {flag : Bool}

theorem listWithout_laws (h : ListLaws l) : ListLaws (listWithout p flag l) := by
  obtain ⟨hroom, hkeys, hhandles, hclasses, hrecords, hcounter⟩ := h
  exact ⟨(List.length_filter_le _ _).trans hroom, hkeys.filter _, hhandles.filter _, hclasses.filter _,
    fun o ho => hrecords o (List.mem_of_mem_filter ho), hcounter⟩

theorem roomyList_laws (h : ListLaws l) : ListLaws (roomyList l) := by
  unfold roomyList
  split
  · exact h
  · split
    · exact listWithout_laws h
    · exact h

theorem mem_of_lastOccupant {l : List Override} {d : Override} (h : lastOccupant l = some d) : d ∈ l :=
  List.mem_reverse.mp (List.mem_of_find?_eq_some h)

/-- R107: a list that does not refuse has room for one more record. -/
theorem roomyList_room (h : ListLaws l) (hroom : listRefuses l.records = false) : (roomyList l).records.length < 24 := by
  unfold roomyList
  split
  · assumption
  · rename_i hfull
    cases hd : lastOccupant l.records with
    | none => simp [listRefuses, hd] at hroom; omega
    | some d =>
      refine lt_of_lt_of_le ?_ h.1
      exact List.length_filter_lt_length_iff_exists.mpr ⟨d, mem_of_lastOccupant hd, by simp⟩

theorem mem_roomyList {o : Override} (h : o ∈ (roomyList l).records) : o ∈ l.records := by
  unfold roomyList at h
  split at h
  · exact h
  · split at h
    · exact List.mem_of_mem_filter h
    · exact h

/-- A record put at the front of its class keeps the laws of a list that it fits. -/
theorem insertFront_laws {o : Override} {counter : Nat} {changed : Bool} (h : ListLaws l) (hroom : l.records.length < 24)
    (hkey : ∀ r ∈ l.records, ¬(o.origin = r.origin ∧ o.scope = r.scope)) (hhandle : ∀ r ∈ l.records, o.handle ≠ r.handle)
    (ho : recordOk o = true) (hpos : 1 ≤ counter) (hle : counter ≤ 65535) :
    ListLaws { records := insertFront o l.records, counter := counter, changed := changed } := by
  obtain ⟨_, hkeys, hhandles, hclasses, hrecords, _⟩ := h
  have hperm := insertFront_perm o l.records
  refine ⟨?_, ?_, ?_, insertFront_classes hclasses, fun r hr => ?_, hpos, hle⟩
  · rw [hperm.length_eq]
    exact hroom
  · refine (hperm.pairwise_iff fun {a b} hab hba => hab ?_).mpr (List.pairwise_cons.mpr ⟨hkey, hkeys⟩)
    exact ⟨hba.1.symm, hba.2.symm⟩
  · exact (hperm.pairwise_iff fun {a b} hab => hab.symm).mpr (List.pairwise_cons.mpr ⟨hhandle, hhandles⟩)
  · rcases List.mem_cons.mp (hperm.mem_iff.mp hr) with rfl | hr
    · exact ho
    · exact hrecords r hr

/-- R101: what a record placed has to meet besides its handle. -/
def RecordFits (origin : Origin) (cls : OvClass) (scope : Scope) (action : OvAction) (hold : Option Nat) : Prop :=
  ∀ h : Nat, 1 ≤ h → h ≤ 65535 → recordOk ⟨h, origin, cls, scope, action, hold⟩ = true

/-- Of two records of a list, what the list says of every two. -/
theorem pairwise_of_mem {α : Type} {R : α → α → Prop} {l : List α} (hsymm : ∀ a b, R a b → R b a) (h : l.Pairwise R)
    {a b : α} (ha : a ∈ l) (hb : b ∈ l) (hne : a ≠ b) : R a b := by
  have : Std.Symm R := ⟨hsymm⟩
  exact h.forall ha hb hne

theorem findRecord_some {origin : Origin} {scope : Scope} {l : List Override} {r : Override}
    (h : findRecord origin scope l = some r) : r ∈ l ∧ r.origin = origin ∧ r.scope = scope := by
  have hkey := List.find?_some h
  simp only [Bool.and_eq_true, beq_iff_eq] at hkey
  exact ⟨List.mem_of_find?_eq_some h, hkey.1, hkey.2⟩

theorem findRecord_none {origin : Origin} {scope : Scope} {l : List Override} (h : findRecord origin scope l = none) :
    ∀ r ∈ l, ¬(origin = r.origin ∧ scope = r.scope) := by
  rintro r hr ⟨rfl, rfl⟩
  have := List.find?_eq_none.mp h r hr
  simp at this

/-- R106, R107, R117: a record placed in a list that does not refuse it. -/
theorem listPlaced_laws {origin : Origin} {cls : OvClass} {scope : Scope} {action : OvAction} {hold : Option Nat}
    (h : ListLaws l) (hfits : RecordFits origin cls scope action hold)
    (hroom : findRecord origin scope l.records = none → listRefuses l.records = false) :
    ListLaws (listPlaced origin cls scope action hold l) := by
  unfold listPlaced
  split
  · rename_i r hfound
    obtain ⟨hr, rfl, rfl⟩ := findRecord_some hfound
    have hothers : ∀ o ∈ l.records.filter fun o => o.handle != r.handle, o ∈ l.records ∧ r ≠ o := by
      intro o ho
      obtain ⟨ho, hne⟩ := List.mem_filter.mp ho
      exact ⟨ho, fun heq => by simp [heq] at hne⟩
    have hleft := listWithout_laws (p := fun o => o.handle == r.handle) (flag := false) h
    obtain ⟨hlength, hkeys, hhandles, _, hrecords, hcounter, hcounter'⟩ := h
    obtain ⟨hhandle, _⟩ := recordOk_iff.mp (hrecords r hr)
    refine insertFront_laws hleft ?_ ?_ ?_ (hfits _ hhandle.1 hhandle.2)
      hcounter hcounter'
    · refine lt_of_lt_of_le ?_ hlength
      exact List.length_filter_lt_length_iff_exists.mpr ⟨r, hr, by simp⟩
    · intro o ho
      obtain ⟨ho, hne⟩ := hothers o ho
      exact (pairwise_of_mem (fun _ _ hab hba => hab ⟨hba.1.symm, hba.2.symm⟩) hkeys hr ho hne :)
    · intro o ho
      obtain ⟨ho, hne⟩ := hothers o ho
      exact (pairwise_of_mem (fun _ _ hab => hab.symm) hhandles hr ho hne :)
  · rename_i hnone
    have hroomy := roomyList_laws h
    have hlt := roomyList_room h (hroom hnone)
    have ⟨_, _, _, _, _, hcounter, hcounter'⟩ := hroomy
    have hbounds := freeHandle_bounds (roomyList l).records 25 hcounter hcounter'
    have hnext := handleAfter_bounds (freeHandle (roomyList l).records 25 (roomyList l).counter)
    refine insertFront_laws hroomy hlt (fun r hr => findRecord_none hnone r (mem_roomyList hr)) (fun r hr => ?_)
      (hfits _ hbounds.1 hbounds.2) hnext.1 hnext.2
    exact (freeHandle_free hlt.le hcounter hcounter' r hr).symm

/-- R111: a numeric hold that does not reach 0 stays in its range. -/
theorem recordOk_counted {o : Override} (h : recordOk o = true) (hleft : o.hold.map (· - 1) ≠ some 0) :
    recordOk { o with hold := o.hold.map (· - 1) } = true := by
  obtain ⟨hhandle, hscope, horigin, haction, hnone, hsome⟩ := recordOk_iff.mp h
  refine recordOk_iff.mpr ⟨hhandle, hscope, horigin, haction, fun hn => hnone (by simpa using hn), fun n hn => ?_⟩
  obtain ⟨m, hm, rfl⟩ := Option.map_eq_some_iff.mp hn
  have hrange := hsome m hm
  simp only [hm, Option.map_some, ne_eq, Option.some.injEq] at hleft
  omega

theorem listCounted_laws (h : ListLaws l) : ListLaws (listCounted l) := by
  obtain ⟨hroom, hkeys, hhandles, hclasses, hrecords, hcounter⟩ := h
  refine ⟨?_, ?_, ?_, ?_, fun o ho => ?_, hcounter⟩
  · exact (List.length_filter_le _ _).trans (by simpa using hroom)
  · exact (List.pairwise_map.mpr hkeys).filter _
  · refine List.Pairwise.filter _ (List.pairwise_map.mpr ?_)
    exact hhandles
  · exact (List.pairwise_map.mpr hclasses).filter _
  · obtain ⟨ho, hleft⟩ := List.mem_filter.mp ho
    obtain ⟨r, hr, rfl⟩ := List.mem_map.mp ho
    exact recordOk_counted (hrecords r hr) (by simpa using hleft)

end Changes

/-! ## What is placed fits (R101, R105, R113 to R115) -/

section Fits

/-- R105: a record of the floor's own. -/
theorem floor_recordFits {s : State} {cls : OvClass} {scope : Scope} {kind : Nat} {value : Int} {action : OvAction}
    {clamped : Bool} (hold : Nat) (hscope : scopeOk s scope = true) (haction : actionOf kind value = some (action, clamped)) :
    RecordFits .floor cls scope action (holdOf cls hold).1 := by
  intro h hpos hle
  simp only [scopeOk, Bool.and_eq_true, decide_eq_true_eq] at hscope
  obtain ⟨⟨_, hfirst⟩, hlast⟩ := hscope
  refine recordOk_iff.mpr ⟨⟨hpos, hle⟩, ⟨hfirst, hlast⟩, nofun, ?_, ?_⟩
  · unfold actionOf at haction
    unfold ActionInRange
    split at haction <;> cases haction <;> simp
  · have hclamp := clampTo_bounds (lo := 1) (hi := 720) (by decide) hold
    unfold holdOf HoldFits
    split
    · cases cls <;> simp
    · simpa using hclamp

/-- R114: one press of RAISE or LOWER stays in the range of the action. -/
theorem raiseAction_inRange {own : Option OvAction} (hown : ∀ a ∈ own, ActionInRange a) :
    ActionInRange (raiseAction own) := by
  have hstep : Config.pressStep = 100 := rfl
  unfold raiseAction
  split
  · exact ⟨fun v hv => by cases hv; omega, nofun⟩
  · rename_i d
    have hd := (hown _ rfl).2 d rfl
    exact ⟨nofun, fun e he => by cases he; omega⟩
  · exact ⟨fun v hv => by cases hv; omega, nofun⟩
  · exact ⟨nofun, fun e he => by cases he; omega⟩

theorem lowerAction_inRange {own : Option OvAction} (hown : ∀ a ∈ own, ActionInRange a) :
    ActionInRange (lowerAction own) := by
  have hstep : Config.pressStep = 100 := rfl
  unfold lowerAction
  split
  · rename_i v
    have hv := (hown _ rfl).1 v rfl
    exact ⟨fun w hw => by cases hw; omega, nofun⟩
  · rename_i d
    have hd := (hown _ rfl).2 d rfl
    exact ⟨nofun, fun e he => by cases he; omega⟩
  · exact ⟨nofun, nofun⟩
  · exact ⟨nofun, fun e he => by cases he; omega⟩

/-- R113 to R115: an action that a button gives stays in its range. -/
theorem pressAction_inRange {g : Segment} {b : Button} {own : Option OvAction} {action : OvAction}
    (hown : ∀ a ∈ own, ActionInRange a) (hsetback : g.cfg.setbackLevel ≤ 1000) (h : pressAction g b own = some action) :
    ActionInRange action := by
  cases b with
  | raise => cases h; exact raiseAction_inRange hown
  | lower => cases h; exact lowerAction_inRange hown
  | on => cases h; exact ⟨fun v hv => by cases hv; rfl, nofun⟩
  | off =>
    cases h
    unfold offAction
    split
    · exact ⟨nofun, nofun⟩
    · exact ⟨fun v hv => by cases hv; exact hsetback, nofun⟩
  | resume => cases h

/-- R113: a record of a station, its scope and hold standing in their ranges. -/
theorem station_recordFits {a : Nat} {n : Input} {scope : Scope} {hold : Nat} {lastButton : Option Button}
    {sequence : Option Nat} {action : OvAction} (hn : inputConfigOk n)
    (hdevice : n.device = .station scope hold lastButton sequence) (haction : ActionInRange action) :
    RecordFits (.station a) .occupant scope action (some hold) := by
  obtain ⟨_, _, _, _, hconfig⟩ := hn
  rw [hdevice] at hconfig
  simp only [deviceConfigOk, Bool.and_eq_true, decide_eq_true_eq] at hconfig
  obtain ⟨⟨hscope, hpos⟩, hle⟩ := hconfig
  exact fun h hhandle hhandle' =>
    recordOk_iff.mpr ⟨⟨hhandle, hhandle'⟩, hscope, fun _ _ => rfl, haction, nofun, fun m hm => by cases hm; exact ⟨hpos, hle⟩⟩

end Fits

/-! ## Every act -/

section Acts

variable {s t : State}

theorem ListChange.laws (h : ListChange s t) (hc : ConfigOk s) (hs : ListLaws s.overrides) : ListLaws t.overrides := by
  cases h with
  | same h => rwa [h]
  | without p flag h =>
    rw [h]
    exact listWithout_laws hs
  | placed cls scope kind value action clamped hold hscope haction hroom h =>
    rw [h]
    exact listPlaced_laws hs (floor_recordFits hold hscope haction) hroom
  | pressed a n scope hold lastButton sequence b g own action hn hdevice hg hown haction hroom h =>
    obtain ⟨_, hsegs, hinputs⟩ := hc
    rw [h]
    refine listPlaced_laws hs (station_recordFits (hinputs _ (mem_of_tabGet hn)) hdevice ?_) hroom
    have hsetback : g.cfg.setbackLevel ≤ 1000 := by
      obtain ⟨_, _, _, _, _, _, _, _, _, _, _, _, _, _, _, _, _, _, _, _, _, _, _, _, _, _, _, _, _, hle⟩ := hsegs _ hg
      exact hle
    refine pressAction_inRange (fun act hact => ?_) hsetback haction
    rw [hown] at hact
    obtain ⟨r, hr, rfl⟩ := Option.map_eq_some_iff.mp hact
    obtain ⟨_, _, _, _, hrecords, _⟩ := hs
    obtain ⟨_, _, _, hrange, _⟩ := recordOk_iff.mp (hrecords r (findRecord_some hr).1)
    exact hrange
  | counted h =>
    rw [h]
    exact listCounted_laws hs
  | unflagged h =>
    rw [h]
    exact hs

theorem overridesOk_keptByParts : KeptByParts fun s => ConfigOk s ∧ OverridesOk s where
  record h hs := ⟨configOk_keptByParts.record h hs.1, h.listChange.laws hs.1 hs.2⟩
  recompose k s hs := by
    obtain ⟨_, hlist, _⟩ := (recomposeLum_lumsOnly k s).records
    exact ⟨configOk_keptByParts.recompose k hs.1, overridesOk_iff.mpr (hlist ▸ overridesOk_iff.mp hs.2)⟩
  fixture h hs := by
    obtain ⟨_, hlist, _⟩ := h.lumsOnly.records
    exact ⟨configOk_keptByParts.fixture h hs.1, overridesOk_iff.mpr (hlist ▸ overridesOk_iff.mp hs.2)⟩
  recapped _ _ _ _ hs := hs
  captured hs := hs
  ticked hs := ⟨configOk_keptByParts.ticked hs.1, hs.2⟩
  tallied hs := ⟨configOk_keptByParts.tallied hs.1, hs.2⟩
  holdsTaken hs := hs
  drew _ hs := hs
  portSet _ hs := hs
  warmBlocks hs := ⟨configOk_keptByParts.warmBlocks hs.1, overridesOk_cold false State.reset⟩
  raiseOnce i s hs := by
    obtain ⟨_, ⟨_, hlist, _⟩, _⟩ := (raiseOnce_segsOnly i s).same
    exact ⟨configOk_keptByParts.raiseOnce i hs.1, overridesOk_iff.mpr (hlist ▸ overridesOk_iff.mp hs.2)⟩
  composeAll hs := ⟨configOk_keptByParts.composeAll hs.1, hs.2⟩
  refresh i s hrunning hs := by
    obtain ⟨_, hlist, _⟩ := (fullRefresh_lumsOnly i s).records
    exact ⟨configOk_keptByParts.refresh i hrunning hs.1, overridesOk_iff.mpr (hlist ▸ overridesOk_iff.mp hs.2)⟩
  coldReset low hs := ⟨configOk_cold low _, overridesOk_cold low _⟩

/-- Settles O13, by the changes of the list. -/
theorem overrideListLawsKept : Obligations.OverrideListLawsKept :=
  overridesOk_keptByParts.keptUnder fun _ _ h => h

end Acts

end Sys2Proof.Machine
end

section
/-! SUPPORT. The references of the floor model (R11, R13, R16, R18). -/

namespace Sys2Proof.Machine

/-! ## Two records of a table -/

/-- Of a canonical table, what is said of every two entries is said of every two records read. -/
theorem pairwise_iff_get {α : Type} {R : α → α → Prop} (hsymm : ∀ v w, R v w → R w v) {a : Tab α}
    (ha : a.Pairwise fun x y => x.1 < y.1) :
    a.Pairwise (fun x y => R x.2 y.2) ↔
      ∀ i j v w, tabGet a i = some v → tabGet a j = some w → i ≠ j → R v w := by
  constructor
  · intro h i j v w hv hw hne
    exact pairwise_of_mem (R := fun x y : Nat × α => R x.2 y.2) (fun _ _ => hsymm _ _) h (mem_of_tabGet hv)
      (mem_of_tabGet hw) fun heq => hne (congrArg Prod.fst heq)
  · intro h
    refine ha.imp_of_mem fun {x y} hx hy hlt => ?_
    exact h x.1 y.1 x.2 y.2 (tabGet_of_mem ha hx) (tabGet_of_mem ha hy) (Nat.ne_of_lt hlt)

section Refs

variable {s t : State}

/-! ## What the references are judged by -/

/-- R12: the configuration at every segment id stands. -/
def SameCfgs (s t : State) : Prop := ∀ i, (seg? t i).map (·.cfg) = (seg? s i).map (·.cfg)

theorem sameCfgs_of_by (hs : tabWf 32 s.segs) (h : SegsBy (fun g u => u.cfg = g.cfg) s t) : SameCfgs s t := by
  intro i
  cases hu : seg? t i with
  | none =>
    have hsome : (seg? t i).isSome = (seg? s i).isSome := h.isSome hs i
    rw [hu] at hsome
    rw [Option.isSome_eq_false_iff.mp hsome.symm |> Option.isNone_iff_eq_none.mp]
  | some u =>
    obtain ⟨g, hg, hcfg⟩ := h.get_some hs hu
    rw [show seg? s i = some g from hg]
    simp [hcfg]

theorem sameCfgs_of_settings (hs : tabWf 32 s.segs) (h : SegsBy SameSettings s t) : SameCfgs s t :=
  sameCfgs_of_by hs (h.mono And.left)

theorem SameCfgs.trans {u : State} (h : SameCfgs s t) (k : SameCfgs t u) : SameCfgs s u := fun i => (k i).trans (h i)

theorem SameCfgs.defined (h : SameCfgs s t) (i : Nat) : segDefined t i = segDefined s i := by
  simpa [segDefined] using congrArg Option.isSome (h i)

theorem SameCfgs.entry (h : SameCfgs s t) (ht : tabWf 32 t.segs) {e : Nat × Segment} (he : e ∈ t.segs) :
    ∃ g, (e.1, g) ∈ s.segs ∧ e.2.cfg = g.cfg := by
  have hcfg := h e.1
  rw [seg?, tabGet_of_mem ht.1 he] at hcfg
  obtain ⟨g, hg, heq⟩ := Option.map_eq_some_iff.mp hcfg.symm
  exact ⟨g, mem_of_tabGet hg, heq.symm⟩

/-- R13: an outer link is judged by the row of the segment that it names. -/
theorem outerFits_congr {i : Nat} {c : SegConfig}
    (h : ∀ o, c.outer = some o → (seg? t o).map (·.cfg.row) = (seg? s o).map (·.cfg.row)) :
    outerFits t i c = outerFits s i c := by
  unfold outerFits
  cases ho : c.outer with
  | none => rfl
  | some o =>
    have hrow := h o ho
    cases hs : seg? s o <;> cases ht : seg? t o <;> simp_all

/-- R13: references that fit stay fit where the rows and the photosensors that they name stand. -/
theorem refsFit_keeps {i : Nat} {c : SegConfig} (h : refsFit s i c = true)
    (hrow : ∀ o, c.outer = some o → (seg? t o).map (·.cfg.row) = (seg? s o).map (·.cfg.row))
    (hphoto : ∀ a, c.primary = some a ∨ c.secondary = some a → (photoOf s a).isSome = true →
      (photoOf t a).isSome = true) : refsFit t i c = true := by
  simp only [refsFit, Bool.and_eq_true] at h ⊢
  obtain ⟨⟨⟨houter, hprimary⟩, hsecondary⟩, hapart⟩ := h
  refine ⟨⟨⟨(outerFits_congr hrow).trans houter, ?_⟩, ?_⟩, hapart⟩
  · cases hp : c.primary with
    | none => rfl
    | some a => exact hphoto a (.inl hp) (by simpa [sensorFits, hp] using hprimary)
  · cases hp : c.secondary with
    | none => rfl
    | some a => exact hphoto a (.inr hp) (by simpa [sensorFits, hp] using hsecondary)

theorem SameCfgs.rows (h : SameCfgs s t) (o : Nat) : (seg? t o).map (·.cfg.row) = (seg? s o).map (·.cfg.row) := by
  simpa [Function.comp_def] using congrArg (Option.map SegConfig.row) (h o)

theorem deviceRefsOk_congr (h : ∀ i, segDefined t i = segDefined s i) (d : Device) : deviceRefsOk t d = deviceRefsOk s d := by
  have hfun : segDefined t = segDefined s := funext h
  cases d <;> simp [deviceRefsOk, hfun]

theorem placeOk_congr (h : ∀ i, segDefined t i = segDefined s i) (p : Option Place) : placeOk t p = placeOk s p := by
  cases p <;> simp [placeOk, h]

/-- A segment table whose configurations stand keeps the references, if the inputs and the list do. -/
theorem refsOk_of_cfgs (hs : RefsOk s) (hsegs : tabWf 32 t.segs) (h : SameCfgs s t) (hlums : t.lums = s.lums)
    (hphoto : ∀ e ∈ s.segs, ∀ a, e.2.cfg.primary = some a ∨ e.2.cfg.secondary = some a →
      (photoOf s a).isSome = true → (photoOf t a).isSome = true)
    (hinputs : ∀ e ∈ t.inputs, deviceRefsOk s e.2.device = true)
    (hlist : ∀ o ∈ t.overrides.records, segDefined s o.scope.segment = true) : RefsOk t := by
  obtain ⟨hplaces, hapart, hfits, _, _⟩ := hs
  refine ⟨fun e he => ?_, hlums ▸ hapart, fun e he => ?_, fun e he => ?_, fun o ho => ?_⟩
  · rw [placeOk_congr h.defined]
    exact hplaces e (hlums ▸ he)
  · obtain ⟨g, hg, hcfg⟩ := h.entry hsegs he
    rw [hcfg]
    obtain ⟨hpos, hle, hrefs⟩ := hfits _ hg
    exact ⟨hpos, hle, refsFit_keeps hrefs (fun o _ => h.rows o) (hphoto _ hg)⟩
  · rw [deviceRefsOk_congr h.defined]
    exact hinputs e he
  · rw [h.defined]
    exact hlist o ho

/-! ## The segments -/

theorem segDefined_putSeg (i : Nat) (g : Segment) (s : State) (j : Nat) :
    segDefined (putSeg i g s) j = (decide (j = i) || segDefined s j) := by
  rw [segDefined, seg?_putSeg]
  split <;> simp_all [segDefined]

/-- R13, R14: a record with fit references put at an id, whose row no other segment's link feels. -/
theorem refsOk_putSeg {i : Nat} {g : Segment} (hs : RefsOk s) (hsegs : tabWf 32 (putSeg i g s).segs) (hpos : 1 ≤ g.cfg.row) (hle : g.cfg.row ≤ 4)
    (hrefs : refsFit s i g.cfg = true)
    (hrow : ∀ e ∈ s.segs, e.1 ≠ i → e.2.cfg.outer = some i → (seg? s i).map (·.cfg.row) = some g.cfg.row) :
    RefsOk (putSeg i g s) := by
  obtain ⟨hplaces, hapart, hfits, hinputs, hlist⟩ := hs
  have hdefined (j : Nat) (h : segDefined s j = true) : segDefined (putSeg i g s) j = true := by
    rw [segDefined_putSeg, h, Bool.or_true]
  have hrows (j : Nat) (h : j ≠ i) : (seg? (putSeg i g s) j).map (·.cfg.row) = (seg? s j).map (·.cfg.row) := by
    rw [seg?_putSeg_ne g s h]
  refine ⟨fun e he => ?_, hapart, fun e he => ?_, fun e he => ?_, fun o ho => hdefined _ (hlist o ho)⟩
  · have h := hplaces e he
    cases hp : e.2.place with
    | none => rfl
    | some p =>
      simp only [hp, placeOk, Bool.and_eq_true] at h ⊢
      exact ⟨hdefined _ h.1, h.2⟩
  · by_cases hei : e.1 = i
    · have hget := tabGet_of_mem hsegs.1 he
      rw [hei, show tabGet (putSeg i g s).segs i = some g from seg?_putSeg_self i g s] at hget
      obtain rfl : g = e.2 := Option.some.inj hget
      rw [hei]
      refine ⟨hpos, hle, refsFit_keeps hrefs (fun o ho => hrows o fun hoi => ?_) fun _ _ h => h⟩
      have houter := outerFits_of_refsFit hrefs
      simp [outerFits, ho, hoi] at houter
    · have hmem := (mem_tabPut he).resolve_left fun heq => hei (congrArg Prod.fst heq)
      obtain ⟨hpos', hle', hrefs'⟩ := hfits e hmem
      refine ⟨hpos', hle', refsFit_keeps hrefs' (fun o ho => ?_) fun _ _ h => h⟩
      by_cases hoi : o = i
      · rw [hoi, seg?_putSeg_self, hrow e hmem hei (hoi ▸ ho)]
        rfl
      · exact hrows o hoi
  · have h := hinputs e he
    cases hd : e.2.device with
    | photo c m => rfl
    | presence coverage last =>
      simp only [hd, deviceRefsOk, List.all_eq_true] at h ⊢
      exact fun j hj => hdefined j (h j hj)
    | station scope hold lastButton sequence =>
      simp only [hd, deviceRefsOk] at h ⊢
      exact hdefined _ h

/-- R13: no segment links to an id at which none is defined. -/
theorem not_linked_undefined (hs : RefsOk s) {i : Nat} (hi : seg? s i = none) {e : Nat × Segment} (he : e ∈ s.segs) :
    e.2.cfg.outer ≠ some i := by
  intro ho
  obtain ⟨_, _, hfits, _, _⟩ := hs
  obtain ⟨_, _, hrefs⟩ := hfits e he
  have houter := outerFits_of_refsFit hrefs
  simp [outerFits, ho, hi] at houter

/-- R12: the numeric settings are no references. -/
theorem refsFit_takeSegNumbers (body : List Byte) (i : Nat) (c : SegConfig) (s : State) :
    refsFit s i (takeSegNumbers body c).1 = refsFit s i c := rfl

/-- R14: without the row, the outer link and the sensors the references are those that stood. -/
theorem refsFit_uncarried {body : List Byte} {c : SegConfig} (h : carriesRefs body = false) (i : Nat) (s : State) :
    refsFit s i (takeSegStructure body c) = refsFit s i c := by
  simp only [carriesRefs, Bool.or_eq_false_iff, Option.isSome_eq_false_iff, Option.isNone_iff_eq_none] at h
  obtain ⟨⟨⟨hrow, houter⟩, hprimary⟩, hsecondary⟩ := h
  unfold takeSegStructure
  rw [hrow, houter, hprimary, hsecondary]
  rfl

/-- What changes the segments alone, their settings standing. -/
theorem refsOk_segsOnly (hs : RefsOk s) (hsegs : tabWf 32 s.segs) (h : SegsOnly s t) (hsettings : SegsBy SameSettings s t) :
    RefsOk t := by
  obtain ⟨⟨hlums, _⟩, ⟨hinputs, hlist, _⟩, _⟩ := h.same
  obtain ⟨_, _, _, hdevices, hscopes⟩ := id hs
  refine refsOk_of_cfgs hs (hsettings.keepsTabWf hsegs) (sameCfgs_of_settings hsegs hsettings) hlums
    (fun _ _ a _ hp => ?_) (hinputs ▸ hdevices) (hlist ▸ hscopes)
  rwa [photoOf, input?, hinputs]

theorem SegsOnly.of_putSeg {i : Nat} {g : Segment} (h : SegsOnly s t) : SegsOnly (putSeg i g s) t := by
  unfold SegsOnly at *
  rw [h]
  rfl

theorem refsOk_defineSeg {body : List Byte} {i : Nat} (hs : RefsOk s) (ht : tabWf 32 s.segs) (hid : i ≤ 31)
    (hnone : seg? s i = none) (henums : segEnumsOk body = true)
    (hrefs : refsFit s i (takeSegStructure body segDefaults) = true) :
    RefsOk (defineSeg i (takeSegNumbers body (takeSegStructure body segDefaults)).1 s) := by
  obtain ⟨hpos, hle⟩ := takeSegStructure_row (c := segDefaults) henums fun _ => by decide
  have hput := tabWf_put (v := freshSeg (takeSegNumbers body (takeSegStructure body segDefaults)).1
    (effectiveCap s.composer (takeSegNumbers body (takeSegStructure body segDefaults)).1.cap)) ht
    (show i < 32 by omega)
  have hnew := refsOk_putSeg hs hput hpos hle hrefs fun e he _ ho => absurd ho (not_linked_undefined hs hnone he)
  exact refsOk_segsOnly hnew hput (defineSeg_segsOnly i _ s).of_putSeg (defineSeg_settings i _ s)

theorem refsOk_amendSeg {body : List Byte} {i : Nat} {g : Segment} (clear : Bool) (hs : RefsOk s) (ht : tabWf 32 s.segs)
    (hg : seg? s i = some g) (henums : segEnumsOk body = true)
    (hrefs : carriesRefs body = true → refsFit s i (takeSegStructure body g.cfg) = true)
    (hlinked : (takeSegStructure body g.cfg).row ≠ g.cfg.row → isOuter s i = false) :
    RefsOk (amendSeg i g (takeSegNumbers body (takeSegStructure body g.cfg)).1 clear s) := by
  have hput := tabWf_put (v := { g with cfg := (takeSegNumbers body (takeSegStructure body g.cfg)).1 }) ht
    (ht.2 _ (mem_of_tabGet hg))
  obtain ⟨_, _, hfits, _, _⟩ := id hs
  obtain ⟨hpos, hle, hfit⟩ := hfits _ (mem_of_tabGet hg)
  obtain ⟨hpos', hle'⟩ := takeSegStructure_row (c := g.cfg) henums fun _ => ⟨hpos, hle⟩
  have hrefs' : refsFit s i (takeSegNumbers body (takeSegStructure body g.cfg)).1 = true := by
    rw [refsFit_takeSegNumbers]
    by_cases hc : carriesRefs body = true
    · exact hrefs hc
    · rw [refsFit_uncarried (Bool.eq_false_iff.mpr hc)]
      exact hfit
  have hrow (e : Nat × Segment) (he : e ∈ s.segs) (hei : e.1 ≠ i) (ho : e.2.cfg.outer = some i) :
      (seg? s i).map (·.cfg.row) = some (takeSegStructure body g.cfg).row := by
    rw [hg]
    by_contra hne
    have houter := hlinked fun heq => hne (by rw [Option.map_some, heq])
    have hisouter : isOuter s i = true := List.any_eq_true.mpr ⟨e, he, by simp [hei, ho]⟩
    rw [houter] at hisouter
    cases hisouter
  have hnew := refsOk_putSeg (g := { g with cfg := (takeSegNumbers body (takeSegStructure body g.cfg)).1 }) hs hput
    hpos' hle' hrefs' hrow
  exact refsOk_segsOnly hnew hput (amendSeg_segsOnly i g _ clear s).of_putSeg (amendSeg_settings i g _ clear s)

/-- R16: nothing refers to a segment retired. -/
theorem refsOk_retireSeg {i : Nat} (hs : RefsOk s) (ht : tabWf 32 s.segs) (href : segReferenced s i = false) :
    RefsOk (retireSeg i s) := by
  obtain ⟨hplaces, hapart, hfits, hinputs, hlist⟩ := hs
  obtain ⟨⟨hlums, _⟩, _, hsame, _⟩ := (retireSeg_listOnly i s).same
  have hretired := (retireRecords_by (fun o => o.scope.segment == i) true s).moves
  have hcfgs := sameCfgs_of_settings ht hretired.settings
  have hwf := hretired.keepsTabWf ht
  have hsegs : (retireSeg i s).segs = tabDel (retireRecords (fun o => o.scope.segment == i) true s).segs i := rfl
  have hother (j : Nat) (hj : j ≠ i) : (seg? (retireSeg i s) j).map (·.cfg) = (seg? s j).map (·.cfg) := by
    rw [seg?, hsegs, tabGet_del_ne _ hj]
    exact hcfgs j
  have hdefined (j : Nat) (hj : j ≠ i) : segDefined (retireSeg i s) j = segDefined s j := by
    simpa [segDefined] using congrArg Option.isSome (hother j hj)
  simp only [segReferenced, Bool.or_eq_false_iff, List.any_eq_false, beq_iff_eq] at href
  obtain ⟨⟨hnoLum, hnoInput⟩, hnoOuter⟩ := href
  refine ⟨fun e he => ?_, hlums ▸ hapart, fun e he => ?_, fun e he => ?_, fun o ho => ?_⟩
  · rw [hlums] at he
    have hplace := hplaces e he
    have hno := hnoLum e he
    cases hp : e.2.place with
    | none => rfl
    | some p =>
      simp only [hp, Option.map_some, Option.some.injEq, placeOk] at hno hplace ⊢
      rwa [hdefined _ hno]
  · rw [hsegs] at he
    have hei : e.1 ≠ i := by
      simpa [tabDel] using (List.mem_filter.mp he).2
    obtain ⟨g, hg, hcfg⟩ := hcfgs.entry hwf (mem_tabDel he)
    rw [hcfg]
    obtain ⟨hpos, hle, hrefs⟩ := hfits _ hg
    refine ⟨hpos, hle, refsFit_keeps hrefs (fun o ho => ?_) fun a _ hphoto => ?_⟩
    · have hoi : o ≠ i := by
        rintro rfl
        have hisouter : isOuter s o = true := List.any_eq_true.mpr ⟨_, hg, by simp [hei, ho]⟩
        rw [hnoOuter] at hisouter
        cases hisouter
      simpa [Function.comp_def] using congrArg (Option.map SegConfig.row) (hother o hoi)
    · rwa [photoOf, input?, hsame]
  · rw [hsame] at he
    have hdevice := hinputs e he
    have hno := hnoInput e he
    cases hd : e.2.device with
    | photo c m => rfl
    | presence coverage last =>
      simp only [hd, deviceRefsOk, List.all_eq_true] at hdevice ⊢
      refine fun j hj => (hdefined j ?_).trans (hdevice j hj)
      rintro rfl
      simp [hd, hj] at hno
    | station scope hold lastButton sequence =>
      simp only [hd, deviceRefsOk] at hdevice ⊢
      refine (hdefined _ ?_).trans hdevice
      simpa [hd] using hno
  · rw [show (retireSeg i s).overrides = _ from retireRecords_list _ true s] at ho
    obtain ⟨ho, hne⟩ := List.mem_filter.mp ho
    refine (hdefined _ ?_).trans (hlist o ho)
    simpa using hne

/-! ## The override list -/

theorem mem_listPlaced {origin : Origin} {cls : OvClass} {scope : Scope} {action : OvAction} {hold : Option Nat}
    {l : OverrideList} {o : Override} (h : o ∈ (listPlaced origin cls scope action hold l).records) :
    (o.scope = scope ∧ o.cls = cls) ∨ o ∈ l.records := by
  unfold listPlaced at h
  split at h
  · rename_i r hr
    rcases List.mem_cons.mp ((insertFront_perm _ _).mem_iff.mp h) with rfl | h
    · exact .inl ⟨(findRecord_some hr).2.2, rfl⟩
    · exact .inr (List.mem_of_mem_filter h)
  · rcases List.mem_cons.mp ((insertFront_perm _ _).mem_iff.mp h) with rfl | h
    · exact .inl ⟨rfl, rfl⟩
    · exact .inr (mem_roomyList h)

/-- R101: what is placed names a defined segment. -/
theorem ListChange.scopes (h : ListChange s t) (ht : tabWf 32 s.segs)
    (hs : ∀ o ∈ s.overrides.records, segDefined s o.scope.segment = true) :
    ∀ o ∈ t.overrides.records, segDefined s o.scope.segment = true := by
  intro o ho
  cases h with
  | same h => exact hs o (h ▸ ho)
  | without p flag h =>
    rw [h] at ho
    exact hs o (List.mem_of_mem_filter ho)
  | placed cls scope kind value action clamped hold hscope haction hroom h =>
    rw [h] at ho
    rcases mem_listPlaced ho with ⟨heq, _⟩ | ho
    · simp only [scopeOk, Bool.and_eq_true] at hscope
      obtain ⟨⟨⟨_, hdefined⟩, _⟩, _⟩ := hscope
      rw [heq]
      exact hdefined
    · exact hs o ho
  | pressed a n scope hold lastButton sequence b g own action hn hdevice hg hown haction hroom h =>
    rw [h] at ho
    rcases mem_listPlaced ho with ⟨heq, _⟩ | ho
    · rw [heq, segDefined, seg?, tabGet_of_mem ht.1 hg]
      rfl
    · exact hs o ho
  | counted h =>
    rw [h] at ho
    obtain ⟨r, hr, rfl⟩ := List.mem_map.mp (List.mem_of_mem_filter ho)
    exact hs r hr
  | unflagged h => exact hs o (by rwa [h] at ho)

/-! ## The inputs -/

theorem photoOf_isSome_iff {a : Nat} : (photoOf s a).isSome = true ↔ kindAt s a = some .photo := by
  unfold photoOf kindAt
  cases input? s a with
  | none => simp
  | some n => cases hd : n.device <;> simp [hd, deviceKind]

theorem tickInput_device (n : Input) :
    deviceKind (tickInput n).device = deviceKind n.device
      ∧ ∀ s, deviceRefsOk s (tickInput n).device = deviceRefsOk s n.device := by
  unfold tickInput
  cases n.device <;> exact ⟨rfl, fun _ => rfl⟩

theorem warmInput_device (running : Bool) (n : Input) :
    deviceKind (warmInput running n).device = deviceKind n.device
      ∧ ∀ s, deviceRefsOk s (warmInput running n).device = deviceRefsOk s n.device := by
  unfold warmInput
  cases n.device <;> exact ⟨rfl, fun _ => rfl⟩

theorem deviceLost_device (d : Device) :
    deviceKind (deviceLost d) = deviceKind d ∧ ∀ s, deviceRefsOk s (deviceLost d) = deviceRefsOk s d := by
  cases d <;> exact ⟨rfl, fun _ => rfl⟩

/-- No move changes the kind of an input, or the segments that it refers to. -/
theorem InputMove.device {n m : Input} (h : InputMove n m) :
    deviceKind m.device = deviceKind n.device ∧ ∀ s, deviceRefsOk s m.device = deviceRefsOk s n.device := by
  cases h with
  | lost _ link misses changed hlink =>
    dsimp only
    split
    · exact deviceLost_device n.device
    · exact ⟨rfl, fun _ => rfl⟩
  | ticked => exact tickInput_device n
  | warmed running => exact warmInput_device running n
  | reinstated hd => rw [hd]; exact ⟨rfl, fun _ => rfl⟩
  | calibrated hd => rw [hd]; exact ⟨rfl, fun _ => rfl⟩
  | released hd => rw [hd]; exact ⟨rfl, fun _ => rfl⟩
  | sampled hd => rw [hd]; exact ⟨rfl, fun _ => rfl⟩
  | reported hd => rw [hd]; exact ⟨rfl, fun _ => rfl⟩
  | sequenced hd => rw [hd]; exact ⟨rfl, fun _ => rfl⟩
  | pressed hd => rw [hd]; exact ⟨rfl, fun _ => rfl⟩
  | _ => exact ⟨rfl, fun _ => rfl⟩

/-- The kind of every input stands, and so do the segments that it refers to. -/
def SameRefs (n m : Input) : Prop :=
  deviceKind m.device = deviceKind n.device ∧ ∀ s, deviceRefsOk s m.device = deviceRefsOk s n.device

theorem inputMoves_sameRefs {n m : Input} (h : InputMoves n m) : SameRefs n m := by
  induction h with
  | refl => exact ⟨rfl, fun _ => rfl⟩
  | tail _ h ih => exact ⟨h.device.1.trans ih.1, fun s => (h.device.2 s).trans (ih.2 s)⟩

theorem kindAt_of_sameRefs (hs : tabWf 48 s.inputs) (h : InputsBy SameRefs s t) (a : Nat) (k : InputKind)
    (hk : kindAt s a = some k) : kindAt t a = some k := by
  obtain ⟨n, hn, rfl⟩ := Option.map_eq_some_iff.mp hk
  have hsome := h.isSome hs a
  rw [show tabGet s.inputs a = some n from hn] at hsome
  obtain ⟨m, hm⟩ := Option.isSome_iff_exists.mp hsome
  obtain ⟨n', hn', hsame⟩ := h.get_some hs hm
  obtain rfl : n' = n := Option.some.inj (hn'.symm.trans hn)
  rw [kindAt, show input? t a = some m from hm]
  exact congrArg some hsame.1

theorem coverageIn_defined {body : List Byte} {ids : List Nat} (h : coverageIn s body = some ids) :
    ids.all (segDefined s) = true := by
  unfold coverageIn at h
  dsimp only at h
  split at h
  · rename_i hfit
    cases h
    exact hfit.2.2.2
  · cases h

/-- R18: what a request carries refers to defined segments, and is of the kind of the device. -/
theorem takeDevice_refs {body : List Byte} {d d' : Device} {clamped : Bool} (h : takeDevice s body d = some (d', clamped))
    (hd : deviceRefsOk s d = true ∨ (inputMask body).testBit 2 = true) :
    deviceKind d' = deviceKind d ∧ deviceRefsOk s d' = true := by
  cases d with
  | photo c m =>
    cases h
    exact ⟨rfl, rfl⟩
  | presence coverage last =>
    unfold takeDevice at h
    dsimp only at h
    split at h
    · obtain ⟨ids, hids, heq⟩ := Option.map_eq_some_iff.mp h
      cases heq
      exact ⟨rfl, coverageIn_defined hids⟩
    · rename_i hmask
      cases h
      exact ⟨rfl, hd.resolve_right hmask⟩
  | station scope hold lastButton sequence =>
    unfold takeDevice at h
    dsimp only at h
    split at h
    · split at h
      · rename_i hscope
        cases h
        simp only [scopeOk, Bool.and_eq_true] at hscope
        obtain ⟨⟨⟨_, hdefined⟩, _⟩, _⟩ := hscope
        exact ⟨rfl, hdefined⟩
      · cases h
    · rename_i hmask
      cases h
      exact ⟨rfl, hd.resolve_right hmask⟩

/-- R18: the inputs after an act refer to segments that were defined before it. -/
theorem InputsChange.refs (h : InputsChange s t) (hs : ∀ e ∈ s.inputs, deviceRefsOk s e.2.device = true) :
    ∀ e ∈ t.inputs, deviceRefsOk s e.2.device = true := by
  cases h with
  | moves h =>
    intro e he
    obtain ⟨n, hn, hmoves⟩ := h.records e he
    rw [(inputMoves_sameRefs hmoves).2 s]
    exact hs _ hn
  | enrolled body a k d clamped interval missLimit haddr hnone hcomplete hdevice heq =>
    rw [heq]
    refine tabPut_forall hs (takeDevice_refs hdevice ?_).2
    cases k with
    | photo => exact .inl rfl
    | presence => exact .inr hcomplete
    | station => exact .inr hcomplete
  | amended body a n d clamped interval missLimit hn hdevice heq =>
    rw [heq]
    exact tabPut_forall hs (takeDevice_refs hdevice (.inl (hs _ (mem_of_tabGet hn)))).2
  | retired a n hn hfree heq =>
    rw [heq]
    exact fun e he => hs e (mem_tabDel he)

theorem kindAt_of_get {a : Nat} {n : Input} (h : tabGet s.inputs a = some n) : kindAt s a = some (deviceKind n.device) :=
  congrArg (Option.map fun n : Input => deviceKind n.device) h

/-- R20: a photosensor that a segment names stays enrolled. -/
theorem InputsChange.photo (h : InputsChange s t) (hs : tabWf 48 s.inputs)
    (hdevices : ∀ e ∈ s.inputs, deviceRefsOk s e.2.device = true) {e : Nat × Segment} (he : e ∈ s.segs) {a : Nat}
    (ha : e.2.cfg.primary = some a ∨ e.2.cfg.secondary = some a) (hphoto : (photoOf s a).isSome = true) :
    (photoOf t a).isSome = true := by
  rw [photoOf_isSome_iff] at hphoto ⊢
  cases h with
  | moves h => exact kindAt_of_sameRefs hs (h.mono inputMoves_sameRefs) a .photo hphoto
  | enrolled body b k d clamped interval missLimit haddr hnone hcomplete hdevice heq =>
    have hab : a ≠ b := by
      rintro rfl
      simp [kindAt, hnone] at hphoto
    rwa [heq, kindAt, input?_putInput_ne _ _ hab]
  | amended body b n d clamped interval missLimit hn hdevice heq =>
    by_cases hab : a = b
    · subst hab
      have hkind := kindAt_of_get hn
      have hnew : tabGet t.inputs a = some (amendedInput n d interval missLimit) := by rw [heq, tabGet_put_self]
      rw [kindAt_of_get hnew, ← hphoto, hkind]
      exact congrArg some (takeDevice_refs hdevice (.inl (hdevices _ (mem_of_tabGet hn)))).1
    · rwa [kindAt, input?, heq, tabGet_put_ne _ _ hab]
  | retired b n hn hfree heq =>
    have hab : a ≠ b := by
      rintro rfl
      rw [kindAt_of_get hn, Option.some.injEq] at hphoto
      have hnamed : namedAsSensor s a = true := List.any_eq_true.mpr ⟨e, he, by simpa using ha⟩
      rw [hfree hphoto] at hnamed
      cases hnamed
    rwa [kindAt, input?, heq, tabGet_del_ne _ hab]

/-- The acts on the records keep every reference valid. -/
theorem RecordAct.refsOk (h : RecordAct s t) (ht : TablesOk s) (hs : RefsOk s) : RefsOk t := by
  obtain ⟨_, hsegs, hinputs⟩ := ht
  cases h.segsChange with
  | moves hmoves =>
    obtain ⟨_, _, _, hdevices, hscopes⟩ := id hs
    exact refsOk_of_cfgs hs (hmoves.keepsTabWf hsegs) (sameCfgs_of_settings hsegs hmoves.settings) h.recordsOnly.fixtures.1
      (fun e he a ha => h.inputsChange.photo hinputs hdevices he ha) (h.inputsChange.refs hdevices)
      (h.listChange.scopes hsegs hscopes)
  | defined body i hid hnone hrow henums hrefs heq =>
    rw [heq]
    exact refsOk_defineSeg hs hsegs hid hnone henums hrefs
  | amended body i g clear hg henums hrefs hlinked heq =>
    rw [heq]
    exact refsOk_amendSeg clear hs hsegs hg henums hrefs hlinked
  | retired i href heq =>
    rw [heq]
    exact refsOk_retireSeg hs hsegs href

/-! ## The luminaires -/

/-- R8: no two luminaires share a position. -/
def PlacesApart (l m : Luminaire) : Prop := l.place = none ∨ l.place ≠ m.place

theorem PlacesApart.symm {l m : Luminaire} (h : PlacesApart l m) : PlacesApart m l := by
  by_cases hm : m.place = none
  · exact .inl hm
  · exact .inr fun heq => h.elim (fun hl => hm (heq.trans hl)) fun hne => hne heq.symm

/-- The references after an act on the luminaires and the fixture lines. -/
theorem refsOk_of_lums (hs : RefsOk s) (h : LumsOnly s t) (hplaces : ∀ e ∈ t.lums, placeOk s e.2.place = true)
    (hapart : t.lums.Pairwise fun a b => PlacesApart a.2 b.2) : RefsOk t := by
  obtain ⟨_, _, hfits, hdevices, hscopes⟩ := hs
  obtain ⟨hsegs, hlist, hinputs, _⟩ := h.records
  have hdefined (i : Nat) : segDefined t i = segDefined s i := by rw [segDefined, seg?, hsegs]; rfl
  refine ⟨fun e he => ?_, hapart, fun e he => ?_, fun e he => ?_, fun o ho => ?_⟩
  · rw [placeOk_congr hdefined]
    exact hplaces e he
  · obtain ⟨hpos, hle, hrefs⟩ := hfits e (hsegs ▸ he)
    refine ⟨hpos, hle, refsFit_keeps hrefs (fun o _ => ?_) fun a _ hphoto => ?_⟩
    · rw [seg?, hsegs]
      rfl
    · rwa [photoOf, input?, hinputs]
  · rw [deviceRefsOk_congr hdefined]
    exact hdevices e (hinputs ▸ he)
  · rw [hdefined]
    exact hscopes o (hlist ▸ ho)

/-- Where the luminaires keep their assignments, they stay valid and apart. -/
theorem places_of_moves (hs : RefsOk s) (ht : tabWf 128 s.lums) (h : LumsBy LumMoves s t) :
    (∀ e ∈ t.lums, placeOk s e.2.place = true) ∧ t.lums.Pairwise fun a b => PlacesApart a.2 b.2 := by
  obtain ⟨hplaces, hapart, _⟩ := hs
  constructor
  · intro e he
    obtain ⟨l, hl, hmoves⟩ := h.records e he
    rw [lumMoves_place hmoves]
    exact hplaces _ hl
  · refine (pairwise_iff_get (R := PlacesApart) (fun _ _ => PlacesApart.symm) (h.keepsTabWf ht).1).mpr ?_
    intro i j v w hv hw hne
    obtain ⟨l, hl, hlv⟩ := h.get_some ht hv
    obtain ⟨m, hm, hmw⟩ := h.get_some ht hw
    have := (pairwise_iff_get (R := PlacesApart) (fun _ _ => PlacesApart.symm) ht.1).mp hapart i j l m hl hm hne
    rwa [PlacesApart, lumMoves_place hlv, lumMoves_place hmw]

theorem refsOk_of_lumMoves (hs : RefsOk s) (ht : tabWf 128 s.lums) (h : LumsOnly s t) (hmoves : LumsBy LumMoves s t) :
    RefsOk t := refsOk_of_lums hs h (places_of_moves hs ht hmoves).1 (places_of_moves hs ht hmoves).2

/-- R8: a luminaire put at a position that no other one holds. -/
theorem refsOk_putLum {k : Nat} {l : Luminaire} (hs : RefsOk s) (ht : tabWf 128 (putLum k l s).lums)
    (hplace : placeOk s l.place = true) (hfree : ∀ p ∈ l.place, positionHeld s k p = false) : RefsOk (putLum k l s) := by
  obtain ⟨hplaces, hapart, _⟩ := id hs
  refine refsOk_of_lums hs rfl (tabPut_forall hplaces hplace) ?_
  refine ht.1.imp_of_mem fun {x y} hx hy hlt => ?_
  have hnew {e : Nat × Luminaire} (he : e ∈ s.lums) (hne : e.1 ≠ k) : PlacesApart l e.2 := by
    cases hl : l.place with
    | none => exact .inl hl
    | some p =>
      refine .inr fun heq => ?_
      have hheld : positionHeld s k p = true := List.any_eq_true.mpr ⟨e, he, by simp [hne, ← heq, hl]⟩
      rw [hfree p hl] at hheld
      cases hheld
  rcases mem_tabPut hx with rfl | hx <;> rcases mem_tabPut hy with rfl | hy
  · exact absurd hlt (Nat.lt_irrefl _)
  · exact hnew hy (Nat.ne_of_gt hlt)
  · exact (hnew hx (Nat.ne_of_lt hlt)).symm
  · exact pairwise_of_mem (R := fun a b : Nat × Luminaire => PlacesApart a.2 b.2) (fun _ _ => PlacesApart.symm) hapart hx hy
      fun heq => Nat.ne_of_lt hlt (congrArg Prod.fst heq)

/-- R8, R9: the assignment that a request gives is valid. -/
theorem amendedPlace_ok {l : Luminaire} {f : LumFields} {place : Option Place} (h : amendedPlace s l f = .ok place)
    (hl : placeOk s l.place = true) : placeOk s place = true := by
  have hat {g p : Nat} (hg : segDefined s g = true)
      (h : (if p ≤ 15 then .ok (some ⟨g, p⟩) else .error .badField : Except Status (Option Place)) = .ok place) :
      placeOk s place = true := by
    split at h
    · rename_i hp
      cases h
      simp [placeOk, hg, hp]
    · cases h
  unfold amendedPlace at h
  dsimp only at h
  split at h
  · cases h
    exact hl
  · split at h
    · rename_i q hq
      rw [hq] at hl
      simp only [placeOk, Bool.and_eq_true] at hl
      exact hat hl.1 h
    · cases h
  · split at h
    · split at h
      · cases h
        rfl
      · cases h
    · split at h
      · rename_i hb
        split at h
        · exact hat hb.2 h
        · cases h
      · cases h

/-- R7: a request without segment and position keeps the assignment. -/
theorem amendedPlace_uncarried {l : Luminaire} {f : LumFields} {place : Option Place}
    (hcarried : ¬(f.segment.isSome = true ∨ f.position.isSome = true)) (h : amendedPlace s l f = .ok place) :
    place = l.place := by
  simp only [not_or, Bool.not_eq_true, Option.isSome_eq_false_iff, Option.isNone_iff_eq_none] at hcarried
  simp only [amendedPlace, hcarried.1, hcarried.2, Except.ok.injEq] at h
  exact h.symm

/-- R8: the position of a luminaire is held by no other one. -/
theorem not_positionHeld {k : Nat} {l : Luminaire} {p : Place}
    (hapart : s.lums.Pairwise fun a b => PlacesApart a.2 b.2) (hl : lum? s k = some l) (hp : l.place = some p) :
    positionHeld s k p = false := by
  refine List.any_eq_false.mpr fun e he => ?_
  simp only [Bool.and_eq_true, bne_iff_ne, beq_iff_eq, not_and]
  intro hne heq
  have happart := pairwise_of_mem (R := fun a b : Nat × Luminaire => PlacesApart a.2 b.2) (fun _ _ => PlacesApart.symm)
    hapart he (mem_of_tabGet hl) fun h => hne (congrArg Prod.fst h)
  exact happart.elim (fun hnone => by simp [hnone] at heq) fun hne => hne (heq.trans hp.symm)

theorem LumsOnly.of_putLum {k : Nat} {l : Luminaire} (h : LumsOnly s t) : LumsOnly (putLum k l s) t := by
  unfold LumsOnly at *
  rw [h]
  rfl

/-- The acts on the luminaires keep every reference valid. -/
theorem FixtureAct.refsOk (h : FixtureAct s t) (ht : tabWf 128 s.lums) (hs : RefsOk s) : RefsOk t := by
  cases h.lumsChange with
  | sends hmoves => exact refsOk_of_lumMoves hs ht h.lumsOnly hmoves.moves
  | enrolled f k hkey hnone heq =>
    rw [heq]
    exact refsOk_putLum hs (tabWf_put ht hkey) rfl nofun
  | amended f k l place hl hplace hfree _ hmoves =>
    obtain ⟨hplaces, hapart, _⟩ := id hs
    have hput : tabWf 128 (putLum k (takeLumNumbers f { l with place := place }).1 s).lums :=
      tabWf_put ht (ht.2 _ (mem_of_tabGet hl))
    have hfree' : ∀ p ∈ (takeLumNumbers f { l with place := place }).1.place, positionHeld s k p = false := by
      intro p hp
      by_cases hcarried : f.segment.isSome = true ∨ f.position.isSome = true
      · have hheld := hfree hcarried
        rwa [show place = some p from hp, Option.map_some, Option.getD_some] at hheld
      · have hkept := amendedPlace_uncarried hcarried hplace
        exact not_positionHeld hapart hl (hkept.symm.trans hp)
    have hnew := refsOk_putLum hs hput (amendedPlace_ok hplace (hplaces _ (mem_of_tabGet hl))) hfree'
    exact refsOk_of_lumMoves hnew hput h.lumsOnly.of_putLum hmoves
  | retired k heq =>
    obtain ⟨hplaces, hapart, _⟩ := id hs
    refine refsOk_of_lums hs h.lumsOnly ?_ ?_ <;> rw [heq]
    · exact fun e he => hplaces e (mem_tabDel he)
    · exact hapart.filter _

/-! ## Every act -/

theorem refsOk_tickAll (ht : TablesOk s) (hs : RefsOk s) : RefsOk (tickAll s) := by
  obtain ⟨_, _, _, hdevices, hscopes⟩ := id hs
  have hsegs : SegsBy SameSettings s (tickAll s) := tabBy_map (fun _ => ⟨rfl, rfl⟩) s.segs
  have hinputs : InputsBy SameRefs s (tickAll s) := tabBy_map tickInput_device s.inputs
  refine refsOk_of_cfgs hs (hsegs.keepsTabWf ht.2.1) (sameCfgs_of_settings ht.2.1 hsegs) rfl (fun _ _ a _ hp => ?_)
    (fun e he => ?_) hscopes
  · rw [photoOf_isSome_iff] at hp ⊢
    exact kindAt_of_sameRefs ht.2.2 hinputs a .photo hp
  · obtain ⟨n, hn, hsame⟩ := hinputs.records e he
    rw [hsame.2 s]
    exact hdevices _ hn

/-- R130: a minute event changes the tallies of the segments alone. -/
theorem addTallies_by (s : State) :
    SegsBy (fun g u => ∃ n ≤ Config.tallyMax, u = { g with tally := n }) s (addTallies s) where
  keys _ := by simp [addTallies, Function.comp_def]
  records e he := by
    obtain ⟨x, hx, rfl⟩ := List.mem_map.mp he
    exact ⟨x.2, hx, _, min_le_left _ _, rfl⟩

theorem refsOk_addTallies (ht : TablesOk s) (hs : RefsOk s) : RefsOk (addTallies s) := by
  obtain ⟨_, _, _, hdevices, hscopes⟩ := id hs
  have hsegs : SegsBy (fun g u => u.cfg = g.cfg) s (addTallies s) :=
    (addTallies_by s).mono fun ⟨_, _, heq⟩ => by rw [heq]
  exact refsOk_of_cfgs hs (hsegs.keepsTabWf ht.2.1) (sameCfgs_of_by ht.2.1 hsegs) rfl (fun _ _ _ _ hp => hp) hdevices hscopes

theorem refsOk_warmBlocks (ht : TablesOk s) (hs : RefsOk s) : RefsOk (warmBlocks s) := by
  obtain ⟨_, _, _, hdevices, _⟩ := id hs
  have hsegs : SegsBy (fun g u => u.cfg = g.cfg) s { warmBlocks s with lums := s.lums } :=
    tabBy_map (warmSeg_cfg s.composer) s.segs
  have hinputs : InputsBy SameRefs s { warmBlocks s with lums := s.lums } := tabBy_map (warmInput_device _) s.inputs
  have hkept : RefsOk { warmBlocks s with lums := s.lums } := by
    refine refsOk_of_cfgs hs (hsegs.keepsTabWf ht.2.1) (sameCfgs_of_by ht.2.1 hsegs) rfl (fun _ _ a _ hp => ?_)
      (fun e he => ?_) (List.forall_mem_nil _)
    · rw [photoOf_isSome_iff] at hp ⊢
      exact kindAt_of_sameRefs ht.2.2 hinputs a .photo hp
    · obtain ⟨n, hn, hsame⟩ := hinputs.records e he
      rw [hsame.2 s]
      exact hdevices _ hn
  exact refsOk_of_lumMoves hkept ht.1 rfl (tabBy_map (fun _ => .single (.send .warmed)) s.lums)

theorem refsOk_keptByParts : KeptByParts fun s => TablesOk s ∧ RefsOk s where
  record h hs := ⟨h.tablesOk hs.1, h.refsOk hs.1 hs.2⟩
  recompose k s hs :=
    ⟨tablesOk_keptByParts.recompose k hs.1,
      refsOk_of_lumMoves hs.2 hs.1.1 (recomposeLum_lumsOnly k s) (recomposeLum_by k s)⟩
  fixture h hs := ⟨tablesOk_keptByParts.fixture h hs.1, h.refsOk hs.1.1 hs.2⟩
  recapped _ _ _ _ hs := hs
  captured hs := hs
  ticked hs := ⟨tablesOk_keptByParts.ticked hs.1, refsOk_tickAll hs.1 hs.2⟩
  tallied hs := ⟨tablesOk_keptByParts.tallied hs.1, refsOk_addTallies hs.1 hs.2⟩
  holdsTaken hs := hs
  drew _ hs := hs
  portSet _ hs := hs
  warmBlocks hs := ⟨tablesOk_keptByParts.warmBlocks hs.1, refsOk_warmBlocks hs.1 hs.2⟩
  raiseOnce i s hs :=
    ⟨tablesOk_keptByParts.raiseOnce i hs.1,
      refsOk_segsOnly hs.2 hs.1.2.1 (raiseOnce_segsOnly i s) (raiseOnce_by i s).live.moves.settings⟩
  composeAll {s} hs := ⟨tablesOk_keptByParts.composeAll hs.1, refsOk_of_lumMoves hs.2 hs.1.1 rfl (composeAll_by s)⟩
  refresh i s hrunning hs :=
    ⟨tablesOk_keptByParts.refresh i hrunning hs.1,
      refsOk_of_lumMoves hs.2 hs.1.1 (fullRefresh_lumsOnly i s) (lumsBy_of_lums (fullRefresh_lums i s))⟩
  coldReset low _ := ⟨tablesOk_cold low _, refsOk_cold low _⟩

/-- Settles O12, by what each act does to the ids, the rows, the kinds and the assignments. -/
theorem referencesStayValid : Obligations.ReferencesStayValid :=
  refsOk_keptByParts.keptUnder fun _ _ h => h

end Refs

end Sys2Proof.Machine
end

section
/-! SUPPORT. The laws of the level queues and the confirm lists (R136, R138, R147). -/

namespace Sys2Proof.Machine

/-- R136, R138: the law of a line, and, where `aw` holds, that the luminaires in its confirm list are AWAITING. -/
structure LineFits (aw : Prop) (s : State) (i : LineId) (l : FixtureLine) : Prop where
  queueNodup : (l.queue.map (·.key)).Nodup
  queueOn : ∀ e ∈ l.queue, enrolledAt s i e.key = true
  confirmNodup : l.confirm.Nodup
  confirmOn : ∀ k ∈ l.confirm, enrolledAt s i k = true
  awaiting : aw → ∀ k ∈ l.confirm, awaitingAt s k = true
  slotOn : ∀ k ∈ l.slot, enrolledAt s i k = true
  flightOn : ∀ f ∈ l.flight, keyLine f.key = i
  downEmpty : l.state = .down → l.queue = [] ∧ l.confirm = [] ∧ l.slot = none ∧ l.flight = none

/-- R136, R138: the law of both lines. -/
def LinesFit (aw : Prop) (s : State) : Prop := ∀ i, LineFits aw s i (lineOf i s)

theorem linesFit_iff {aw : Prop} {s : State} : LinesFit aw s ↔ LinesOk s ∧ (aw → AwaitingOk s) := by
  constructor
  · intro h
    obtain ⟨a1, a2, a3, a4, a5, a6, a7, a8⟩ := h .a
    obtain ⟨b1, b2, b3, b4, b5, b6, b7, b8⟩ := h .b
    exact ⟨⟨⟨a1, a2, a3, a4, a6, a7, a8⟩, ⟨b1, b2, b3, b4, b6, b7, b8⟩⟩, fun haw => ⟨a5 haw, b5 haw⟩⟩
  · rintro ⟨⟨⟨a1, a2, a3, a4, a6, a7, a8⟩, ⟨b1, b2, b3, b4, b6, b7, b8⟩⟩, h5⟩ i
    cases i
    · exact ⟨a1, a2, a3, a4, fun haw => (h5 haw).1, a6, a7, a8⟩
    · exact ⟨b1, b2, b3, b4, fun haw => (h5 haw).2, b6, b7, b8⟩

section Lines

variable {aw : Prop} {s t : State} {i : LineId} {k : Nat} {l : FixtureLine}

theorem enrolledAt_iff : enrolledAt s i k = true ↔ keyLine k = i ∧ (lum? s k).isSome = true := by
  simp [enrolledAt]

/-! ## What each act makes of a line -/

/-- R140: the arbiter's choice. -/
theorem LineFits.choose (h : LineFits aw s i l) : LineFits aw s i (chooseFrame l) := by
  unfold chooseFrame
  split
  · rename_i hidle
    have hup : l.state ≠ .down := by rw [hidle.1]; nofun
    obtain ⟨hqueue, hqueueOn, hconfirm, hconfirmOn, hawaiting, hslot, hflight, hdown⟩ := h
    split
    · rename_i e q heq
      rw [heq] at hqueue hqueueOn
      refine ⟨(List.nodup_cons.mp hqueue).2, fun x hx => hqueueOn x (List.mem_cons_of_mem _ hx), hconfirm, hconfirmOn,
        hawaiting, hslot, fun f hf => ?_, fun hd => absurd hd hup⟩
      cases hf
      exact (enrolledAt_iff.mp (hqueueOn e List.mem_cons_self)).1
    · rename_i k c heq hceq
      rw [hceq] at hconfirm hconfirmOn hawaiting
      refine ⟨hqueue, hqueueOn, (List.nodup_cons.mp hconfirm).2, fun x hx => hconfirmOn x (List.mem_cons_of_mem _ hx),
        fun haw x hx => hawaiting haw x (List.mem_cons_of_mem _ hx), hslot, fun f hf => ?_, fun hd => absurd hd hup⟩
      cases hf
      exact (enrolledAt_iff.mp (hconfirmOn k List.mem_cons_self)).1
    · rename_i k heq hceq hkeq
      refine ⟨hqueue, hqueueOn, hconfirm, hconfirmOn, hawaiting, nofun, fun f hf => ?_, fun hd => absurd hd hup⟩
      cases hf
      exact (enrolledAt_iff.mp (hslot k hkeq)).1
    · exact ⟨hqueue, hqueueOn, hconfirm, hconfirmOn, hawaiting, hslot, hflight, hdown⟩
  · exact h

/-- R136: an entry that joins. -/
theorem LineFits.queued (h : LineFits aw s i l) (hk : enrolledAt s i k = true) (hup : l.state = .running) (code : Nat) :
    LineFits aw s i { l with queue := coalesce l.queue k code } where
  queueNodup := by
    rw [coalesce_keys]
    split
    · exact h.queueNodup
    · rename_i hnew
      refine List.nodup_append.mpr ⟨h.queueNodup, List.nodup_singleton k, fun x hx y hy heq => hnew ?_⟩
      rw [List.mem_singleton.mp hy] at heq
      obtain ⟨e, he, rfl⟩ := List.mem_map.mp hx
      exact List.any_eq_true.mpr ⟨e, he, by simpa using heq⟩
  queueOn e he := by
    rcases mem_coalesce he with he | ⟨rfl, _⟩
    · exact h.queueOn e he
    · exact hk
  confirmNodup := h.confirmNodup
  confirmOn := h.confirmOn
  awaiting := h.awaiting
  slotOn := h.slotOn
  flightOn := h.flightOn
  downEmpty hd := by cases hup.symm.trans hd

/-- R138: a luminaire that joins the confirm list of a line that is RUNNING. -/
theorem LineFits.confirmed (h : LineFits aw s i l) (hk : enrolledAt s i k = true) (ha : awaitingAt s k = true)
    (hup : l.state = .running) (hnew : k ∉ l.confirm) : LineFits aw s i { l with confirm := l.confirm ++ [k] } where
  queueNodup := h.queueNodup
  queueOn := h.queueOn
  confirmNodup := List.nodup_append.mpr ⟨h.confirmNodup, List.nodup_singleton k, fun x hx y hy heq => by
    rw [List.mem_singleton.mp hy] at heq
    exact hnew (heq ▸ hx)⟩
  confirmOn x hx := by
    rcases List.mem_append.mp hx with hx | hx
    · exact h.confirmOn x hx
    · rwa [List.mem_singleton.mp hx]
  awaiting haw x hx := by
    rcases List.mem_append.mp hx with hx | hx
    · exact h.awaiting haw x hx
    · rwa [List.mem_singleton.mp hx]
  slotOn := h.slotOn
  flightOn := h.flightOn
  downEmpty hd := by cases hup.symm.trans hd

/-- R139: the scan slot of a RUNNING line filled. -/
theorem LineFits.slotted (h : LineFits aw s i l) (hk : enrolledAt s i k = true) (hup : l.state = .running) (mark : Option Nat) :
    LineFits aw s i { l with slot := some k, mark := mark } where
  queueNodup := h.queueNodup
  queueOn := h.queueOn
  confirmNodup := h.confirmNodup
  confirmOn := h.confirmOn
  awaiting := h.awaiting
  slotOn x hx := by
    cases hx
    exact hk
  flightOn := h.flightOn
  downEmpty hd := by cases hup.symm.trans hd

/-- A line with less waiting or in flight, its pin and its scan mark aside. -/
theorem LineFits.less {m : FixtureLine} (h : LineFits aw s i l) (hqueue : m.queue.Sublist l.queue)
    (hconfirm : m.confirm.Sublist l.confirm) (hslot : ∀ k ∈ m.slot, k ∈ l.slot)
    (hflight : ∀ f ∈ m.flight, ∃ g ∈ l.flight, g.key = f.key) (hstate : m.state = l.state) : LineFits aw s i m where
  queueNodup := h.queueNodup.sublist (hqueue.map _)
  queueOn e he := h.queueOn e (hqueue.subset he)
  confirmNodup := h.confirmNodup.sublist hconfirm
  confirmOn k hk := h.confirmOn k (hconfirm.subset hk)
  awaiting haw k hk := h.awaiting haw k (hconfirm.subset hk)
  slotOn k hk := h.slotOn k (hslot k hk)
  flightOn f hf := by
    obtain ⟨g, hg, heq⟩ := hflight f hf
    exact heq ▸ h.flightOn g hg
  downEmpty hd := by
    obtain ⟨hq, hc, hs, hf⟩ := h.downEmpty (hstate ▸ hd)
    rw [hq] at hqueue
    rw [hc] at hconfirm
    refine ⟨List.sublist_nil.mp hqueue, List.sublist_nil.mp hconfirm, ?_, ?_⟩
    · rw [hs] at hslot
      exact Option.eq_none_iff_forall_not_mem.mpr fun k hk => absurd (hslot k hk) (Option.not_mem_none k)
    · rw [hf] at hflight
      refine Option.eq_none_iff_forall_not_mem.mpr fun f hm => ?_
      obtain ⟨g, hg, _⟩ := hflight f hm
      cases hg

/-- A line without entries. -/
theorem lineFits_empty (hqueue : l.queue = []) (hconfirm : l.confirm = []) (hslot : l.slot = none)
    (hflight : ∀ f ∈ l.flight, keyLine f.key = i) (hdown : l.state = .down → l.flight = none) : LineFits aw s i l where
  queueNodup := by rw [hqueue]; exact .nil
  queueOn := by rw [hqueue]; exact List.forall_mem_nil _
  confirmNodup := by rw [hconfirm]; exact .nil
  confirmOn := by rw [hconfirm]; exact List.forall_mem_nil _
  awaiting _ := by rw [hconfirm]; exact List.forall_mem_nil _
  slotOn := by rw [hslot]; exact fun k hk => absurd hk (Option.not_mem_none k)
  flightOn := hflight
  downEmpty hd := ⟨hqueue, hconfirm, hslot, hdown hd⟩

/-- A line names a luminaire in its level queue, in its confirm list or in its scan slot. -/
def LineNames (l : FixtureLine) (k : Nat) : Prop := k ∈ l.queue.map (·.key) ∨ k ∈ l.confirm ∨ k ∈ l.slot

/-- What the records of the luminaires give a line: those that it names are enrolled, those in its confirm list AWAITING. -/
theorem LineFits.of_lums (h : LineFits aw s i l)
    (hk : ∀ k, LineNames l k → enrolledAt s i k = true → enrolledAt t i k = true)
    (ha : ∀ k ∈ l.confirm, awaitingAt s k = true → awaitingAt t k = true) : LineFits aw t i l where
  queueNodup := h.queueNodup
  queueOn e he := hk _ (.inl (List.mem_map_of_mem he)) (h.queueOn e he)
  confirmNodup := h.confirmNodup
  confirmOn k hc := hk k (.inr (.inl hc)) (h.confirmOn k hc)
  awaiting haw k hc := ha k hc (h.awaiting haw k hc)
  slotOn k hs := hk k (.inr (.inr hs)) (h.slotOn k hs)
  flightOn := h.flightOn
  downEmpty := h.downEmpty

/-! ## What each act makes of the lines -/

theorem LinesFit.of_same (h : LinesFit aw s) (hlums : t.lums = s.lums) (hlines : ∀ i, lineOf i t = lineOf i s) : LinesFit aw t := by
  intro i
  rw [hlines]
  refine (h i).of_lums (fun k _ hk => ?_) fun k _ hk => ?_
  · rwa [enrolledAt, lum?, hlums]
  · rwa [awaitingAt, lum?, hlums]

theorem LinesFit.putLine (h : LinesFit aw s) (hl : LineFits aw s i l) : LinesFit aw (putLine i l s) := by
  intro j
  have hfits : LineFits aw s j (lineOf j (Machine.putLine i l s)) := by
    rw [lineOf_putLine]
    split
    · subst_vars
      exact hl
    · exact h j
  exact hfits.of_lums (fun k _ hk => by simpa [enrolledAt] using hk) fun k _ hk => by simpa [awaitingAt] using hk

/-- A record put in place of another one, AWAITING where that one was and a confirm list names it. -/
theorem LinesFit.putLum {m new : Luminaire} (h : LinesFit aw s) (hm : lum? s k = some m)
    (ha : k ∈ (lineOf (keyLine k) s).confirm → m.confirmation = .awaiting → new.confirmation = .awaiting) :
    LinesFit aw (putLum k new s) := by
  intro j
  rw [lineOf_putLum]
  refine (h j).of_lums (fun x _ hx => ?_) fun x hc hx => ?_
  · rw [enrolledAt_iff] at hx ⊢
    refine ⟨hx.1, ?_⟩
    rw [lum?_putLum]
    split
    · rfl
    · exact hx.2
  · by_cases hxk : x = k
    · subst hxk
      obtain rfl := (enrolledAt_iff.mp ((h j).confirmOn x hc)).1
      simp only [awaitingAt, hm, Option.any_some, beq_iff_eq] at hx
      simpa [awaitingAt] using ha hc hx
    · rwa [awaitingAt, lum?_putLum_ne _ _ hxk]

theorem LinesFit.arbitrate (h : LinesFit aw s) (i : LineId) : LinesFit aw (arbitrate i s) := h.putLine (h i).choose

theorem LinesFit.enqueue (h : LinesFit aw s) (hk : (lum? s k).isSome = true) (code : Nat) : LinesFit aw (enqueue k code s) := by
  unfold Machine.enqueue
  dsimp only
  split
  · rename_i hup
    exact h.putLine ((h _).queued (enrolledAt_iff.mpr ⟨rfl, hk⟩) hup code)
  · exact h

/-- R138: an AWAITING luminaire joins the confirm list of its line. -/
theorem LinesFit.joinConfirm (h : LinesFit aw s) (hup : (lineOf i s).state = .running) (hk : enrolledAt s i k = true)
    (ha : awaitingAt s k = true) : LinesFit aw (joinConfirm i k s) := by
  unfold Machine.joinConfirm
  dsimp only
  split
  · exact h
  · rename_i hnew
    exact h.putLine ((h i).confirmed hk ha hup (by simpa using hnew))

/-- The frame in flight is over. -/
theorem LinesFit.clearFlight (h : LinesFit aw s) (i : LineId) : LinesFit aw (clearFlight i s) :=
  h.putLine ((h i).less (.refl _) (.refl _) (fun _ hk => hk) nofun rfl)

theorem LinesFit.handOver (h : LinesFit aw s) {m : Luminaire} (hm : lum? s k = some m) (code : Nat) :
    LinesFit aw (handOver k code s) := by
  unfold Machine.handOver
  rw [onLum_some hm]
  refine LinesFit.arbitrate (LinesFit.enqueue
    (h.putLum (new := { m with unconfirmed := false, mismatchCount := 0 }) hm fun _ hm => hm) ?_ code) _
  rw [lum?_putLum_self]
  rfl

theorem LinesFit.recomposeLum (h : LinesFit aw s) (k : Nat) : LinesFit aw (recomposeLum k s) := by
  unfold Machine.recomposeLum
  refine onLum_rel (R := fun _ t => LinesFit aw t) h fun m hm => ?_
  split
  · exact h
  · refine onSeg_rel (R := fun _ t => LinesFit aw t) h fun g _ => ?_
    dsimp only
    have hput := h.putLum (new := { m with composed := some (composeFrom m g.effCap (requestedLevel s g ‹_›)) }) hm
      fun _ hm => hm
    split
    · exact hput
    · exact hput.handOver (lum?_putLum_self _ _ _) _

theorem LinesFit.fullRefresh (h : LinesFit aw s) (i : LineId) : LinesFit aw (fullRefresh i s) := by
  refine LinesFit.arbitrate (forEach_keeps (P := LinesFit aw) (fun k _ t ht => ?_) h) i
  refine onLum_rel (R := fun _ t => LinesFit aw t) ht fun m hm => ?_
  cases m.place <;> cases m.composed
  case some.some c => exact ht.enqueue (by rw [hm]; rfl) c.code
  all_goals exact ht

theorem LinesFit.flagFloor (h : LinesFit aw s) : LinesFit aw (flagFloor s) := h.of_same rfl fun i => lineOf_flagFloor i s

theorem LinesFit.leaveConfirm (h : LinesFit aw s) (i : LineId) (k : Nat) : LinesFit aw (leaveConfirm i k s) :=
  h.putLine ((h i).less (.refl _) List.filter_sublist (fun _ hk => hk) (fun f hf => ⟨f, hf, rfl⟩) rfl)

/-- R147: a line goes DOWN. -/
theorem LinesFit.goDown (h : LinesFit aw s) (i : LineId) : LinesFit aw (goDown i s) := by
  refine LinesFit.flagFloor (LinesFit.putLine ?_ (lineFits_empty rfl rfl rfl nofun fun _ => rfl))
  refine forEach_keeps (P := LinesFit aw) (fun k _ t ht => ?_) h
  exact onLum_rel (R := fun _ t => LinesFit aw t) ht fun m hm => ht.putLum hm fun _ hm => hm

theorem enrolledAt_of_mem (h : k ∈ enrolledOn i s) : enrolledAt s i k = true := by
  obtain ⟨hkey, hline⟩ := List.mem_filter.mp h
  exact enrolledAt_iff.mpr ⟨by simpa using hline, tabGet_isSome_iff.mpr hkey⟩

theorem mem_enrolledOn_of_nextScan (h : nextScan i s = some k) : k ∈ enrolledOn i s := by
  unfold nextScan at h
  dsimp only at h
  split at h
  · exact List.mem_of_mem_head? h
  · rcases (Option.orElse_eq_some _ _ _).mp h with h | ⟨_, h⟩
    · exact List.mem_of_find?_eq_some h
    · exact List.mem_of_mem_head? h

theorem LinesFit.fillScanSlot (h : LinesFit aw s) (i : LineId) : LinesFit aw (fillScanSlot i s) := by
  unfold Machine.fillScanSlot
  split
  · rename_i hfills
    split
    · rename_i k hk
      simp only [scanFills, Bool.and_eq_true, beq_iff_eq] at hfills
      exact (h.putLine ((h i).slotted (enrolledAt_of_mem (mem_enrolledOn_of_nextScan hk)) hfills.1.1 _)).arbitrate i
    · exact h
  · exact h

theorem LinesFit.levelEnded (h : LinesFit aw s) (code : Nat) {retired : Bool} 
    (hup : (lineOf i s).state = .running) (hk : keyLine k = i) : LinesFit aw (levelEnded i code k retired s) := by
  unfold Machine.levelEnded
  split
  · exact h
  · refine onLum_rel (R := fun _ t => LinesFit aw t) h fun m hm => ?_
    have hput := h.putLum (new := { m with sentCode := some code, confirmation := .awaiting }) hm fun _ _ => rfl
    dsimp only
    split
    · exact hput
    · refine hput.joinConfirm (by rwa [lineOf_putLum]) (enrolledAt_iff.mpr ⟨hk, ?_⟩) ?_
      · rw [lum?_putLum_self]
        rfl
      · rw [awaitingAt, lum?_putLum_self]
        rfl

theorem LinesFit.queryMissed (h : LinesFit aw s) (kind : FrameKind) 
    (hup : (lineOf i s).state = .running) (hk : keyLine k = i) : LinesFit aw (queryMissed i kind k s) := by
  refine onLum_rel (R := fun _ t => LinesFit aw t) h fun m hm => ?_
  have hput := h.putLum (new := unanswered m) hm fun _ hm => hm
  dsimp only
  split
  · rename_i hrejoins
    refine hput.joinConfirm (by rwa [lineOf_putLum]) (enrolledAt_iff.mpr ⟨hk, ?_⟩) ?_
    · rw [lum?_putLum_self]
      rfl
    · rw [awaitingAt, lum?_putLum_self]
      simpa using hrejoins.2.1
  · exact hput

/-- R142, R143: a reply settles the confirmation: a luminaire that is CONFIRMED leaves the confirm list. -/
theorem LinesFit.replied (h : LinesFit aw s) (d : DriverReply) (hk : keyLine k = i) : LinesFit aw (replied i k d s) := by
  refine onLum_rel (R := fun _ t => LinesFit aw t) h fun m hm => ?_
  dsimp only
  generalize hnew : (settleConfirmation d.echo (heardFrom d m)).1 = new
  have hput : LinesFit aw
      (if new.confirmation = .confirmed then Machine.leaveConfirm i k (Machine.putLum k (flagLumChange m new) s)
        else Machine.putLum k (flagLumChange m new) s) := by
    split
    · have hleft : k ∉ (lineOf (keyLine k) (Machine.leaveConfirm i k s)).confirm := by
        rw [hk, Machine.leaveConfirm, lineOf_putLine_self]
        simp
      refine LinesFit.of_same (s := Machine.putLum k (flagLumChange m new) (Machine.leaveConfirm i k s))
        ((h.leaveConfirm i k).putLum (by rwa [Machine.leaveConfirm, lum?_putLine]) fun hc => absurd hc hleft) ?_ fun j => ?_
      · cases i <;> rfl
      · cases i <;> cases j <;> rfl
    · rename_i hawaiting
      refine h.putLum hm fun _ _ => ?_
      cases hc : new.confirmation with
      | awaiting => exact hc
      | confirmed => exact absurd hc hawaiting
  split
  · refine hput.enqueue ?_ _
    split
    · rw [Machine.leaveConfirm, lum?_putLine, lum?_putLum_self]
      rfl
    · rw [lum?_putLum_self]
      rfl
  · exact hput

theorem forgetLum_unnamed (h : LinesFit aw s) (k : Nat) : ¬LineNames (lineOf i (forgetLum k s)) k := by
  unfold forgetLum
  dsimp only
  rw [lineOf_putLine]
  split
  · rintro (hk | hk | hk)
    · obtain ⟨e, he, heq⟩ := List.mem_map.mp hk
      simpa [heq] using (List.mem_filter.mp he).2
    · simpa using (List.mem_filter.mp hk).2
    · dsimp only at hk
      split at hk
      · cases hk
      · exact absurd hk ‹_›
  · rename_i hother
    have hon (hk : enrolledAt s i k = true) : False := hother (enrolledAt_iff.mp hk).1.symm
    rintro (hk | hk | hk)
    · obtain ⟨e, he, heq⟩ := List.mem_map.mp hk
      exact hon (heq ▸ (h i).queueOn e he)
    · exact hon ((h i).confirmOn k hk)
    · exact hon ((h i).slotOn k hk)

theorem LinesFit.forgetLum (h : LinesFit aw s) (k : Nat) : LinesFit aw (forgetLum k s) := by
  refine h.putLine ((h _).less List.filter_sublist List.filter_sublist (fun x hx => ?_) (fun f hf => ?_) rfl)
  · dsimp only at hx
    split at hx
    · cases hx
    · exact hx
  · obtain ⟨g, hg, rfl⟩ := Option.mem_map.mp hf
    exact ⟨g, hg, by split <;> rfl⟩

/-- R10: the place of a luminaire that its line does not name emptied. -/
theorem LinesFit.tabDel (h : LinesFit aw s) (hk : ∀ i, ¬LineNames (lineOf i s) k) :
    LinesFit aw { s with lums := tabDel s.lums k } := by
  intro j
  have hline : lineOf j { s with lums := Machine.tabDel s.lums k } = lineOf j s := by cases j <;> rfl
  rw [hline]
  refine (h j).of_lums (fun x hn hx => ?_) fun x hc hx => ?_
  · have hxk : x ≠ k := fun heq => hk j (heq ▸ hn)
    rw [enrolledAt_iff] at hx ⊢
    exact ⟨hx.1, by rw [lum?, tabGet_del_ne _ hxk]; exact hx.2⟩
  · have hxk : x ≠ k := fun heq => hk j (.inr (.inl (heq ▸ hc)))
    rwa [awaitingAt, lum?, tabGet_del_ne _ hxk]

/-- R6: a luminaire enrolled at a free key. -/
theorem LinesFit.putNew (h : LinesFit aw s) (hnone : lum? s k = none) (new : Luminaire) : LinesFit aw (Machine.putLum k new s) := by
  intro j
  rw [lineOf_putLum]
  have hkept {x : Nat} (hx : (lum? s x).isSome = true) : lum? (Machine.putLum k new s) x = lum? s x := by
    refine lum?_putLum_ne _ _ fun heq => ?_
    rw [heq, hnone] at hx
    cases hx
  refine (h j).of_lums (fun x _ hx => ?_) fun x hc hx => ?_
  · rw [enrolledAt_iff] at hx ⊢
    exact ⟨hx.1, by rw [hkept hx.2]; exact hx.2⟩
  · rwa [awaitingAt, hkept (enrolledAt_iff.mp ((h j).confirmOn x hc)).2]

theorem LinesFit.amendLum (h : LinesFit aw s) {old new : Luminaire} (hold : lum? s k = some old)
    (hnew : new.confirmation = old.confirmation) : LinesFit aw (amendLum k old new s) := by
  have hput (m : Luminaire) (hm : m.confirmation = old.confirmation) : LinesFit aw (Machine.putLum k m s) :=
    h.putLum hold fun _ ho => hm.trans ho
  unfold Machine.amendLum
  split
  · exact h
  · split
    · have hbared := hput { new with composed := none } hnew
      exact hbared.putLine ((hbared _).less List.filter_sublist (.refl _) (fun _ hx => hx) (fun f hf => ⟨f, hf, rfl⟩) rfl)
    · exact (hput new hnew).recomposeLum k

/-! ## Every act -/

/-- A line with a frame in flight is RUNNING. -/
theorem LineFits.running_of_flight (h : LineFits aw s i l) {f : FixtureFlight} (hf : l.flight = some f) : l.state = .running := by
  cases hstate : l.state with
  | running => rfl
  | down =>
    obtain ⟨_, _, _, hnone⟩ := h.downEmpty hstate
    cases hnone.symm.trans hf

theorem FixtureAct.linesFit (h : FixtureAct s t) (hs : LinesFit aw s) : LinesFit aw t := by
  have hended {i : LineId} {f : FixtureFlight} (hflight : (lineOf i s).flight = some f) :
      (lineOf i (clearFlight i s)).state = .running ∧ keyLine f.key = i := by
    refine ⟨?_, (hs i).flightOn f hflight⟩
    rw [clearFlight, lineOf_putLine_self]
    exact (hs i).running_of_flight hflight
  cases h with
  | enrolled f k hkey hnone => exact hs.putNew hnone _
  | amended f k l place hl => exact hs.amendLum hl rfl
  | retired k hl => exact (hs.forgetLum k).tabDel fun i => forgetLum_unnamed hs k
  | unflagged k => exact onLum_rel (R := fun _ t => LinesFit aw t) hs fun m hm => hs.putLum hm fun _ hm => hm
  | levelEnded i code k retired hflight =>
    exact ((hs.clearFlight i).levelEnded code (hended hflight).1 (hended hflight).2).arbitrate i
  | answered i kind k retired d hflight =>
    refine LinesFit.arbitrate ?_ i
    split
    · exact hs.clearFlight i
    · exact (hs.clearFlight i).replied d (hended hflight).2
  | unanswered i kind k retired hflight =>
    refine LinesFit.arbitrate ?_ i
    split
    · exact hs.clearFlight i
    · exact (hs.clearFlight i).queryMissed kind (hended hflight).1 (hended hflight).2
  | lineDown i => exact hs.goDown i
  | lineUp i hdown =>
    obtain ⟨hqueue, hconfirm, hslot, hflight⟩ := (hs i).downEmpty hdown
    have hup : LineFits aw s i { lineOf i s with state := .running } :=
      lineFits_empty hqueue hconfirm hslot (by rw [hflight]; exact fun f hf => absurd hf (Option.not_mem_none f)) nofun
    exact (LinesFit.flagFloor (hs.putLine hup)).fullRefresh i
  | pinRose i =>
    exact (hs.putLine ((hs i).less (m := { lineOf i s with rxHigh := true }) (.refl _) (.refl _) (fun _ hk => hk)
      (fun f hf => ⟨f, hf, rfl⟩) rfl)).arbitrate i
  | pinFell i => exact hs.putLine ((hs i).less (.refl _) (.refl _) (fun _ hk => hk) (fun f hf => ⟨f, hf, rfl⟩) rfl)
  | filled i => exact hs.fillScanSlot i

theorem LinesFit.sameFixtures (hs : LinesFit aw s) (h : SameFixtures s t) : LinesFit aw t := by
  obtain ⟨hlums, ha, hb⟩ := h
  exact hs.of_same hlums fun i => by cases i <;> assumption

/-- R149: a warm reset empties the collections of both lines. -/
theorem LinesFit.warmBlocks (h : LinesFit aw s) : LinesFit aw (warmBlocks s) := by
  intro i
  have hline : lineOf i (Machine.warmBlocks s) = warmLine (lineOf i s) := by cases i <;> rfl
  rw [hline]
  exact lineFits_empty rfl rfl rfl (h i).flightOn fun hd => ((h i).downEmpty hd).2.2.2

theorem LinesFit.composeAll (h : LinesFit aw s) : LinesFit aw (composeAll s) := by
  intro i
  have hline : lineOf i (Machine.composeAll s) = lineOf i s := by cases i <;> rfl
  have hcomposed (k : Nat) : lum? (Machine.composeAll s) k = (lum? s k).map (composeOnly s) := tabGet_map _ _ _
  have hconfirmation (m : Luminaire) : (composeOnly s m).confirmation = m.confirmation := by
    unfold composeOnly
    split
    · rfl
    · split <;> rfl
  rw [hline]
  refine (h i).of_lums (fun k _ hk => ?_) fun k _ hk => ?_
  · rw [enrolledAt_iff, hcomposed, Option.isSome_map]
    exact enrolledAt_iff.mp hk
  · unfold awaitingAt at hk ⊢
    rw [hcomposed]
    cases hm : lum? s k with
    | none => rwa [hm] at hk
    | some m =>
      rw [hm] at hk
      simpa [hconfirmation] using hk

theorem linesFit_keptByParts (aw : Prop) : KeptByParts (LinesFit aw) where
  record h hs := hs.sameFixtures h.recordsOnly.fixtures
  recompose k _ hs := hs.recomposeLum k
  fixture h hs := h.linesFit hs
  recapped _ _ _ _ hs := hs.sameFixtures ⟨rfl, rfl, rfl⟩
  captured hs := hs.sameFixtures ⟨rfl, rfl, rfl⟩
  ticked hs := hs.sameFixtures ⟨rfl, rfl, rfl⟩
  tallied hs := hs.sameFixtures ⟨rfl, rfl, rfl⟩
  holdsTaken hs := hs.sameFixtures ⟨rfl, rfl, rfl⟩
  drew _ hs := hs.sameFixtures ⟨rfl, rfl, rfl⟩
  portSet _ hs := hs.sameFixtures ⟨rfl, rfl, rfl⟩
  warmBlocks hs := hs.warmBlocks
  raiseOnce i s hs := hs.sameFixtures (raiseOnce_segsOnly i s).same.1
  composeAll hs := hs.composeAll
  refresh i _ _ hs := hs.fullRefresh i
  coldReset low _ := linesFit_iff.mpr ⟨linesOk_cold low _, fun _ => awaitingOk_cold low _⟩

end Lines

end Sys2Proof.Machine
end

section
/-! SUPPORT. The law of the input line (R151, R152, R160, R161), and what only a REPORTING input has (R27, R45, R90, R155,
R158). -/

namespace Sys2Proof.Machine

/-- R151, R160: the law of the input line, the enrolled addresses given. -/
structure InputLineFits (enrolled : Nat → Prop) (l : InputLine) : Prop where
  dueNodup : l.due.Nodup
  dueOn : ∀ a ∈ l.due, enrolled a
  spotFlies : ∀ r ∈ l.spotRequest, r.inFlight = true → l.flight = some (.spot r.address)
  spotAsked : ∀ a, l.flight = some (.spot a) → l.spotRequest = some ⟨a, true⟩
  liveOn : ∀ a, l.flight = some (.due a .live) → enrolled a
  downEmpty : l.state = .down → l.due = [] ∧ l.flight = none ∧ l.spotRequest = none

/-- An input is enrolled at an address. -/
def InputAt (s : State) (a : Nat) : Prop := (input? s a).isSome = true

theorem inputLineOk_iff {s : State} : InputLineOk s ↔ InputLineFits (InputAt s) s.inputLine := by
  constructor
  · rintro ⟨hnodup, hdue, hspot, hfits, hdown⟩
    refine ⟨hnodup, hdue, hspot, fun a ha => ?_, fun a ha => ?_, hdown⟩
    · simpa [flightFits, ha] using hfits
    · simpa [flightFits, ha, InputAt] using hfits
  · rintro ⟨hnodup, hdue, hflies, hasked, hlive, hdown⟩
    refine ⟨hnodup, hdue, hflies, ?_, hdown⟩
    unfold flightFits
    split
    · rename_i a ha
      simpa using hasked a ha
    · rename_i a ha
      exact hlive a ha
    · rfl

section InputLines

variable {s t : State} {p q : Nat → Prop} {l m : InputLine} {a : Nat}

theorem InputLineFits.mono (h : InputLineFits p l) (hpq : ∀ a, p a → q a) : InputLineFits q l :=
  ⟨h.dueNodup, fun a ha => hpq a (h.dueOn a ha), h.spotFlies, h.spotAsked, fun a ha => hpq a (h.liveOn a ha), h.downEmpty⟩

/-- R153: the arbiter's choice. -/
theorem InputLineFits.choose (h : InputLineFits p l) : InputLineFits p (choosePoll l) := by
  unfold choosePoll
  split
  · rename_i hidle
    obtain ⟨hup, hflight, _⟩ := hidle
    have hnotDown : l.state ≠ .down := by rw [hup]; nofun
    split
    · rename_i b hb
      refine ⟨h.dueNodup, h.dueOn, fun r hr _ => ?_, fun c hc => ?_, nofun, fun hd => absurd hd hnotDown⟩
      · cases hr
        rfl
      · cases hc
        rfl
    · rename_i b ds hdue _
      have hnodup := h.dueNodup
      have hon := h.dueOn
      rw [hdue] at hnodup hon
      refine ⟨(List.nodup_cons.mp hnodup).2, fun c hc => hon c (List.mem_cons_of_mem _ hc), fun r hr hflies => ?_, nofun,
        fun c hc => ?_, fun hd => absurd hd hnotDown⟩
      · cases hflight.symm.trans (h.spotFlies r hr hflies)
      · cases hc
        exact hon _ List.mem_cons_self
    · exact h
  · exact h

/-- R152: an input joins the due list. -/
theorem InputLineFits.joined (h : InputLineFits p l) (ha : p a) (hup : l.state = .running) (hnew : a ∉ l.due) :
    InputLineFits p { l with due := l.due ++ [a] } where
  dueNodup := List.nodup_append.mpr ⟨h.dueNodup, List.nodup_singleton a, fun x hx y hy heq => by
    rw [List.mem_singleton.mp hy] at heq
    exact hnew (heq ▸ hx)⟩
  dueOn b hb := by
    rcases List.mem_append.mp hb with hb | hb
    · exact h.dueOn b hb
    · rwa [List.mem_singleton.mp hb]
  spotFlies := h.spotFlies
  spotAsked := h.spotAsked
  liveOn := h.liveOn
  downEmpty hd := by cases hup.symm.trans hd

/-- The end of a due poll. -/
theorem InputLineFits.duePollEnded {mark : PollMark} (h : InputLineFits p l) (hflight : l.flight = some (.due a mark)) :
    InputLineFits p { l with flight := none } where
  dueNodup := h.dueNodup
  dueOn := h.dueOn
  spotFlies r hr hflies := by cases hflight.symm.trans (h.spotFlies r hr hflies)
  spotAsked := nofun
  liveOn := nofun
  downEmpty hd := ⟨(h.downEmpty hd).1, rfl, (h.downEmpty hd).2.2⟩

/-- R160: the end of a spot read, no spot poll being in flight any more. -/
theorem InputLineFits.spotEnded {result : Option SpotResult} {flight : Option PollFlight} (h : InputLineFits p l)
    (hflight : flight = none ∨ flight = l.flight ∧ l.spotRequest = none) :
    InputLineFits p { l with spotRequest := none, spotResult := result, flight := flight } where
  dueNodup := h.dueNodup
  dueOn := h.dueOn
  spotFlies r hr := absurd hr (Option.not_mem_none r)
  spotAsked b hb := by
    rcases hflight with rfl | ⟨rfl, hnone⟩
    · cases hb
    · cases hnone.symm.trans (h.spotAsked b hb)
  liveOn b hb := by
    rcases hflight with rfl | ⟨rfl, _⟩
    · cases hb
    · exact h.liveOn b hb
  downEmpty hd := by
    refine ⟨(h.downEmpty hd).1, ?_, rfl⟩
    rcases hflight with rfl | ⟨rfl, _⟩
    · rfl
    · exact (h.downEmpty hd).2.1

/-- R159: a spot read that waits. -/
theorem InputLineFits.spotWaits (h : InputLineFits p l) (hup : l.state = .running) (hfree : l.spotRequest = none) :
    InputLineFits p { l with spotRequest := some ⟨a, false⟩ } where
  dueNodup := h.dueNodup
  dueOn := h.dueOn
  spotFlies r hr hflies := by
    cases hr
    cases hflies
  spotAsked b hb := by cases hfree.symm.trans (h.spotAsked b hb)
  liveOn := h.liveOn
  downEmpty hd := by cases hup.symm.trans hd

/-- A line that only its state and its pin tell from one that fits. -/
theorem InputLineFits.alike (h : InputLineFits p l) (hdue : m.due = l.due) (hspot : m.spotRequest = l.spotRequest)
    (hflight : m.flight = l.flight) (hdown : m.state = .down → l.state = .down) : InputLineFits p m where
  dueNodup := hdue ▸ h.dueNodup
  dueOn := hdue ▸ h.dueOn
  spotFlies := by rw [hspot, hflight]; exact h.spotFlies
  spotAsked := by rw [hspot, hflight]; exact h.spotAsked
  liveOn := by rw [hflight]; exact h.liveOn
  downEmpty hd := by rw [hdue, hspot, hflight]; exact h.downEmpty (hdown hd)

/-- A line without a due input, without a poll that acts, and without a spot read that is due. -/
theorem inputLineFits_idle (hdue : l.due = []) (hspot : l.spotRequest = none) (hflight : l.flight = none) :
    InputLineFits p l where
  dueNodup := hdue ▸ .nil
  dueOn := hdue ▸ List.forall_mem_nil _
  spotFlies r hr := absurd (hspot ▸ hr) (Option.not_mem_none r)
  spotAsked b hb := by cases hflight.symm.trans hb
  liveOn b hb := by cases hflight.symm.trans hb
  downEmpty _ := ⟨hdue, hflight, hspot⟩

/-- R20: a line that has forgotten an address. -/
theorem InputLineFits.forgot (h : InputLineFits (InputAt s) s.inputLine) (a : Nat) :
    InputLineFits (fun b => b ≠ a ∧ InputAt s b) (forgetInput a s).inputLine where
  dueNodup := h.dueNodup.filter _
  dueOn b hb := by
    obtain ⟨hb, hne⟩ := List.mem_filter.mp hb
    exact ⟨by simpa using hne, h.dueOn b hb⟩
  spotFlies r hr hflies := by
    have hflight := h.spotFlies r hr hflies
    simp [forgetInput, hflight]
  spotAsked b hb := by
    refine h.spotAsked b ?_
    simp only [forgetInput, putInputLine_inputLine] at hb
    split at hb
    · cases hb
    · exact hb
  liveOn b hb := by
    simp only [forgetInput, putInputLine_inputLine] at hb
    split at hb
    · rename_i c mark hflight
      simp only [Option.some.injEq, PollFlight.due.injEq] at hb
      obtain ⟨rfl, hmark⟩ := hb
      split at hmark
      · cases hmark
      · rename_i hne
        exact ⟨hne, h.liveOn c (hmark ▸ hflight)⟩
    · rename_i hother
      exact absurd hb (hother b .live)
  downEmpty hd := by
    obtain ⟨hdue, hflight, hspot⟩ := h.downEmpty hd
    simp [forgetInput, hdue, hflight, hspot]

/-! ## Every act -/

theorem inputAt_putInput {n : Input} {b : Nat} (h : InputAt s b) : InputAt (putInput a n s) b := by
  unfold InputAt
  rw [input?_putInput]
  split
  · rfl
  · exact h

theorem dropLink_inputLine (a : Nat) (link : InputLink) (misses : Nat) (s : State) :
    (dropLink a link misses s).inputLine = s.inputLine := by
  refine onInput_rel (R := fun s t => t.inputLine = s.inputLine) rfl fun n _ => ?_
  dsimp only
  split
  · exact (forEach_reResolve_segsOnly false _ _).same.2.1.2.2.2.1
  · rfl

theorem inputAt_dropLink {link : InputLink} {misses b : Nat} (h : InputAt s b) : InputAt (dropLink a link misses s) b := by
  refine onInput_rel (R := fun s t => InputAt s b → InputAt t b) id (fun n _ h => ?_) h
  dsimp only
  split
  · rw [InputAt, input?, forEach_reResolve_inputs]
    exact inputAt_putInput h
  · exact inputAt_putInput h

/-- What the retirement of an input leaves of the input line. -/
theorem retireInput_inputLine (a : Nat) (n : Input) (s : State) :
    (retireInput a n s).inputLine = (forgetInput a s).inputLine := by
  unfold retireInput
  dsimp only
  split
  · rfl
  · exact (forEach_reResolve_segsOnly true _ _).same.2.1.2.2.2.1
  · exact (retireRecords_listOnly _ _ _).same.2.1.2.1

/-- R161: the input line after it has gone DOWN. -/
theorem goDownInput_inputLine (s : State) :
    (goDownInput s).inputLine.due = [] ∧ (goDownInput s).inputLine.flight = none
      ∧ (goDownInput s).inputLine.spotRequest = none := by
  unfold goDownInput
  dsimp only
  rw [(forEach_reResolve_segsOnly false _ _).same.2.1.2.2.2.1]
  cases hr : s.inputLine.spotRequest with
  | none => exact ⟨rfl, rfl, hr⟩
  | some r => exact ⟨rfl, rfl, rfl⟩

/-- The input line of a state fits its inputs. -/
def InputLineKept (s : State) : Prop := InputLineFits (InputAt s) s.inputLine

theorem InputAct.inputLine (h : InputAct s t) (hs : InputLineKept s) : InputLineKept t := by
  unfold InputLineKept at hs ⊢
  cases h with
  | put hn hmove => exact hs.mono fun _ => inputAt_putInput
  | enrolled body a k d clamped interval missLimit => exact hs.mono fun _ => inputAt_putInput
  | amended body a n d clamped interval missLimit =>
    rw [amendInputRecord, (forEach_reResolve_segsOnly true _ _).same.2.1.2.2.2.1]
    refine hs.mono fun b hb => ?_
    rw [InputAt, input?, forEach_reResolve_inputs]
    exact inputAt_putInput hb
  | retired a n =>
    rw [retireInput_inputLine]
    refine (hs.forgot a).mono fun b hb => ?_
    rw [InputAt, input?, retireInput_inputs, tabGet_del_ne _ hb.1]
    exact hb.2
  | lost a link misses =>
    rw [dropLink_inputLine]
    exact hs.mono fun _ => inputAt_dropLink
  | lineDown =>
    obtain ⟨hdue, hflight, hspot⟩ := goDownInput_inputLine s
    exact inputLineFits_idle hdue hspot hflight
  | lineUp hdown =>
    obtain ⟨hdue, hflight, hspot⟩ := hs.downEmpty hdown
    exact inputLineFits_idle hdue hspot hflight
  | chose => exact hs.choose
  | joinedDue a hn hup hnew => exact hs.joined hn hup (by simpa using hnew)
  | pollEnded a mark hflight => exact hs.duePollEnded hflight
  | spotEnded a reply hflight => exact hs.spotEnded (.inl rfl)
  | spotAsked a hup hfree => exact hs.spotWaits hup hfree
  | spotRefused a hfree => exact hs.spotEnded (.inr ⟨rfl, hfree⟩)
  | pinMoved high => exact hs.alike rfl rfl rfl id

theorem InputLineKept.of_same (hs : InputLineKept s) (hinputs : t.inputs = s.inputs) (hline : t.inputLine = s.inputLine) :
    InputLineKept t := by
  rw [InputLineKept, hline]
  exact hs.mono fun b hb => by rwa [InputAt, input?, hinputs]

theorem InputLineKept.of_map {f : Input → Input} (hs : InputLineKept s) (hinputs : t.inputs = tabMap s.inputs f)
    (hline : t.inputLine = s.inputLine) : InputLineKept t := by
  rw [InputLineKept, hline]
  refine hs.mono fun b hb => ?_
  rw [InputAt, input?, hinputs, tabGet_map, Option.isSome_map]
  exact hb

theorem RecordAct.inputLine (h : RecordAct s t) (hs : InputLineKept s) : InputLineKept t := by
  cases h with
  | seg h =>
    obtain ⟨_, ⟨hinputs, _, _, hline, _⟩, _⟩ := h.segsOnly.same
    exact hs.of_same hinputs hline
  | list h =>
    obtain ⟨_, ⟨_, hline, _⟩, hinputs, _⟩ := h.listOnly.same
    exact hs.of_same hinputs hline
  | input h => exact h.inputLine hs

/-- R163: a warm reset empties the due list, and discards the reply of a due poll in flight. -/
theorem InputLineKept.warmBlocks (hs : InputLineKept s) : InputLineKept (warmBlocks s) where
  dueNodup := .nil
  dueOn := List.forall_mem_nil _
  spotFlies r hr hflies := by
    have hflight := hs.spotFlies r hr hflies
    show (warmInputLine s.inputLine).flight = _
    rw [warmInputLine, hflight]
  spotAsked b hb := by
    refine hs.spotAsked b ?_
    change (warmInputLine s.inputLine).flight = _ at hb
    unfold warmInputLine at hb
    dsimp only at hb
    split at hb
    · cases hb
    · exact hb
  liveOn b hb := by
    change (warmInputLine s.inputLine).flight = _ at hb
    unfold warmInputLine at hb
    dsimp only at hb
    split at hb
    · cases hb
    · rename_i hother
      exact absurd hb (hother b)
  downEmpty hd := by
    obtain ⟨_, hflight, hspot⟩ := hs.downEmpty hd
    refine ⟨rfl, ?_, hspot⟩
    show (warmInputLine s.inputLine).flight = _
    rw [warmInputLine, hflight]

/-! ## What only a REPORTING input has -/

theorem reportOk_congr {n m : Input} (hlink : m.link = n.link) (hdevice : m.device = n.device) : reportOk m = reportOk n := by
  simp only [reportOk, hlink, hdevice]

theorem reportOk_reporting {n : Input} (h : n.link = .reporting) : reportOk n = true := by
  simp [reportOk, h]

/-- R158: an input that has lost its link has nothing that only a REPORTING one has. -/
theorem reportOk_lost {n m : Input} (hn : reportOk n = true)
    (h : m.device = if n.link = .reporting then deviceLost n.device else n.device) : reportOk m = true := by
  unfold reportOk at hn ⊢
  rw [Bool.or_eq_true] at hn ⊢
  right
  by_cases hlink : n.link = .reporting
  · rw [h, if_pos hlink]
    cases n.device with
    | photo c x => cases hx : x.state <;> simp [deviceLost, linkLost, hx, unseeded]
    | presence coverage last => rfl
    | station scope hold lastButton sequence => rfl
  · rw [h, if_neg hlink]
    exact hn.resolve_left (by simpa using hlink)

theorem reportOk_ticked (n : Input) : reportOk (tickInput n) = reportOk n := by
  unfold reportOk tickInput
  cases n.device <;> rfl

theorem reportOk_warmed (running : Bool) (n : Input) : reportOk (warmInput running n) = true := by
  unfold reportOk warmInput
  cases n.device <;> rfl

theorem InputMove.reportOk {n m : Input} (h : InputMove n m) (hn : reportOk n = true) : Machine.reportOk m = true := by
  cases h with
  | reinstated => simp [Machine.reportOk, unseeded]
  | calibrated hd => simpa [Machine.reportOk, hd] using hn
  | released => simp [Machine.reportOk, unseeded]
  | heard => exact reportOk_reporting rfl
  | sampled _ hlink => exact reportOk_reporting hlink
  | reported _ hlink => exact reportOk_reporting hlink
  | sequenced _ hlink => exact reportOk_reporting hlink
  | pressed hd => simpa [Machine.reportOk, hd] using hn
  | lost _ link misses changed hlink => exact reportOk_lost hn rfl
  | ticked => rwa [reportOk_ticked]
  | warmed running => exact reportOk_warmed running n
  | _ => exact (reportOk_congr rfl rfl).trans hn

/-- R17, R19: what a request carries is nothing that only a REPORTING input has. -/
theorem takeDevice_reportOk {body : List Byte} {n m : Input} {clamped : Bool}
    (hdevice : takeDevice s body n.device = some (m.device, clamped)) (hlink : m.link = n.link) (hn : reportOk n = true) :
    reportOk m = true := by
  unfold reportOk at hn ⊢
  rw [hlink]
  rw [Bool.or_eq_true] at hn ⊢
  refine hn.imp_right fun hn => ?_
  unfold takeDevice at hdevice
  cases hd : n.device with
  | photo c x =>
    rw [hd] at hn hdevice
    obtain ⟨hnew, _⟩ := Prod.mk.inj (Option.some.inj hdevice)
    rwa [← hnew]
  | presence coverage last =>
    rw [hd] at hn hdevice
    dsimp only at hdevice
    split at hdevice
    · obtain ⟨ids, _, heq⟩ := Option.map_eq_some_iff.mp hdevice
      rw [← (Prod.mk.inj heq).1]
      exact hn
    · rw [← (Prod.mk.inj (Option.some.inj hdevice)).1]
      exact hn
  | station scope hold lastButton sequence =>
    rw [hd] at hn hdevice
    dsimp only at hdevice
    split at hdevice
    · split at hdevice
      · rw [← (Prod.mk.inj (Option.some.inj hdevice)).1]
        exact hn
      · cases hdevice
    · rw [← (Prod.mk.inj (Option.some.inj hdevice)).1]
      exact hn

/-- R17: an input enrolled has nothing that only a REPORTING one has. -/
theorem enrolled_reportOk {body : List Byte} {k : InputKind} {d : Device} {clamped : Bool} (interval missLimit : Option Nat)
    (hdevice : takeDevice s body (freshDevice k) = some (d, clamped)) :
    reportOk (enrolledInput k d interval missLimit) = true :=
  takeDevice_reportOk (n := { enrolledInput k d interval missLimit with device := freshDevice k }) hdevice rfl
    (by cases k <;> rfl)

theorem RecordAct.reportsOk (h : RecordAct s t) (hs : ReportsOk s) : ReportsOk t :=
  forall_inputs_of_record (p := fun n => reportOk n = true) (fun _ _ => InputMove.reportOk)
    (fun _ _ _ _ interval missLimit _ hdevice => enrolled_reportOk interval missLimit hdevice)
    (fun _ _ _ _ _ _ hdevice hn => takeDevice_reportOk hdevice rfl hn) h hs

theorem inputLaws_keptByParts : KeptByParts fun s => InputLineKept s ∧ ReportsOk s where
  record h hs := ⟨h.inputLine hs.1, h.reportsOk hs.2⟩
  recompose k s hs := by
    obtain ⟨_, _, hinputs, hline⟩ := (recomposeLum_lumsOnly k s).records
    exact ⟨hs.1.of_same hinputs hline, by rw [ReportsOk, hinputs]; exact hs.2⟩
  fixture h hs := by
    obtain ⟨_, _, hinputs, hline⟩ := h.lumsOnly.records
    exact ⟨hs.1.of_same hinputs hline, by rw [ReportsOk, hinputs]; exact hs.2⟩
  recapped _ _ _ _ hs := hs
  captured hs := hs
  ticked hs :=
    ⟨hs.1.of_map rfl rfl, forall_tabMap (p := fun n => reportOk n = true) (fun n hn => (reportOk_ticked n).trans hn) hs.2⟩
  tallied hs := hs
  holdsTaken hs := hs
  drew _ hs := hs
  portSet _ hs := hs
  warmBlocks hs :=
    ⟨InputLineFits.mono hs.1.warmBlocks fun _ => id,
      forall_tabMap (p := fun n => reportOk n = true) (fun n _ => reportOk_warmed _ n) hs.2⟩
  raiseOnce i s hs := by
    obtain ⟨_, ⟨hinputs, _, _, hline, _⟩, _⟩ := (raiseOnce_segsOnly i s).same
    exact ⟨hs.1.of_same hinputs hline, by rw [ReportsOk, hinputs]; exact hs.2⟩
  composeAll hs := hs
  refresh i s _ hs := by
    obtain ⟨_, _, hinputs, hline⟩ := (fullRefresh_lumsOnly i s).records
    exact ⟨hs.1.of_same hinputs hline, by rw [ReportsOk, hinputs]; exact hs.2⟩
  coldReset low _ := ⟨inputLineOk_iff.mp (inputLineOk_cold low _), reportsOk_cold low _⟩

/-- Settles O14, by what each act makes of the three lines. -/
theorem lineLawsKept : Obligations.LineLawsKept := by
  constructor
  · intro s t hs hstep
    have hkept := (linesFit_keptByParts True).keptByStep fun _ _ h => h.sameFixtures ⟨rfl, rfl, rfl⟩
    obtain ⟨hlines, hawaiting⟩ := linesFit_iff.mp (hkept s t (linesFit_iff.mpr ⟨hs.1, fun _ => hs.2⟩) hstep)
    exact ⟨hlines, hawaiting trivial⟩
  · intro s t hs hstep
    obtain ⟨hline, hreports⟩ := inputLaws_keptByParts.keptByStep (fun _ _ h => h) s t
      ⟨inputLineOk_iff.mp hs.1, hs.2⟩ hstep
    exact ⟨inputLineOk_iff.mpr hline, hreports⟩

end InputLines

end Sys2Proof.Machine
end

section
/-! SUPPORT. Measurement records, counts, tallies and floor-wide values in their ranges (R1, R25, R121, R124, R131, R135,
R143, R144). -/

namespace Sys2Proof.Machine

/-! ## Measurement records (R25) -/

section Measurements

variable {c : PhotoConfig} {m : Measurement} {x : Nat}

/-- R34: the fields of a reseed window stand in their ranges. -/
def WindowFits (w : Window) : Prop := (1 ≤ w.remaining ∧ w.remaining ≤ 16) ∧ 1 ≤ w.reseeds ∧ w.reseeds ≤ 2

/-- R25: the law of a measurement record, field by field. -/
structure MeasFits (m : Measurement) : Prop where
  acc : m.acc ≤ 16776960
  f0 : m.f0.isSome = true ↔ m.state = .settled ∨ m.state = .quarantined
  count : m.settleCount ≤ 3
  settling : m.state = .settling ∨ m.settleCount = 0
  settled : m.state = .settled ∨ m.pendingJump = false ∧ m.window = none
  quarantine : m.quarantineTimer.isSome = true ↔ m.state = .quarantined
  seeded : m.state ≠ .unseeded ∨ m.acc = 0
  window : ∀ w ∈ m.window, WindowFits w

theorem measOk_iff : measOk m = true ↔ MeasFits m := by
  obtain ⟨state, acc, f0, count, pending, window, quarantine⟩ := m
  have hwindow : (match window with
      | none => true
      | some w => decide (1 ≤ w.remaining) && decide (w.remaining ≤ 16) && decide (1 ≤ w.reseeds) && decide (w.reseeds ≤ 2)) = true
        ↔ ∀ w ∈ window, WindowFits w := by
    cases window <;> simp [WindowFits, and_assoc]
  have hf : (f0.isSome == (state == .settled || state == .quarantined)) = true
      ↔ (f0.isSome = true ↔ state = .settled ∨ state = .quarantined) := by
    rw [beq_iff_eq, Bool.eq_iff_iff, Bool.or_eq_true, beq_iff_eq, beq_iff_eq]
  have hquarantine : (quarantine.isSome == (state == .quarantined)) = true ↔ (quarantine.isSome = true ↔ state = .quarantined) := by
    rw [beq_iff_eq, Bool.eq_iff_iff, beq_iff_eq]
  constructor
  · intro h
    simp only [measOk, Bool.and_eq_true] at h
    obtain ⟨⟨⟨⟨⟨⟨⟨hacc, h0⟩, hcount⟩, hsettling⟩, hsettled⟩, hq⟩, hseeded⟩, hw⟩ := h
    exact ⟨by simpa using hacc, hf.mp h0, by simpa using hcount, by simpa using hsettling, by simpa using hsettled,
      hquarantine.mp hq, by simpa using hseeded, hwindow.mp hw⟩
  · rintro ⟨hacc, h0, hcount, hsettling, hsettled, hq, hseeded, hw⟩
    simp only [measOk, Bool.and_eq_true]
    exact ⟨⟨⟨⟨⟨⟨⟨by simpa using hacc, hf.mpr h0⟩, by simpa using hcount⟩, by simpa using hsettling⟩,
      by simpa using hsettled⟩, hquarantine.mpr hq⟩, by simpa using hseeded⟩, hwindow.mpr hw⟩

/-- R29: a feed stays between the accumulator and the sample. -/
theorem feedAcc_le {shift acc : Nat} (hacc : acc ≤ 16776960) (hx : x ≤ 65535) : feedAcc shift acc x ≤ 16776960 := by
  unfold feedAcc
  rcases le_total 0 ((x * 256 : Nat) - (acc : Int)) with hup | hdown
  · have hle := Int.tdiv_le_self (2 ^ shift) hup
    omega
  · have hle : 0 ≤ Int.tdiv (-((x * 256 : Nat) - (acc : Int))) (2 ^ shift) :=
      Int.tdiv_nonneg (by omega) (by positivity)
    rw [Int.neg_tdiv] at hle
    omega

theorem seedAcc_le (hx : x ≤ 65535) : seedAcc x ≤ 16776960 := by
  unfold seedAcc
  omega

theorem unseeded_fits : MeasFits unseeded := measOk_iff.mp (by decide)

/-- R31: a sample at a SETTLING record. -/
theorem settleSample_fits (h : MeasFits m) (hstate : m.state = .settling) (hx : x ≤ 65535) : MeasFits (settleSample c m x) := by
  have hfeed := feedAcc_le (shift := c.shift) h.acc hx
  obtain ⟨hjump, hwindow⟩ := h.settled.resolve_left (by rw [hstate]; nofun)
  have hcount := h.count
  have hf0 := h.f0
  have hquarantine := h.quarantine
  rw [hstate] at hf0 hquarantine
  unfold settleSample
  split
  · dsimp only
    split
    · exact ⟨hfeed, by simp, Nat.zero_le 3, .inr rfl, .inl rfl, by simpa using hquarantine, .inl nofun, h.window⟩
    · exact ⟨hfeed, by simpa [hstate] using hf0, by dsimp only; omega, .inl hstate, .inr ⟨hjump, hwindow⟩,
        by simpa [hstate] using hquarantine, .inl (by rw [hstate]; nofun), h.window⟩
  · exact ⟨seedAcc_le hx, by simpa [hstate] using hf0, Nat.zero_le 3, .inl hstate, .inr ⟨hjump, hwindow⟩,
      by simpa [hstate] using hquarantine, .inl (by rw [hstate]; nofun), h.window⟩

theorem countSample_fits {w : Option Window} (h : ∀ v ∈ w, WindowFits v) : ∀ v ∈ countSample w, WindowFits v := by
  unfold countSample
  split
  · nofun
  · rename_i v
    obtain ⟨⟨hpos, hle⟩, hreseeds⟩ := h v rfl
    split
    · nofun
    · intro u hu
      cases hu
      exact ⟨⟨by dsimp only; omega, by dsimp only; omega⟩, hreseeds⟩

/-- R40: a sky change moves F0 alone. -/
theorem skyCompare_fits (h : MeasFits m) : MeasFits (skyCompare c m).1 := by
  unfold skyCompare
  split
  · rename_i f hf
    split
    · refine { h with f0 := ?_ }
      have := h.f0
      rw [hf] at this
      exact this
    · exact h
  · exact h

/-- What a SETTLED record keeps while its accumulator, its jump mark and its window change. -/
theorem settled_fits {acc : Nat} {jump : Bool} {w : Option Window} (h : MeasFits m) (hstate : m.state = .settled)
    (hacc : acc ≤ 16776960) (hw : ∀ v ∈ w, WindowFits v) :
    MeasFits { m with acc := acc, pendingJump := jump, window := w } :=
  ⟨hacc, h.f0, h.count, h.settling, .inl hstate, h.quarantine, .inl (by rw [hstate]; nofun), hw⟩

/-- R34 to R36: a reseed. -/
theorem reseed_fits (h : MeasFits m) (hstate : m.state = .settled) (hx : x ≤ 65535) : MeasFits (reseed c m x).1 := by
  unfold reseed
  dsimp only
  split
  · refine skyCompare_fits (settled_fits h hstate (seedAcc_le hx) fun v hv => ?_)
    cases hv
    exact ⟨by decide, by decide⟩
  · rename_i w hw
    obtain ⟨hremaining, hreseeds, hreseeds'⟩ := h.window w hw
    split
    · have hf0 := h.f0
      rw [hstate] at hf0
      exact ⟨seedAcc_le hx, by simpa using hf0, h.count, .inr (h.settling.resolve_left (by rw [hstate]; nofun)),
        .inr ⟨rfl, rfl⟩, by simp [startTimer], .inl nofun, nofun⟩
    · refine skyCompare_fits (settled_fits h hstate (seedAcc_le hx) (countSample_fits fun v hv => ?_))
      cases hv
      exact ⟨hremaining, by dsimp only; omega, by dsimp only; omega⟩

/-- R27, R30 to R37: one sample. -/
theorem sample_fits (h : MeasFits m) (hx : x ≤ 65535) : MeasFits (sample c m x).1 := by
  unfold sample
  split
  · rename_i hstate
    have hf0 := h.f0
    have hquarantine := h.quarantine
    rw [hstate] at hf0 hquarantine
    exact ⟨seedAcc_le hx, by simpa using hf0, Nat.zero_le 3, .inl rfl, .inr (h.settled.resolve_left (by rw [hstate]; nofun)),
      by simpa using hquarantine, .inl nofun, h.window⟩
  · rename_i hstate
    exact settleSample_fits h hstate hx
  · rename_i hstate
    unfold settledSample
    split
    · exact skyCompare_fits (settled_fits h hstate (feedAcc_le h.acc hx) (countSample_fits h.window))
    · split
      · exact reseed_fits h hstate hx
      · exact settled_fits h hstate h.acc (countSample_fits h.window)
  · exact h

/-- R25: the measurement record of a device, where it has one, fits. -/
def DeviceFits (d : Device) : Prop := ∀ c m, d = .photo c m → MeasFits m

theorem measurementsOk_iff {s : State} : MeasurementsOk s ↔ ∀ e ∈ s.inputs, DeviceFits e.2.device := by
  refine forall₂_congr fun e _ => ?_
  cases e.2.device with
  | photo c m =>
    refine measOk_iff.trans ⟨fun h c' m' heq => ?_, fun h => h c m rfl⟩
    cases heq
    exact h
  | presence coverage last => exact ⟨fun _ => nofun, fun _ => rfl⟩
  | station scope hold lastButton sequence => exact ⟨fun _ => nofun, fun _ => rfl⟩

theorem deviceFits_photo (h : MeasFits m) : DeviceFits (.photo c m) := by
  rintro _ _ ⟨⟩
  exact h

theorem deviceFits_lost {d : Device} (h : DeviceFits d) : DeviceFits (deviceLost d) := by
  cases d with
  | photo c m =>
    refine deviceFits_photo ?_
    unfold linkLost
    split
    · exact unseeded_fits
    · exact unseeded_fits
    · exact h c m rfl
  | presence coverage last => nofun
  | station scope hold lastButton sequence => nofun

theorem deviceFits_ticked {n : Input} (h : DeviceFits n.device) : DeviceFits (tickInput n).device := by
  unfold tickInput
  dsimp only
  split
  · rename_i c m heq
    have hm := h c m heq
    exact deviceFits_photo { hm with quarantine := by rw [← hm.quarantine]; simp [tickTimer] }
  · exact h

theorem deviceFits_warmed (running : Bool) (n : Input) : DeviceFits (warmInput running n).device := by
  unfold warmInput warmDevice
  dsimp only
  split
  · exact deviceFits_photo unseeded_fits
  · nofun
  · nofun

theorem InputMove.deviceFits {n k : Input} (h : InputMove n k) (hn : DeviceFits n.device) : DeviceFits k.device := by
  cases h with
  | reinstated => exact deviceFits_photo unseeded_fits
  | calibrated hd => exact deviceFits_photo (hn _ _ hd)
  | released => exact deviceFits_photo unseeded_fits
  | sampled hd _ x hx => exact deviceFits_photo (sample_fits (hn _ _ hd) hx)
  | reported => nofun
  | sequenced => nofun
  | pressed => nofun
  | lost _ link misses changed hlink =>
    dsimp only
    split
    · exact deviceFits_lost hn
    · exact hn
  | ticked => exact deviceFits_ticked hn
  | warmed running => exact deviceFits_warmed running n
  | _ => exact hn

theorem takeDevice_fits {s : State} {body : List Byte} {d d' : Device} {clamped : Bool}
    (h : takeDevice s body d = some (d', clamped)) (hd : DeviceFits d) : DeviceFits d' := by
  cases d with
  | photo c m =>
    cases h
    exact deviceFits_photo (hd c m rfl)
  | presence coverage last =>
    unfold takeDevice at h
    dsimp only at h
    split at h
    · obtain ⟨ids, _, heq⟩ := Option.map_eq_some_iff.mp h
      cases heq
      nofun
    · cases h
      nofun
  | station scope hold lastButton sequence =>
    unfold takeDevice at h
    dsimp only at h
    split at h
    · split at h
      · cases h
        nofun
      · cases h
    · cases h
      nofun

theorem freshDevice_fits (k : InputKind) : DeviceFits (freshDevice k) := by
  cases k with
  | photo => exact deviceFits_photo unseeded_fits
  | presence => nofun
  | station => nofun

theorem RecordAct.measurementsOk {s t : State} (h : RecordAct s t) (hs : MeasurementsOk s) : MeasurementsOk t :=
  measurementsOk_iff.mpr (forall_inputs_of_record (p := fun n => DeviceFits n.device) (fun _ _ => InputMove.deviceFits)
    (fun _ k _ _ _ _ _ hdevice => takeDevice_fits hdevice (freshDevice_fits k))
    (fun _ _ _ _ _ _ hdevice hn => takeDevice_fits hdevice hn) h (measurementsOk_iff.mp hs))

end Measurements

end Sys2Proof.Machine
end

section
/-! SUPPORT. The counts of a luminaire, the driver codes, the tallies and the floor-wide values in their ranges (R1, R121, R124,
R131, R135, R143, R144). -/

namespace Sys2Proof.Machine

/-! ## The counts of a luminaire (R135, R143, R144) -/

/-- R135, R143, R144: the counts of a luminaire fit its link state and its confirmation. -/
def CountsFit (l : Luminaire) : Prop :=
  l.missCount ≤ 3 ∧ (l.link = .silent ↔ l.missCount = 3) ∧ l.mismatchCount ≤ 3 ∧ (l.mismatchCount = 3 → l.unconfirmed = true)

section Counts

variable {s t : State} {l m : Luminaire}

theorem settleConfirmation_counts (echo : Nat) (h : CountsFit l) : CountsFit (settleConfirmation echo l).1 := by
  obtain ⟨hmiss, hsilent, hmismatch, hthree⟩ := h
  unfold settleConfirmation
  dsimp only
  split
  · split
    · exact ⟨hmiss, hsilent, Nat.zero_le 3, nofun⟩
    · split
      · rename_i htries
        simp only [Bool.and_eq_true, Bool.not_eq_true'] at htries
        have hless : l.mismatchCount ≠ 3 := fun heq => by
          rw [hthree heq] at htries
          exact nomatch htries.2
        split
        · exact ⟨hmiss, hsilent, by dsimp only; omega, fun heq => by dsimp only at heq; omega⟩
        · exact ⟨hmiss, hsilent, by dsimp only; omega, fun _ => rfl⟩
      · exact ⟨hmiss, hsilent, hmismatch, hthree⟩
  · exact ⟨hmiss, hsilent, hmismatch, hthree⟩

theorem heardFrom_counts (d : DriverReply) (h : CountsFit l) : CountsFit (heardFrom d l) := by
  obtain ⟨_, _, hmismatch⟩ := h
  exact ⟨Nat.zero_le 3, ⟨nofun, nofun⟩, hmismatch⟩

theorem unanswered_counts (h : CountsFit l) : CountsFit (unanswered l) := by
  obtain ⟨_, hsilent, hmismatch⟩ := h
  refine ⟨min_le_right _ _, ?_, hmismatch⟩
  show (if min (l.missCount + 1) 3 = 3 then LumLink.silent else l.link) = .silent ↔ min (l.missCount + 1) 3 = 3
  split
  · simp_all
  · rw [hsilent]
    omega

theorem SendMove.counts (h : SendMove l m) (hl : CountsFit l) : CountsFit m := by
  obtain ⟨hmiss, hsilent, _⟩ := id hl
  cases h with
  | handed => exact ⟨hmiss, hsilent, Nat.zero_le 3, nofun⟩
  | heard d => exact settleConfirmation_counts d.echo (heardFrom_counts d hl)
  | unanswered => exact unanswered_counts hl
  | lost =>
    obtain ⟨_, _, hmismatch⟩ := hl
    exact ⟨Nat.zero_le 3, ⟨nofun, nofun⟩, hmismatch⟩
  | warmed => exact ⟨hmiss, hsilent, Nat.zero_le 3, nofun⟩
  | _ => exact hl

theorem LumMove.counts (h : LumMove l m) (hl : CountsFit l) : CountsFit m := by
  cases h with
  | send h => exact h.counts hl
  | bared => exact hl
  | composed => exact hl

theorem FixtureAct.missesOk (h : FixtureAct s t) (hs : MissesOk s) : MissesOk t := by
  cases h.lumsChange with
  | sends h => exact forall_lums_of_moves (p := CountsFit) (fun _ _ => LumMove.counts) h.moves hs
  | enrolled f k hkey hnone heq =>
    rw [heq]
    exact tabPut_forall hs ⟨Nat.zero_le 3, ⟨nofun, nofun⟩, Nat.zero_le 3, nofun⟩
  | amended f k l place hl hplace hfree _ h =>
    refine forall_lums_of_moves (p := CountsFit) (fun _ _ => LumMove.counts) h (tabPut_forall hs ?_)
    exact (hs _ (mem_of_tabGet hl) : CountsFit l)
  | retired k heq =>
    intro e he
    rw [heq] at he
    exact hs e (mem_tabDel he)

end Counts

/-! ## Tallies and floor-wide values (R1, R121, R124, R131) -/

section Counters

variable {s t : State}

/-- R130: the tallies of the segments stand in their range. -/
def TalliesFit (s : State) : Prop := ∀ e ∈ s.segs, e.2.tally ≤ Config.tallyMax

theorem talliesFit_of_settings (h : SegsBy SameSettings s t) (hs : TalliesFit s) : TalliesFit t :=
  h.forall_keeps (p := fun g : Segment => g.tally ≤ Config.tallyMax) (fun _ _ hsame hg => by rw [hsame.2]; exact hg) hs

theorem SegsChange.tallies (h : SegsChange s t) (hs : TalliesFit s) : TalliesFit t := by
  cases h with
  | moves h => exact talliesFit_of_settings (SegsBy.settings h) hs
  | defined body i hid hnone hrow henums hrefs heq =>
    rw [heq]
    exact talliesFit_of_settings (defineSeg_settings i _ s) (tabPut_forall hs (Nat.zero_le _))
  | amended body i g clear hg henums hrefs hlinked heq =>
    rw [heq]
    have htally : g.tally ≤ Config.tallyMax := hs _ (mem_of_tabGet hg)
    exact talliesFit_of_settings (amendSeg_settings i g _ clear s) (tabPut_forall hs htally)
  | retired i href heq =>
    rw [heq]
    exact fun e he => talliesFit_of_settings (SegsBy.settings (retireRecords_by _ true s).moves) hs e (mem_tabDel he)

/-- R131: every tally read for a snapshot stands in its range. -/
theorem talliesOf_le (hs : TalliesFit s) : ∀ n ∈ talliesOf s, n ≤ Config.tallyMax := by
  intro n hn
  obtain ⟨i, _, rfl⟩ := List.mem_map.mp hn
  cases hg : seg? s i with
  | none => exact Nat.zero_le _
  | some g => exact hs _ (mem_of_tabGet hg)

theorem nextSnapshotNumber_le (n : Nat) : nextSnapshotNumber n ≤ 255 := by
  unfold nextSnapshotNumber
  split <;> omega

theorem tickTime_phase (t : TimeBase) : (tickTime t).phase < 600 := by
  have hminute : Config.minuteTenths = 600 := rfl
  unfold tickTime
  split
  · dsimp only
    omega
  · decide

/-- R1, R121, R124, R131: the floor-wide values. -/
theorem countersOk_of (hs : CountersOk s) (hsegs : TalliesFit t) (htime : t.time = s.time) (hcomposer : t.composer = s.composer) :
    CountersOk t := by
  obtain ⟨hphase, hcap, hnumber, hlength, hsnapshot, _⟩ := hs
  exact ⟨htime ▸ hphase, hcomposer ▸ hcap, hcomposer ▸ hnumber, hcomposer ▸ hlength, hcomposer ▸ hsnapshot, hsegs⟩

theorem CountersOk.tallies (h : CountersOk s) : TalliesFit s := by
  obtain ⟨_, _, _, _, _, htallies⟩ := h
  exact htallies

end Counters

/-! ## Driver codes (R126, R134, R135) -/

section Codes

variable {s t : State} {i : LineId} {k : Nat}

theorem limitLevel_le {lo hi cap v : Nat} (hlo : lo ≤ 1000) (hv : v ≤ 1000) : limitLevel lo hi cap v ≤ 1000 := by
  unfold limitLevel
  split_ifs <;> omega

/-- R126: a composed code is at most 254. -/
theorem composeFrom_code_le {l : Luminaire} (h : lumConfigOk l) (cap requested : Nat) : (composeFrom l cap requested).code ≤ 254 := by
  obtain ⟨_, _, _, hlo, _⟩ := h
  refine codeOf_le (limitLevel_le (hlo.trans (by decide)) ((min_le_left _ _).trans ?_))
  unfold trimLevel
  split
  · exact Nat.zero_le _
  · exact min_le_left _ _

/-- The codes of a luminaire's record are codes. -/
def LumCodesFit (l : Luminaire) : Prop := (∀ c ∈ l.composed, c.code ≤ 254) ∧ ∀ c ∈ l.sentCode, c ≤ 254

/-- The codes that wait or fly on a line are codes. -/
def LineCodesFit (l : FixtureLine) : Prop := (∀ q ∈ l.queue, q.code ≤ 254) ∧ ∀ f ∈ l.flight, ∀ c ∈ f.levelCode, c ≤ 254

/-- Every code of the fixtures is a code. -/
def CodesFit (s : State) : Prop := (∀ e ∈ s.lums, LumCodesFit e.2) ∧ ∀ i, LineCodesFit (lineOf i s)

theorem codeOk_iff {c : Option Nat} : codeOk c = true ↔ ∀ x ∈ c, x ≤ 254 := by
  cases c <;> simp [codeOk]

theorem lineCodesFit_iff {l : FixtureLine} : LineCodesFit l ↔ lineCodesOk l := by
  refine and_congr_right fun _ => ?_
  rw [codeOk_iff]
  constructor
  · intro h c hc
    obtain ⟨f, hf, hlevel⟩ := Option.bind_eq_some_iff.mp hc
    exact h f hf c hlevel
  · intro h f hf c hc
    exact h c (Option.bind_eq_some_iff.mpr ⟨f, hf, hc⟩)

theorem codesFit_iff : CodesFit s ↔ CodesOk s := by
  have hlums : (∀ e ∈ s.lums, LumCodesFit e.2) ↔
      ∀ e ∈ s.lums, codeOk (e.2.composed.map (·.code)) = true ∧ codeOk e.2.sentCode = true := by
    refine forall₂_congr fun e _ => ?_
    rw [codeOk_iff, codeOk_iff]
    refine and_congr_left fun _ => ⟨fun h x hx => ?_, fun h c hc => h c.code (Option.mem_map.mpr ⟨c, hc, rfl⟩)⟩
    obtain ⟨c, hc, rfl⟩ := Option.mem_map.mp hx
    exact h c hc
  refine and_congr hlums ⟨fun h => ⟨lineCodesFit_iff.mp (h .a), lineCodesFit_iff.mp (h .b)⟩, fun h i => ?_⟩
  cases i
  · exact lineCodesFit_iff.mpr h.1
  · exact lineCodesFit_iff.mpr h.2

theorem CodesFit.lum {l : Luminaire} (h : CodesFit s) (hl : lum? s k = some l) : LumCodesFit l := h.1 _ (mem_of_tabGet hl)

theorem CodesFit.putLum {l : Luminaire} (h : CodesFit s) (hl : LumCodesFit l) : CodesFit (putLum k l s) :=
  ⟨tabPut_forall h.1 hl, fun i => by rw [lineOf_putLum]; exact h.2 i⟩

theorem CodesFit.putLine {l : FixtureLine} (h : CodesFit s) (hl : LineCodesFit l) : CodesFit (putLine i l s) := by
  refine ⟨by rw [putLine_lums]; exact h.1, fun j => ?_⟩
  rw [lineOf_putLine]
  split
  · exact hl
  · exact h.2 j

theorem LineCodesFit.choose {l : FixtureLine} (h : LineCodesFit l) : LineCodesFit (chooseFrame l) := by
  obtain ⟨hqueue, hflight⟩ := h
  unfold chooseFrame
  split
  · split
    · rename_i e q heq
      rw [heq] at hqueue
      refine ⟨fun x hx => hqueue x (List.mem_cons_of_mem _ hx), fun f hf c hc => ?_⟩
      cases hf
      cases hc
      exact hqueue e List.mem_cons_self
    · refine ⟨hqueue, fun f hf c hc => ?_⟩
      cases hf
      cases hc
    · refine ⟨hqueue, fun f hf c hc => ?_⟩
      cases hf
      cases hc
    · exact ⟨hqueue, hflight⟩
  · exact ⟨hqueue, hflight⟩

theorem CodesFit.arbitrate (h : CodesFit s) (i : LineId) : CodesFit (arbitrate i s) := h.putLine (h.2 i).choose

theorem CodesFit.enqueue (h : CodesFit s) {code : Nat} (hcode : code ≤ 254) : CodesFit (enqueue k code s) := by
  unfold Machine.enqueue
  dsimp only
  split
  · refine h.putLine ⟨fun e he => ?_, (h.2 _).2⟩
    rcases mem_coalesce he with he | ⟨_, rfl⟩
    · exact (h.2 _).1 e he
    · exact hcode
  · exact h

theorem CodesFit.recomposeLum (h : CodesFit s) (hc : ConfigOk s) (k : Nat) : CodesFit (recomposeLum k s) := by
  unfold Machine.recomposeLum
  refine onLum_rel (R := fun _ t => CodesFit t) h fun l hl => ?_
  split
  · exact h
  · rename_i p hp
    refine onSeg_rel (R := fun _ t => CodesFit t) h fun g _ => ?_
    have hcode := composeFrom_code_le (hc.1 _ (mem_of_tabGet hl)) g.effCap (requestedLevel s g p)
    have hnew : LumCodesFit { l with composed := some (composeFrom l g.effCap (requestedLevel s g p)) } :=
      ⟨fun c hc => by cases hc; exact hcode, (h.lum hl).2⟩
    have hput := h.putLum (k := k) hnew
    dsimp only
    split
    · exact hput
    · refine CodesFit.arbitrate (CodesFit.enqueue ?_ hcode) _
      refine onLum_rel (R := fun _ t => CodesFit t) hput fun m hm => ?_
      have hm := hput.lum hm
      exact hput.putLum hm

theorem CodesFit.fullRefresh (h : CodesFit s) (i : LineId) : CodesFit (fullRefresh i s) := by
  refine CodesFit.arbitrate (forEach_keeps (P := CodesFit) (fun k _ t ht => ?_) h) i
  refine onLum_rel (R := fun _ t => CodesFit t) ht fun m hm => ?_
  have hm := ht.lum hm
  cases m.place <;> cases hc : m.composed
  case some.some c => exact ht.enqueue (hm.1 c hc)
  all_goals exact ht

theorem CodesFit.joinConfirm (h : CodesFit s) (i : LineId) (k : Nat) : CodesFit (joinConfirm i k s) := by
  unfold Machine.joinConfirm
  dsimp only
  split
  · exact h
  · exact h.putLine (h.2 i)

theorem LineCodesFit.less {l m : FixtureLine} (h : LineCodesFit l) (hqueue : m.queue ⊆ l.queue)
    (hflight : ∀ f ∈ m.flight, ∃ g ∈ l.flight, f.kind = g.kind) : LineCodesFit m := by
  refine ⟨fun q hq => h.1 q (hqueue hq), fun f hf c hc => ?_⟩
  obtain ⟨g, hg, hkind⟩ := hflight f hf
  refine h.2 g hg c ?_
  rwa [FixtureFlight.levelCode, ← hkind]

theorem settleConfirmation_codes (echo : Nat) (l : Luminaire) :
    (settleConfirmation echo l).1.composed = l.composed ∧ (settleConfirmation echo l).1.sentCode = l.sentCode := by
  unfold settleConfirmation
  dsimp only
  (repeat' split) <;> exact ⟨rfl, rfl⟩

theorem CodesFit.replied (h : CodesFit s) (i : LineId) (k : Nat) (d : DriverReply) : CodesFit (replied i k d s) := by
  refine onLum_rel (R := fun _ t => CodesFit t) h fun l hl => ?_
  obtain ⟨hcomposed, hsent⟩ := h.lum hl
  obtain ⟨hc, hs⟩ := settleConfirmation_codes d.echo (heardFrom d l)
  have hput : CodesFit (Machine.putLum k (flagLumChange l (settleConfirmation d.echo (heardFrom d l)).1) s) :=
    h.putLum ⟨by rw [flagLumChange, hc]; exact hcomposed, by rw [flagLumChange, hs]; exact hsent⟩
  dsimp only
  have hleft : CodesFit
      (if (settleConfirmation d.echo (heardFrom d l)).1.confirmation = .confirmed then
        leaveConfirm i k (Machine.putLum k (flagLumChange l (settleConfirmation d.echo (heardFrom d l)).1) s)
      else Machine.putLum k (flagLumChange l (settleConfirmation d.echo (heardFrom d l)).1) s) := by
    split
    · exact hput.putLine (hput.2 i)
    · exact hput
  split
  · rename_i c _ hc
    exact hleft.enqueue (hcomposed c hc)
  · exact hleft

theorem CodesFit.of_lums (h : CodesFit s) (hlums : ∀ e ∈ t.lums, LumCodesFit e.2) (hlines : ∀ i, lineOf i t = lineOf i s) :
    CodesFit t := ⟨hlums, fun i => by rw [hlines]; exact h.2 i⟩

theorem CodesFit.flagFloor (h : CodesFit s) : CodesFit (flagFloor s) := h.of_lums h.1 fun i => lineOf_flagFloor i s

theorem CodesFit.amendLum (h : CodesFit s) (hc : ConfigOk s) {l : Luminaire} (hl : lum? s k = some l) (f : LumFields)
    (place : Option Place) : CodesFit (amendLum k l (takeLumNumbers f { l with place := place }).1 s) := by
  have hcodes := h.lum hl
  obtain ⟨hlums, hrest⟩ := hc
  unfold Machine.amendLum
  split
  · exact h
  · split
    · refine CodesFit.putLine (h.putLum ⟨nofun, hcodes.2⟩) ?_
      rw [lineOf_putLum]
      exact (h.2 _).less (List.filter_subset_self _) fun f hf => ⟨f, hf, rfl⟩
    · have hput : CodesFit (Machine.putLum k (takeLumNumbers f { l with place := place }).1 s) := h.putLum hcodes
      have hnew : lumConfigOk (takeLumNumbers f { l with place := place }).1 :=
        takeLumNumbers_configOk (l := { l with place := place }) (hlums _ (mem_of_tabGet hl))
      have hconfig : ConfigOk (Machine.putLum k (takeLumNumbers f { l with place := place }).1 s) :=
        ⟨tabPut_forall hlums hnew, hrest⟩
      exact hput.recomposeLum hconfig k

theorem FixtureAct.codesFit (h : FixtureAct s t) (hc : ConfigOk s) (hs : CodesFit s) : CodesFit t := by
  have hcleared (i : LineId) : CodesFit (clearFlight i s) := hs.putLine ⟨(hs.2 i).1, nofun⟩
  cases h with
  | enrolled f k hkey hnone => exact hs.putLum ⟨nofun, nofun⟩
  | amended f k l place hl => exact hs.amendLum hc hl f place
  | retired k hl =>
    have hforgot : CodesFit (forgetLum k s) := by
      refine hs.putLine ((hs.2 _).less (List.filter_subset_self _) fun f hf => ?_)
      obtain ⟨g, hg, rfl⟩ := Option.mem_map.mp hf
      exact ⟨g, hg, by split <;> rfl⟩
    exact hforgot.of_lums (fun e he => hforgot.1 e (mem_tabDel he)) fun i => by cases i <;> rfl
  | unflagged k =>
    refine onLum_rel (R := fun _ t => CodesFit t) hs fun m hm => ?_
    have hm := hs.lum hm
    exact hs.putLum hm
  | levelEnded i code k retired hflight =>
    refine CodesFit.arbitrate ?_ i
    unfold Machine.levelEnded
    split
    · exact hcleared i
    · refine onLum_rel (R := fun _ t => CodesFit t) (hcleared i) fun m hm => ?_
      have hcode : code ≤ 254 := (hs.2 i).2 _ hflight code rfl
      have hput := (hcleared i).putLum (k := k) (l := { m with sentCode := some code, confirmation := .awaiting })
        ⟨((hcleared i).lum hm).1, fun c hc => by cases hc; exact hcode⟩
      dsimp only
      split
      · exact hput
      · exact hput.joinConfirm i k
  | answered i kind k retired d hflight =>
    refine CodesFit.arbitrate ?_ i
    split
    · exact hcleared i
    · exact (hcleared i).replied i k d
  | unanswered i kind k retired hflight =>
    refine CodesFit.arbitrate ?_ i
    split
    · exact hcleared i
    · refine onLum_rel (R := fun _ t => CodesFit t) (hcleared i) fun m hm => ?_
      have hm := (hcleared i).lum hm
      have hput : CodesFit (putLum k (Machine.unanswered m) (clearFlight i s)) := (hcleared i).putLum hm
      dsimp only
      split
      · exact hput.joinConfirm i k
      · exact hput
  | lineDown i =>
    refine CodesFit.flagFloor (CodesFit.putLine ?_ ⟨List.forall_mem_nil _, nofun⟩)
    refine forEach_keeps (P := CodesFit) (fun k _ t ht => ?_) hs
    exact onLum_rel (R := fun _ t => CodesFit t) ht fun m hm => ht.putLum ⟨(ht.lum hm).1, nofun⟩
  | lineUp i hdown =>
    exact (CodesFit.flagFloor (CodesFit.putLine (l := { lineOf i s with state := .running }) hs (hs.2 i))).fullRefresh i
  | pinRose i => exact (CodesFit.putLine (l := { lineOf i s with rxHigh := true }) hs (hs.2 i)).arbitrate i
  | pinFell i => exact hs.putLine (hs.2 i)
  | filled i =>
    unfold fillScanSlot
    split
    · split
      · rename_i k _
        exact (CodesFit.putLine (l := { lineOf i s with slot := some k, mark := some (keyAddress k) }) hs
          (hs.2 i)).arbitrate i
      · exact hs
    · exact hs

theorem CodesFit.sameFixtures (hs : CodesFit s) (h : SameFixtures s t) : CodesFit t := by
  obtain ⟨hlums, ha, hb⟩ := h
  exact hs.of_lums (hlums ▸ hs.1) fun i => by cases i <;> assumption

/-- R149: a warm reset empties the queues and keeps the frame in flight. -/
theorem CodesFit.warmBlocks (hs : CodesFit s) : CodesFit (warmBlocks s) := by
  refine ⟨forall_tabMap (p := LumCodesFit) (fun _ h => h) hs.1, fun i => ?_⟩
  have hline : lineOf i (Machine.warmBlocks s) = warmLine (lineOf i s) := by cases i <;> rfl
  rw [hline]
  exact ⟨List.forall_mem_nil _, (hs.2 i).2⟩

theorem CodesFit.composeAll (hs : CodesFit s) (hc : ConfigOk s) : CodesFit (composeAll s) := by
  refine hs.of_lums (fun e he => ?_) fun i => by cases i <;> rfl
  obtain ⟨x, hx, rfl⟩ := List.mem_map.mp he
  have hcodes := hs.1 x hx
  show LumCodesFit (composeOnly s x.2)
  unfold composeOnly
  split
  · exact hcodes
  · split
    · exact hcodes
    · exact ⟨fun c hcomposed => by cases hcomposed; exact composeFrom_code_le (hc.1 x hx) _ _, hcodes.2⟩

end Codes

/-! ## Every act -/

section Runtime

variable {s t : State}

/-- R25, R121, R135, R144: counts, codes, measurement records, tallies and floor-wide values stand in their ranges. -/
def RuntimeFits (s : State) : Prop := MissesOk s ∧ CodesFit s ∧ MeasurementsOk s ∧ CountersOk s

theorem runtimeFits_of_lums (hs : RuntimeFits s) (h : LumsOnly s t) (hmisses : MissesOk t) (hcodes : CodesFit t) :
    RuntimeFits t := by
  obtain ⟨_, _, hmeas, hcounters⟩ := hs
  obtain ⟨hsegs, _, hinputs, _⟩ := h.records
  obtain ⟨hcomposer, htime, _⟩ := h.rest
  refine ⟨hmisses, hcodes, by rw [MeasurementsOk, hinputs]; exact hmeas, countersOk_of hcounters ?_ htime hcomposer⟩
  rw [TalliesFit, hsegs]
  exact hcounters.tallies

theorem RecordAct.runtimeFits (h : RecordAct s t) (hs : RuntimeFits s) : RuntimeFits t := by
  obtain ⟨hmisses, hcodes, hmeas, hcounters⟩ := hs
  have honly := h.recordsOnly
  exact ⟨by rw [MissesOk, honly.fixtures.1]; exact hmisses, hcodes.sameFixtures honly.fixtures, h.measurementsOk hmeas,
    countersOk_of hcounters (h.segsChange.tallies hcounters.tallies) honly.time honly.composer⟩

theorem runtimeFits_ticked (hs : RuntimeFits s) : RuntimeFits (tickAll s) := by
  obtain ⟨hmisses, hcodes, hmeas, _, hcap, hnumber, hlength, hsnapshot, htallies⟩ := hs
  refine ⟨hmisses, hcodes.sameFixtures ⟨rfl, rfl, rfl⟩, measurementsOk_iff.mpr ?_, tickTime_phase s.time, hcap, hnumber, hlength,
    hsnapshot, ?_⟩
  · exact forall_tabMap (p := fun n : Input => DeviceFits n.device) (fun _ => deviceFits_ticked) (measurementsOk_iff.mp hmeas)
  · exact forall_tabMap (p := fun g : Segment => g.tally ≤ Config.tallyMax) (fun _ h => h) htallies

theorem runtimeFits_tallied (hs : RuntimeFits s) : RuntimeFits (addTallies s) := by
  obtain ⟨hmisses, hcodes, hmeas, hphase, hcap, hnumber, hlength, hsnapshot, _⟩ := hs
  refine ⟨hmisses, hcodes.sameFixtures ⟨rfl, rfl, rfl⟩, hmeas, hphase, hcap, hnumber, hlength, hsnapshot, fun e he => ?_⟩
  obtain ⟨g, _, n, hn, heq⟩ := (addTallies_by s).records e he
  rw [heq]
  exact hn

theorem runtimeFits_warmBlocks (hs : RuntimeFits s) : RuntimeFits (warmBlocks s) := by
  obtain ⟨hmisses, hcodes, _, hphase, hcap, _, _, _, htallies⟩ := hs
  have hcold := countersOk_cold false State.reset
  obtain ⟨_, _, hnumber, hlength, hsnapshot, _⟩ := hcold
  refine ⟨forall_tabMap (p := CountsFit) (fun _ => (LumMove.send .warmed).counts) hmisses, hcodes.warmBlocks,
    measurementsOk_iff.mpr ?_, hphase, hcap, hnumber, hlength, hsnapshot, ?_⟩
  · intro e he
    obtain ⟨x, hx, rfl⟩ := List.mem_map.mp he
    exact deviceFits_warmed _ x.2
  · refine forall_tabMap (p := fun g : Segment => g.tally ≤ Config.tallyMax) (fun g h => ?_) htallies
    have htally : (warmSeg s.composer g).tally = g.tally := by
      unfold warmSeg
      dsimp only
      split <;> rfl
    rwa [htally]

theorem runtimeFits_keptByParts : KeptByParts fun s => ConfigOk s ∧ RuntimeFits s where
  record h hs := ⟨configOk_keptByParts.record h hs.1, h.runtimeFits hs.2⟩
  recompose k s hs := by
    refine ⟨configOk_keptByParts.recompose k hs.1, runtimeFits_of_lums hs.2 (recomposeLum_lumsOnly k s) ?_ ?_⟩
    · exact forall_lums_of_moves (p := CountsFit) (fun _ _ => LumMove.counts) (recomposeLum_by k s) hs.2.1
    · exact hs.2.2.1.recomposeLum hs.1 k
  fixture h hs :=
    ⟨configOk_keptByParts.fixture h hs.1,
      runtimeFits_of_lums hs.2 h.lumsOnly (h.missesOk hs.2.1) (h.codesFit hs.1 hs.2.2.1)⟩
  recapped c hcap hnumber hsnapshot hs := by
    obtain ⟨hconfig, hmisses, hcodes, hmeas, hphase, hle, hnumber', hlength, hsnapshot', htallies⟩ := hs
    refine ⟨hconfig, hmisses, hcodes.sameFixtures ⟨rfl, rfl, rfl⟩, hmeas, hphase, ?_, ?_, ?_, ?_, htallies⟩
    · exact hcap.trans (max_le (le_refl _) hle)
    · exact hnumber ▸ hnumber'
    · exact hsnapshot ▸ hlength
    · exact hsnapshot ▸ hsnapshot'
  captured {s} hs := by
    obtain ⟨hconfig, hmisses, hcodes, hmeas, hphase, hle, _, _, _, htallies⟩ := hs
    exact ⟨hconfig, hmisses, hcodes.sameFixtures ⟨rfl, rfl, rfl⟩, hmeas, hphase, hle, nextSnapshotNumber_le _,
      talliesOf_length s, talliesOf_le htallies, htallies⟩
  ticked hs := ⟨configOk_keptByParts.ticked hs.1, runtimeFits_ticked hs.2⟩
  tallied hs := ⟨configOk_keptByParts.tallied hs.1, runtimeFits_tallied hs.2⟩
  holdsTaken hs := ⟨hs.1, hs.2.1, hs.2.2.1.sameFixtures ⟨rfl, rfl, rfl⟩, hs.2.2.2⟩
  drew _ hs := ⟨hs.1, hs.2.1, hs.2.2.1.sameFixtures ⟨rfl, rfl, rfl⟩, hs.2.2.2⟩
  portSet _ hs := ⟨hs.1, hs.2.1, hs.2.2.1.sameFixtures ⟨rfl, rfl, rfl⟩, hs.2.2.2⟩
  warmBlocks hs := ⟨configOk_keptByParts.warmBlocks hs.1, runtimeFits_warmBlocks hs.2⟩
  raiseOnce i s hs := by
    obtain ⟨hconfig, hmisses, hcodes, hmeas, hcounters⟩ := hs
    obtain ⟨hfixtures, ⟨hinputs, _, hcomposer, _, htime, _⟩, _⟩ := (raiseOnce_segsOnly i s).same
    refine ⟨configOk_keptByParts.raiseOnce i hconfig, by rw [MissesOk, hfixtures.1]; exact hmisses, hcodes.sameFixtures hfixtures,
      by rw [MeasurementsOk, hinputs]; exact hmeas, countersOk_of hcounters ?_ htime hcomposer⟩
    exact talliesFit_of_settings (raiseOnce_by i s).live.moves.settings hcounters.tallies
  composeAll {s} hs := by
    refine ⟨configOk_keptByParts.composeAll hs.1, ?_, hs.2.2.1.composeAll hs.1, hs.2.2.2⟩
    exact forall_lums_of_moves (p := CountsFit) (fun _ _ => LumMove.counts) (composeAll_by s) hs.2.1
  refresh i s hrunning hs := by
    refine ⟨configOk_keptByParts.refresh i hrunning hs.1, runtimeFits_of_lums hs.2 (fullRefresh_lumsOnly i s) ?_ ?_⟩
    · rw [MissesOk, fullRefresh_lums]
      exact hs.2.1
    · exact hs.2.2.1.fullRefresh i
  coldReset low _ :=
    ⟨configOk_cold low _, missesOk_cold low _, codesFit_iff.mpr (codesOk_cold low _), measurementsOk_cold low _, countersOk_cold low _⟩

/-- Settles O15, by the moves of the records and by the codes that the composer gives. -/
theorem runtimeStaysInRange : Obligations.RuntimeStaysInRange := by
  intro s t hc hs hstep
  obtain ⟨hmisses, hcodes, hrest⟩ := hs
  obtain ⟨_, hmisses', hcodes', hrest'⟩ := runtimeFits_keptByParts.keptByStep
    (fun _ _ h => ⟨h.1, h.2.1, h.2.2.1.sameFixtures ⟨rfl, rfl, rfl⟩, h.2.2.2⟩) s t
    ⟨hc, hmisses, codesFit_iff.mpr hcodes, hrest⟩ hstep
  exact ⟨hmisses', codesFit_iff.mp hcodes', hrest'⟩

end Runtime

end Sys2Proof.Machine
end

section
/-! SUPPORT. What a definition and an amendment of a segment make of its record and of the others (R14, R15, R70, R71, R75, R85,
R97). -/

namespace Sys2Proof.Machine

/-! ## The record of one segment, and depth raises at the others -/

/-- The record at an id meets `q`; at every other id the record is one that stood in `s`, depth raises aside. -/
structure SegReached (s : State) (i : Nat) (q : Segment → Prop) (t : State) : Prop where
  wf : tabWf 32 t.segs
  self : ∀ u, seg? t i = some u → q u
  others : ∀ j, j ≠ i → ∀ u, seg? t j = some u → ∃ g, seg? s j = some g ∧ RaiseMoves g u

section Reached

variable {s t t' : State} {i : Nat} {q q' : Segment → Prop}

theorem SegReached.put {u : Segment} (h : SegReached s i q t) (hi : i < 32) (hq : q' u) : SegReached s i q' (putSeg i u t) where
  wf := tabWf_put h.wf hi
  self v hv := by
    rw [seg?_putSeg_self] at hv
    cases hv
    exact hq
  others j hj v hv := h.others j hj v (by rwa [seg?_putSeg_ne _ _ hj] at hv)

theorem segReached_put {u : Segment} (hs : tabWf 32 s.segs) (hi : i < 32) (hq : q u) : SegReached s i q (putSeg i u s) :=
  SegReached.put (q := fun _ => True) ⟨hs, fun _ _ => trivial, fun _ _ u hu => ⟨u, hu, .refl⟩⟩ hi hq

theorem SegReached.raises (h : SegReached s i q t) (hraise : SegsBy RaiseMoves t t') :
    SegReached s i (fun u => ∃ v, q v ∧ RaiseMoves v u) t' where
  wf := hraise.keepsTabWf h.wf
  self u hu := by
    obtain ⟨v, hv, hvu⟩ := hraise.get_some h.wf hu
    exact ⟨v, h.self v hv, hvu⟩
  others j hj u hu := by
    obtain ⟨v, hv, hvu⟩ := hraise.get_some h.wf hu
    obtain ⟨g, hg, hgv⟩ := h.others j hj v hv
    exact ⟨g, hg, hgv.trans hvu⟩

theorem SegReached.mono (h : SegReached s i q t) (hq : ∀ u, q u → q' u) : SegReached s i q' t :=
  ⟨h.wf, fun u hu => hq u (h.self u hu), h.others⟩

/-- What acts on the one record. -/
theorem SegReached.onSeg {f : Segment → State → State} (h : SegReached s i q t)
    (hf : ∀ u, seg? t i = some u → q u → SegReached s i q' (f u t)) : SegReached s i q' (onSeg i f t) := by
  cases hu : seg? t i with
  | none =>
    rw [onSeg_none hu]
    exact ⟨h.wf, fun u hu' => by (rw [hu] at hu'; cases hu'), h.others⟩
  | some u =>
    rw [onSeg_some hu]
    exact hf u hu (h.self u hu)

/-- A law of the single segment: the record at the id meets it, and depth raises keep it. -/
theorem SegReached.forall {p : Segment → Prop} (h : SegReached s i p t) (hp : ∀ g u, RaiseMove g u → p g → p u)
    (hs : ∀ e ∈ s.segs, p e.2) : ∀ e ∈ t.segs, p e.2 := by
  intro e he
  have hget : seg? t e.1 = some e.2 := tabGet_of_mem h.wf.1 he
  by_cases hei : e.1 = i
  · exact h.self e.2 (hei ▸ hget)
  · obtain ⟨g, hg, hmoves⟩ := h.others e.1 hei e.2 hget
    have hpg := hs _ (mem_of_tabGet hg)
    clear hget hg
    generalize e.2 = u at hmoves ⊢
    induction hmoves with
    | refl => exact hpg
    | tail _ hmove ih => exact hp _ _ hmove ih

end Reached

/-! ## A definition (R15, R70, R85) -/

/-- R15, R70: the record of a segment defined, before its depth raise. -/
def definedSeg (c : SegConfig) (cap : Nat) : Segment :=
  match c.mode with
  | .manual => freshSeg c cap
  | .harvest => enteredHarvest (freshSeg c cap)

section Defined

variable {s : State} {i : Nat}

theorem enterHarvest_reached {g : Segment} {q : Segment → Prop} {t : State} (h : SegReached s i q t) (hi : i < 32) :
    SegReached s i (fun u => RaiseMoves (enteredHarvest g) u) (enterHarvest i (putSeg i g t)) := by
  rw [enterHarvest_putSeg]
  have hput : SegReached s i (fun u => u = enteredHarvest g) (putSeg i (enteredHarvest g) t) := h.put hi rfl
  refine ((hput.raises (depthRaise_raises 4 i _)).raises (raiseInner_raises i _)).mono ?_
  rintro w ⟨v, ⟨_, rfl, huv⟩, hvw⟩
  exact huv.trans hvw

theorem defineSeg_reached (c : SegConfig) (hs : tabWf 32 s.segs) (hi : i < 32) :
    SegReached s i (fun u => RaiseMoves (definedSeg c (effectiveCap s.composer c.cap)) u) (defineSeg i c s) := by
  unfold defineSeg definedSeg
  cases c.mode with
  | manual => exact segReached_put hs hi .refl
  | harvest =>
    exact enterHarvest_reached (q := fun _ => True) ⟨hs, fun _ _ => trivial, fun _ _ u hu => ⟨u, hu, .refl⟩⟩ hi

end Defined

/-! ## An amendment (R14) -/

/-- R14 step 2, R70, R71: the record after the mode change, before its depth raise. -/
def modeStepped (old new : Mode) (g : Segment) : Segment :=
  match old, new with
  | .manual, .harvest => enteredHarvest g
  | .harvest, .manual => leftHarvest g
  | _, _ => g

/-- R14 step 3, R68, R87: what the cap-change event makes of a record, the effective cap having been `old`. -/
inductive CapStepped (old : Nat) (u : Segment) : Segment → Prop
  | same (hcap : u.effCap = old) : CapStepped old u u
  | manual (hmode : u.cfg.mode = .manual) : CapStepped old u u
  | clamped (hmode : u.cfg.mode = .harvest) (hcap : u.effCap < u.h) : CapStepped old u (capClamped u.effCap u)
  | rose {v : Segment} (hmode : u.cfg.mode = .harvest) (hcap : u.h ≤ u.effCap) (hraise : RaiseMoves u v) :
      CapStepped old u v

/-- R14 step 4, R75: the record after the test of a changed cut-off level. -/
def cutOffTested (g : Segment) : Segment :=
  if g.ctl = .dwell ∧ (g.cfg.cutOff = 0 ∨ g.cfg.cutOff < g.h) then { g with ctl := .tracking, offTimer := none } else g

/-- R14 step 5, R97: the record after a change of the activity sensing. -/
def sensed (s : State) (i : Nat) (g : Segment) : Segment :=
  if g.cfg.sensing then { g with holdTimer := startTimer (holdTenths g.cfg) }
  else heldAgain s i { g with activity := .occupied, holdTimer := none, setbackTimer := none }

/-- R14: what an amendment makes of a record, step by step. -/
inductive AmendPath (s : State) (i : Nat) (g : Segment) (c : SegConfig) (clear : Bool) : Segment → Prop
  | mk {u v w : Segment} (hmode : RaiseMoves (modeStepped g.cfg.mode c.mode (amendedSeg s g c)) u)
      (hcap : CapStepped g.effCap u v)
      (hlink : RaiseMoves
        (if c.sensing = g.cfg.sensing then if c.cutOff = g.cfg.cutOff then v else cutOffTested v
          else sensed s i (if c.cutOff = g.cfg.cutOff then v else cutOffTested v)) w) :
      AmendPath s i g c clear (if clear then { w with shortfall := false } else w)

section Amended

variable {s t : State} {i : Nat} {g : Segment} {c : SegConfig} {q : Segment → Prop}

theorem modeChange_reached {u : Segment} (hs : tabWf 32 s.segs) (hi : i < 32) (old new : Mode) :
    SegReached s i (fun v => RaiseMoves (modeStepped old new u) v) (modeChange i old new (putSeg i u s)) := by
  have hput (v : Segment) : SegReached s i (fun w => RaiseMoves v w) (putSeg i v s) := segReached_put hs hi .refl
  cases old <;> cases new
  case manual.harvest =>
    exact enterHarvest_reached (q := fun _ => True) ⟨hs, fun _ _ => trivial, fun _ _ u hu => ⟨u, hu, .refl⟩⟩ hi
  case harvest.manual =>
    rw [modeChange, leaveHarvest, onSeg_some (seg?_putSeg_self i u s), putSeg_putSeg]
    exact hput (leftHarvest u)
  all_goals exact hput u

theorem capStep_reached (h : SegReached s i q t) (hi : i < 32) (old : Nat) :
    SegReached s i (fun v => ∃ u, q u ∧ CapStepped old u v) (capStep i old t) := by
  refine h.onSeg fun u hu hq => ?_
  split
  · rename_i hcap
    refine ⟨h.wf, fun v hv => ⟨u, hq, ?_⟩, h.others⟩
    cases hu.symm.trans hv
    exact .same hcap
  · rw [capChange, onSeg_some hu]
    have hstay (hstep : CapStepped old u u) : SegReached s i (fun v => ∃ u, q u ∧ CapStepped old u v) t := by
      refine ⟨h.wf, fun v hv => ⟨u, hq, ?_⟩, h.others⟩
      cases hu.symm.trans hv
      exact hstep
    split
    · rename_i hmode
      split
      · rename_i hclamp
        exact h.put hi ⟨u, hq, .clamped hmode hclamp⟩
      · rename_i hcap
        split
        · have hself : SegReached s i (fun v => v = u) t := ⟨h.wf, fun v hv => by cases hu.symm.trans hv; rfl, h.others⟩
          refine (hself.raises (depthRaise_raises 4 i t)).mono ?_
          rintro w ⟨v, rfl, hvw⟩
          exact ⟨v, hq, .rose hmode (by omega) hvw⟩
        · exact hstay (.rose hmode (by omega) .refl)
    · rename_i hmode
      refine hstay (.manual ?_)
      cases hm : u.cfg.mode with
      | manual => rfl
      | harvest => exact absurd hm hmode

theorem cutOffChanged_reached (h : SegReached s i q t) (hi : i < 32) :
    SegReached s i (fun v => ∃ u, q u ∧ v = cutOffTested u) (cutOffChanged i t) := by
  refine h.onSeg fun u hu hq => ?_
  split
  · rename_i hcond
    exact h.put hi ⟨u, hq, by rw [cutOffTested, if_pos hcond]⟩
  · rename_i hcond
    refine ⟨h.wf, fun v hv => ⟨u, hq, ?_⟩, h.others⟩
    cases hu.symm.trans hv
    rw [cutOffTested, if_neg hcond]

theorem heldAgain_congr (h : t.overrides = s.overrides) (i : Nat) (g : Segment) : heldAgain t i g = heldAgain s i g := by
  unfold heldAgain isHeld recordsOf
  rw [h]

theorem sensingChanged_reached (h : SegReached s i q t) (hi : i < 32) (hlist : t.overrides = s.overrides) :
    SegReached s i (fun v => ∃ u, q u ∧ v = sensed s i u) (sensingChanged i t) := by
  refine h.onSeg fun u hu hq => ?_
  split
  · rename_i hon
    exact h.put hi ⟨u, hq, by rw [sensed, if_pos hon]⟩
  · rename_i hoff
    rw [recomputeHeld_eq (seg?_putSeg_self i _ t), putSeg_putSeg, heldAgain_congr (s := s) (t := putSeg i _ t) hlist]
    exact h.put hi ⟨u, hq, by rw [sensed, if_neg hoff]⟩

theorem SegReached.ite {p : Prop} [Decidable p] {f : Segment → Segment} {t' : State} (h : SegReached s i q t)
    (h' : SegReached s i (fun v => ∃ u, q u ∧ v = f u) t') :
    SegReached s i (fun v => ∃ u, q u ∧ v = if p then u else f u) (if p then t else t') := by
  split
  · exact h.mono fun u hu => ⟨u, hu, rfl⟩
  · exact h'

/-- R14: the steps of an amendment. -/
theorem amendSeg_reached (c : SegConfig) (clear : Bool) (hs : tabWf 32 s.segs) (hg : seg? s i = some g) :
    SegReached s i (AmendPath s i g c clear) (amendSeg i g c clear s) := by
  have hi : i < 32 := hs.2 _ (mem_of_tabGet hg)
  have heffects : SegReached s i (AmendPath s i g c false) (amendEffects i g c (putSeg i { g with cfg := c } s)) := by
    have hmode := modeChange_reached (u := amendedSeg s g c) hs hi g.cfg.mode c.mode
    have hcap := capStep_reached hmode hi g.effCap
    have hlist : (capStep i g.effCap (modeChange i g.cfg.mode c.mode (putSeg i (amendedSeg s g c) s))).overrides
        = s.overrides := by
      have hsame := ((putSeg_segsOnly i (amendedSeg s g c) s).trans (modeChange_segsOnly i g.cfg.mode c.mode _)).trans
        (capStep_segsOnly i g.effCap _)
      exact hsame.same.2.1.2.1
    unfold amendEffects
    dsimp only
    rw [storeCap_amended]
    revert hcap hlist
    generalize capStep i g.effCap _ = s3
    intro hcap hlist
    have hcut := hcap.ite (p := c.cutOff = g.cfg.cutOff) (cutOffChanged_reached hcap hi)
    have hlist' : (if c.cutOff = g.cfg.cutOff then s3 else cutOffChanged i s3).overrides = s.overrides := by
      split
      · exact hlist
      · exact (cutOffChanged_segsOnly i s3).same.2.1.2.1.trans hlist
    have hsensing := hcut.ite (p := c.sensing = g.cfg.sensing) (sensingChanged_reached hcut hi hlist')
    revert hsensing
    generalize (if c.sensing = g.cfg.sensing then
      if c.cutOff = g.cfg.cutOff then s3 else cutOffChanged i s3 else _) = s5
    intro hsensing
    have hraised : SegReached s i (AmendPath s i g c false) (depthRaise 4 i s5) := by
      refine (hsensing.raises (depthRaise_raises 4 i s5)).mono ?_
      rintro w ⟨_, ⟨_, ⟨v, ⟨u, hu, huv⟩, rfl⟩, rfl⟩, hw⟩
      exact .mk hu huv hw
    split
    · refine hsensing.mono ?_
      rintro w ⟨_, ⟨v, ⟨u, hu, huv⟩, rfl⟩, rfl⟩
      exact .mk hu huv .refl
    · exact hraised
  unfold amendSeg
  dsimp only
  split
  · refine heffects.onSeg fun u hu hpath => ?_
    obtain ⟨hmode, hcap, hlink⟩ := hpath
    refine heffects.put hi ?_
    subst clear
    exact .mk hmode hcap hlink
  · rename_i hclear
    rw [Bool.not_eq_true] at hclear
    subst hclear
    exact heffects

end Amended

end Sys2Proof.Machine
end

section
/-! SUPPORT. When the timers of a segment may run (R50, R53, R58, R61, R65, R72, R89), move by move. -/

namespace Sys2Proof.Machine

/-- R50, R53, R61, R65, R72: when the timers of a controller may run. -/
structure CtlTimers (g : Segment) : Prop where
  step : g.stepTimer.isSome = true ↔ g.cfg.mode = .harvest
  off : g.offTimer.isSome = true → g.ctl = .dwell ∧ g.held = false
  blind : g.blindTimer.isSome = true → g.cfg.mode = .harvest
  short : g.shortTimer.isSome = true → (g.ctl = .tracking ∨ g.ctl = .dwell) ∧ g.held = false ∧ g.shortfall = false

/-- R89, R97: when the timers of the activity may run, the activity sensing being on or off. -/
structure ActivityTimers (sensing : Bool) (g : Segment) : Prop where
  hold : g.holdTimer.isSome = true ↔ sensing = true ∧ g.activity = .occupied
  setback : g.setbackTimer.isSome = true ↔ g.activity = .setback

theorem segTimersOk_iff {g : Segment} : segTimersOk g ↔ CtlTimers g ∧ ActivityTimers g.cfg.sensing g :=
  ⟨fun ⟨h1, h2, h3, h4, h5, h6⟩ => ⟨⟨h1, h2, h3, h4⟩, ⟨h5, h6⟩⟩,
    fun ⟨⟨h1, h2, h3, h4⟩, ⟨h5, h6⟩⟩ => ⟨h1, h2, h3, h4, h5, h6⟩⟩

theorem isSome_of_due {t : Timer} (h : timerDue t = true) : t.isSome = true := by
  simp only [timerDue, beq_iff_eq] at h
  rw [h]
  rfl

theorem ActivityTimers.of_frame {b : Bool} {g u : Segment} (h : ActivityTimers b g) (k : CtlFrame g u) : ActivityTimers b u :=
  ⟨by rw [k.holdTimer, k.activity]; exact h.hold, by rw [k.setbackTimer, k.activity]; exact h.setback⟩

section Ctl

variable {g u : Segment}

theorem CtlTimers.off_none (h : CtlTimers g) (hctl : g.ctl ≠ .dwell) : g.offTimer = none := by
  rw [← Option.not_isSome_iff_eq_none]
  exact fun hs => hctl (h.off hs).1

theorem CtlTimers.short_none (h : CtlTimers g) (htracking : g.ctl ≠ .tracking) (hdwell : g.ctl ≠ .dwell) :
    g.shortTimer = none := by
  rw [← Option.not_isSome_iff_eq_none]
  exact fun hs => (h.short hs).1.elim htracking hdwell

theorem CtlTimers.harvest_of_step (h : CtlTimers g) (hdue : timerDue g.stepTimer = true) : g.cfg.mode = .harvest :=
  h.step.mp (isSome_of_due hdue)

/-- A segment whose off-delay and shortfall timers do not run, in whatever controller state. -/
theorem CtlTimers.idle (h : CtlTimers g) (hcfg : u.cfg.mode = g.cfg.mode) (hstep : u.stepTimer.isSome = g.stepTimer.isSome)
    (hblind : u.blindTimer.isSome = true → g.cfg.mode = .harvest) (hoff : u.offTimer = none) (hshort : u.shortTimer = none) :
    CtlTimers u where
  step := by rw [hstep, hcfg]; exact h.step
  off hs := by rw [hoff] at hs; cases hs
  blind hs := hcfg ▸ hblind hs
  short hs := by rw [hshort] at hs; cases hs

/-- R81: a depth raise. -/
theorem CtlTimers.raised (h : CtlTimers g) (hmove : RaiseMove g u) : CtlTimers u := by
  obtain ⟨o, hmode⟩ := hmove
  unfold afterRaise
  dsimp only
  split
  · exact h
  · split
    · exact h
    · exact ⟨h.step, h.off, h.blind, h.short⟩
    · exact ⟨h.step, h.off, h.blind, h.short⟩
    · rename_i hctl
      split
      · exact ⟨h.step, nofun, h.blind, fun hs => ⟨.inl rfl, (h.short hs).2⟩⟩
      · exact ⟨h.step, h.off, h.blind, h.short⟩
    · rename_i hctl
      refine h.idle rfl ?_ h.blind (h.off_none (by rw [hctl]; nofun)) (h.short_none (by rw [hctl]; nofun) (by rw [hctl]; nofun))
      rw [h.step.mpr hmode]
      rfl

/-- R57, R58: a step that was made, at a TRACKING or DWELL segment that is not held. -/
theorem CtlTimers.afterStep (h : CtlTimers g) (hheld : g.held = false) (n : Nat) (hctl : g.ctl = .tracking ∨ g.ctl = .dwell)
    (x : Nat) (hmode : g.cfg.mode = .harvest) : CtlTimers { afterStep g n with stepTimer := startTimer x } := by
  have hstep : (startTimer x).isSome = true ↔ g.cfg.mode = .harvest := ⟨fun _ => hmode, fun _ => rfl⟩
  unfold Machine.afterStep
  split
  · rename_i htracking
    split
    · exact ⟨hstep, fun _ => ⟨rfl, hheld⟩, h.blind, fun hs => ⟨.inr rfl, (h.short hs).2⟩⟩
    · exact ⟨hstep, h.off, h.blind, h.short⟩
  · split
    · exact ⟨hstep, nofun, h.blind, fun hs => ⟨.inl rfl, (h.short hs).2⟩⟩
    · exact ⟨hstep, h.off, h.blind, h.short⟩
  · rename_i hother hother'
    exact (hctl.elim hother hother').elim

theorem CtlTimers.reloadShorter (h : CtlTimers g) (hmode : g.cfg.mode = .harvest) : CtlTimers (reloadShorter g) :=
  ⟨⟨fun _ => hmode, fun _ => rfl⟩, h.off, h.blind, h.short⟩

theorem CtlTimers.startOffDelay (h : CtlTimers g) (hheld : g.held = false) : CtlTimers (startOffDelay g) := by
  unfold Machine.startOffDelay
  split
  · rename_i hdwell
    exact ⟨h.step, fun _ => ⟨hdwell.1, hheld⟩, h.blind, h.short⟩
  · exact h

theorem CtlTimers.goBlind (h : CtlTimers g) (hmode : g.cfg.mode = .harvest) : CtlTimers (goBlind g) :=
  ⟨⟨fun _ => hmode, fun _ => rfl⟩, h.off, fun _ => hmode, nofun⟩

theorem CtlTimers.seeAgain (h : CtlTimers g) : CtlTimers (seeAgain g) := ⟨h.step, h.off, nofun, h.short⟩

/-- R59: a strike out of DAYLIT. -/
theorem CtlTimers.struck (h : CtlTimers g) (hmode : g.cfg.mode = .harvest) (hctl : g.ctl = .daylit) (s : State) :
    CtlTimers (struck s g) := by
  refine h.idle rfl ?_ h.blind (h.off_none (by rw [hctl]; nofun)) (h.short_none (by rw [hctl]; nofun) (by rw [hctl]; nofun))
  rw [h.step.mpr hmode]
  rfl

theorem CtlTimers.monitorShortfall (h : CtlTimers g) (hheld : g.held = false) (hctl : g.ctl = .tracking ∨ g.ctl = .dwell)
    (e : Nat) : CtlTimers (monitorShortfall e g) := by
  unfold Machine.monitorShortfall
  split
  · split
    · rename_i hfree
      exact ⟨h.step, h.off, h.blind, fun _ => ⟨hctl, hheld, hfree.2⟩⟩
    · exact h
  · exact ⟨h.step, h.off, h.blind, nofun⟩

theorem monitorShortfall_ctl (e : Nat) (g : Segment) :
    (Machine.monitorShortfall e g).ctl = g.ctl ∧ (Machine.monitorShortfall e g).h = g.h
      ∧ (Machine.monitorShortfall e g).effCap = g.effCap := by
  unfold Machine.monitorShortfall
  split
  · split <;> exact ⟨rfl, rfl, rfl⟩
  · exact ⟨rfl, rfl, rfl⟩

/-- R57, R58, R72: the evaluation of a TRACKING or DWELL segment that is not held. -/
theorem CtlTimers.evaluate (h : CtlTimers g) (hheld : g.held = false) (hctl : g.ctl = .tracking ∨ g.ctl = .dwell)
    (hmode : g.cfg.mode = .harvest) (floor e : Nat) : CtlTimers (evaluate floor e g) := by
  have hframe := monitorShortfall_frame e g
  have hm := h.monitorShortfall hheld hctl e
  have hctl' : (Machine.monitorShortfall e g).ctl = .tracking ∨ (Machine.monitorShortfall e g).ctl = .dwell := by
    rwa [(monitorShortfall_ctl e g).1]
  have hmode' : (Machine.monitorShortfall e g).cfg.mode = .harvest := by rw [hframe.cfg]; exact hmode
  have hheld' : (Machine.monitorShortfall e g).held = false := by rw [hframe.held]; exact hheld
  unfold Machine.evaluate
  dsimp only
  split
  · split
    · exact hm.reloadShorter hmode'
    · exact hm.afterStep hheld' _ hctl' _ hmode'
  · split
    · split
      · exact hm.reloadShorter hmode'
      · exact hm.afterStep hheld' _ hctl' _ hmode'
    · exact hm.reloadShorter hmode'

theorem startOffDelay_ctl (g : Segment) :
    (Machine.startOffDelay g).ctl = g.ctl ∧ (Machine.startOffDelay g).h = g.h
      ∧ (Machine.startOffDelay g).effCap = g.effCap := by
  unfold Machine.startOffDelay
  split <;> exact ⟨rfl, rfl, rfl⟩

/-- R55 to R60: a step event. -/
theorem CtlTimers.stepped (h : CtlTimers g) (hmode : g.cfg.mode = .harvest) (s : State) : CtlTimers (stepped s g) := by
  have hframe := startOffDelay_frame g
  unfold Machine.stepped
  split
  · exact h
  · rename_i hctl
    refine CtlTimers.reloadShorter (g := { g with ctl := .tracking }) (h.idle rfl rfl h.blind ?_ ?_) hmode
    · exact h.off_none (by rw [hctl]; nofun)
    · exact h.short_none (by rw [hctl]; nofun) (by rw [hctl]; nofun)
  · rename_i hforced hstrike
    split
    · exact h.reloadShorter hmode
    · rename_i hheld
      have hheld : g.held = false := by simpa using hheld
      have hstart := h.startOffDelay hheld
      have hmode' : (Machine.startOffDelay g).cfg.mode = .harvest := by rw [hframe.cfg]; exact hmode
      split
      · exact hstart.goBlind hmode'
      · dsimp only
        split
        · rename_i hdaylit
          split
          · exact hstart.seeAgain.struck hmode' ((startOffDelay_ctl g).1.trans hdaylit) s
          · exact hstart.seeAgain.reloadShorter hmode'
        · rename_i hdaylit
          refine hstart.seeAgain.evaluate ?_ ?_ hmode' _ _
          · exact hframe.held.trans hheld
          · show (Machine.startOffDelay g).ctl = .tracking ∨ (Machine.startOffDelay g).ctl = .dwell
            rw [(startOffDelay_ctl g).1]
            cases hc : g.ctl with
            | tracking => exact .inl rfl
            | dwell => exact .inr rfl
            | daylit => exact absurd hc hdaylit
            | strike => exact absurd hc hstrike
            | forced => exact absurd hc hforced

/-- R63: a sky change. -/
theorem CtlTimers.earlyStepped (h : CtlTimers g) (s : State) : CtlTimers (earlyStepped s g) := by
  unfold Machine.earlyStepped
  split
  · rename_i hacts
    split
    · exact h
    · split
      · rename_i hctl
        split
        · exact h.afterStep hacts.2 _ (.inl hctl) _ hacts.1
        · exact h
      · rename_i hctl
        split
        · exact h.afterStep hacts.2 _ (.inr hctl) _ hacts.1
        · exact h
      · rename_i hctl
        split
        · exact h.struck hacts.1 hctl s
        · exact h
      · exact h
  · exact h

/-- R62: the off-delay expiry. -/
theorem CtlTimers.offDelayed (h : CtlTimers g) (hdue : timerDue g.offTimer = true) (s : State) :
    CtlTimers (offDelayed s g) := by
  have hdark : CtlTimers { g with ctl := .daylit, h := 0, offTimer := none, shortTimer := none } :=
    h.idle rfl rfl h.blind rfl rfl
  unfold Machine.offDelayed
  split
  · split
    · exact ⟨h.step, fun _ => h.off (isSome_of_due hdue), h.blind, h.short⟩
    · exact hdark
  · exact hdark

/-- R67: the blind-timer expiry. -/
theorem CtlTimers.fellBack (h : CtlTimers g) : CtlTimers (fellBack g) where
  step := h.step
  off hs := by
    dsimp only [Machine.fellBack] at hs
    split at hs
    · cases hs
    · rename_i hdwell
      rw [h.off_none hdwell] at hs
      cases hs
  blind := nofun
  short hs := ⟨.inl rfl, (h.short hs).2⟩

theorem dwellTimer_isSome (g : Segment) : (dwellTimer g).isSome = true → g.held = false := by
  unfold dwellTimer
  split
  · nofun
  · rename_i hheld
    exact fun _ => by simpa using hheld

/-- R68: H clamped under a new cap. -/
theorem CtlTimers.capClamped (h : CtlTimers g) (cap : Nat) : CtlTimers (capClamped cap g) := by
  unfold Machine.capClamped
  split
  · exact ⟨h.step, fun hs => ⟨rfl, dwellTimer_isSome g hs⟩, h.blind, fun hs => ⟨.inr rfl, (h.short hs).2⟩⟩
  · exact ⟨h.step, h.off, h.blind, h.short⟩

theorem CtlMove.ctlTimers (hmove : CtlMove g u) (h : CtlTimers g) : CtlTimers u := by
  cases hmove with
  | raised hmove => exact h.raised hmove
  | stepped s hdue => exact h.stepped (h.harvest_of_step hdue) s
  | skyChanged s => exact h.earlyStepped s
  | offDelayed s hdue => exact h.offDelayed hdue s
  | fellBack => exact h.fellBack
  | fellShort => exact ⟨h.step, h.off, h.blind, nofun⟩
  | unflagged => exact ⟨h.step, h.off, h.blind, h.short⟩

theorem CapMove.ctlTimers (hmove : CapMove g u) (h : CtlTimers g) : CtlTimers u := by
  cases hmove with
  | rose cap => exact ⟨h.step, h.off, h.blind, h.short⟩
  | fell cap => exact CtlTimers.capClamped (g := { g with effCap := cap }) ⟨h.step, h.off, h.blind, h.short⟩ cap
  | raised hmove => exact h.raised hmove

theorem CtlTimers.heldAgain (h : CtlTimers g) (s : State) (i : Nat) : CtlTimers (heldAgain s i g) := by
  unfold Machine.heldAgain
  split
  · exact h.idle rfl rfl h.blind rfl rfl
  · rename_i hkeeps
    have hheld (hs : g.held = false) : isHeld s i g = false := by simpa [hs] using hkeeps
    exact ⟨h.step, fun hs => ⟨(h.off hs).1, hheld (h.off hs).2⟩, h.blind,
      fun hs => ⟨(h.short hs).1, hheld (h.short hs).2.1, (h.short hs).2.2⟩⟩

theorem heldAgain_activity (s : State) (i : Nat) (g : Segment) :
    (Machine.heldAgain s i g).cfg = g.cfg ∧ (Machine.heldAgain s i g).activity = g.activity
      ∧ (Machine.heldAgain s i g).holdTimer = g.holdTimer ∧ (Machine.heldAgain s i g).setbackTimer = g.setbackTimer := by
  unfold Machine.heldAgain
  split <;> exact ⟨rfl, rfl, rfl, rfl⟩

theorem ActivityTimers.heldAgain {b : Bool} (h : ActivityTimers b g) (s : State) (i : Nat) :
    ActivityTimers b (heldAgain s i g) := by
  obtain ⟨_, hactivity, hhold, hsetback⟩ := heldAgain_activity s i g
  exact ⟨by rw [hhold, hactivity]; exact h.hold, by rw [hsetback, hactivity]; exact h.setback⟩

theorem LiveMove.timersOk (hmove : LiveMove g u) (h : segTimersOk g) : segTimersOk u := by
  obtain ⟨hctl, hactivity⟩ := segTimersOk_iff.mp h
  rw [segTimersOk_iff]
  cases hmove with
  | ctl hmove => exact ⟨hmove.ctlTimers hctl, by rw [hmove.frame.cfg]; exact hactivity.of_frame hmove.frame⟩
  | held s i =>
    exact ⟨hctl.heldAgain s i, by rw [(heldAgain_activity s i g).1]; exact hactivity.heldAgain s i⟩
  | occupied flag hsensing =>
    exact ⟨⟨hctl.step, hctl.off, hctl.blind, hctl.short⟩,
      ⟨fun _ => ⟨hsensing, rfl⟩, fun _ => rfl⟩, nofun, nofun⟩

theorem SegMove.timersOk (hmove : SegMove g u) (h : segTimersOk g) : segTimersOk u := by
  obtain ⟨hctl, hactivity⟩ := segTimersOk_iff.mp h
  rw [segTimersOk_iff]
  cases hmove with
  | live hmove => exact segTimersOk_iff.mp (hmove.timersOk h)
  | recapped hmove =>
    have hframe := hmove.frame
    have hbefore : ActivityTimers g.cfg.sensing { g with effCap := u.effCap } := ⟨hactivity.hold, hactivity.setback⟩
    exact ⟨hmove.ctlTimers hctl, by rw [hframe.cfg]; exact hbefore.of_frame hframe⟩
  | dimmed hdue =>
    exact ⟨⟨hctl.step, hctl.off, hctl.blind, hctl.short⟩,
      ⟨nofun, fun hon => nomatch hon.2⟩, fun _ => rfl, fun _ => rfl⟩
  | stayed hdue =>
    exact ⟨⟨hctl.step, hctl.off, hctl.blind, hctl.short⟩,
      ⟨fun _ => hactivity.hold.mp (isSome_of_due hdue), fun _ => rfl⟩, hactivity.setback⟩
  | emptied hdue =>
    have hsetback := hactivity.setback.mp (isSome_of_due hdue)
    refine ⟨⟨hctl.step, hctl.off, hctl.blind, hctl.short⟩,
      ⟨fun hs => ?_, fun hon => nomatch hon.2⟩, nofun, nofun⟩
    rw [(hactivity.hold.mp hs).2] at hsetback
    cases hsetback

end Ctl

end Sys2Proof.Machine
end

section
/-! SUPPORT. The timers and the activity of a segment through a definition, an amendment, a tenth and a warm reset; no OCCUPANT
record at a VACANT segment (R94). -/

namespace Sys2Proof.Machine

/-! ## The record of one segment -/

/-- R89, R97: the timers of a segment run where they may, and a segment whose activity sensing is off is OCCUPIED. -/
def SegSettled (g : Segment) : Prop := segTimersOk g ∧ sensingOk g

section Record

variable {s : State} {i : Nat} {g u : Segment}

theorem RaiseMove.frame (h : RaiseMove g u) : CtlFrame g u := CtlMove.frame (.raised h)

theorem raiseMoves_frame (h : RaiseMoves g u) : CtlFrame g u := by
  induction h with
  | refl => exact .refl g
  | tail _ h ih => exact ih.trans h.frame

theorem raiseMoves_effCap (h : RaiseMoves g u) : u.effCap = g.effCap := by
  induction h with
  | refl => rfl
  | tail _ h ih =>
    obtain ⟨o, _⟩ := h
    exact (afterRaise_effCap o _).trans ih

theorem raiseMoves_ctlTimers (h : RaiseMoves g u) (hg : CtlTimers g) : CtlTimers u := by
  induction h with
  | refl => exact hg
  | tail _ h ih => exact ih.raised h

theorem sensingOk_of_frame (h : CtlFrame g u) (hg : sensingOk g) : sensingOk u := by
  unfold sensingOk
  rw [h.cfg, h.activity]
  exact hg

theorem RaiseMove.settled (h : RaiseMove g u) (hg : SegSettled g) : SegSettled u :=
  ⟨(LiveMove.ctl (.raised h)).timersOk hg.1, sensingOk_of_frame h.frame hg.2⟩

theorem raiseMoves_settled (h : RaiseMoves g u) (hg : SegSettled g) : SegSettled u := by
  induction h with
  | refl => exact hg
  | tail _ h ih => exact h.settled ih

theorem LiveMove.sensingOk (h : LiveMove g u) (hg : sensingOk g) : sensingOk u := by
  cases h with
  | ctl h => exact sensingOk_of_frame h.frame hg
  | held s i =>
    obtain ⟨hcfg, hactivity, _⟩ := heldAgain_activity s i g
    unfold Machine.sensingOk
    rw [hcfg, hactivity]
    exact hg
  | occupied => exact fun _ => rfl

/-- R93, R97: a timer of the activity runs only while the activity sensing is on. -/
theorem SegSettled.sensing_of_hold (h : SegSettled g) (hdue : timerDue g.holdTimer = true) : g.cfg.sensing = true :=
  ((segTimersOk_iff.mp h.1).2.hold.mp (isSome_of_due hdue)).1

theorem SegSettled.sensing_of_setback (h : SegSettled g) (hdue : timerDue g.setbackTimer = true) :
    g.cfg.sensing = true := by
  have hsetback := (segTimersOk_iff.mp h.1).2.setback.mp (isSome_of_due hdue)
  cases hsensing : g.cfg.sensing with
  | true => rfl
  | false =>
    rw [h.2 hsensing] at hsetback
    cases hsetback

theorem SegMove.settled (h : SegMove g u) (hg : SegSettled g) : SegSettled u := by
  refine ⟨h.timersOk hg.1, ?_⟩
  cases h with
  | live h => exact h.sensingOk hg.2
  | recapped h => exact sensingOk_of_frame (g := { g with effCap := u.effCap }) h.frame hg.2
  | dimmed hdue => exact fun hoff => absurd (hg.sensing_of_hold hdue) (by rw [hoff]; nofun)
  | stayed hdue => exact hg.2
  | emptied hdue => exact fun hoff => absurd (hg.sensing_of_setback hdue) (by rw [hoff]; nofun)

/-! ## A definition -/

theorem enteredHarvest_timers (hmode : g.cfg.mode = .harvest) : CtlTimers (enteredHarvest g) where
  step := ⟨fun _ => hmode, fun _ => rfl⟩
  off hs := by
    dsimp only [enteredHarvest] at hs ⊢
    split at hs
    · rename_i hdwells
      rw [if_pos hdwells]
      exact ⟨rfl, dwellTimer_isSome g hs⟩
    · cases hs
  blind := nofun
  short := nofun

theorem leftHarvest_timers (hmode : g.cfg.mode = .manual) : CtlTimers (leftHarvest g) where
  step := ⟨nofun, fun h => by rw [show (leftHarvest g).cfg.mode = .manual from hmode] at h; cases h⟩
  off := nofun
  blind := nofun
  short := nofun

theorem enteredHarvest_activity {b : Bool} (h : ActivityTimers b g) : ActivityTimers b (enteredHarvest g) := ⟨h.hold, h.setback⟩

theorem leftHarvest_activity {b : Bool} (h : ActivityTimers b g) : ActivityTimers b (leftHarvest g) := ⟨h.hold, h.setback⟩

theorem freshSeg_activity (c : SegConfig) (cap : Nat) : ActivityTimers c.sensing (freshSeg c cap) := by
  refine ⟨?_, nofun, nofun⟩
  dsimp only [freshSeg]
  cases c.sensing <;> simp [startTimer]

theorem definedSeg_settled (c : SegConfig) (cap : Nat) : SegSettled (definedSeg c cap) := by
  unfold definedSeg
  cases hmode : c.mode with
  | manual =>
    exact ⟨segTimersOk_iff.mpr ⟨⟨⟨nofun, fun h => by cases hmode.symm.trans h⟩, nofun, nofun, nofun⟩, freshSeg_activity c cap⟩,
      fun _ => rfl⟩
  | harvest =>
    exact ⟨segTimersOk_iff.mpr ⟨enteredHarvest_timers hmode, enteredHarvest_activity (freshSeg_activity c cap)⟩, fun _ => rfl⟩

/-! ## An amendment -/

theorem amendedSeg_cfg (s : State) (g : Segment) (c : SegConfig) : (amendedSeg s g c).cfg = c := rfl

theorem modeStepped_cfg (old new : Mode) (g : Segment) : (modeStepped old new g).cfg = g.cfg := by
  cases old <;> cases new <;> rfl

theorem modeStepped_activity (old new : Mode) (g : Segment) :
    (modeStepped old new g).activity = g.activity ∧ (modeStepped old new g).holdTimer = g.holdTimer
      ∧ (modeStepped old new g).setbackTimer = g.setbackTimer := by
  cases old <;> cases new <;> exact ⟨rfl, rfl, rfl⟩

/-- R70, R71: the mode change leaves the timers of the controller where they may run. -/
theorem modeStepped_timers {c : SegConfig} (h : CtlTimers g) :
    CtlTimers (modeStepped g.cfg.mode c.mode (amendedSeg s g c)) := by
  have hkept (hmode : g.cfg.mode = c.mode) : CtlTimers (amendedSeg s g c) :=
    ⟨hmode ▸ h.step, h.off, fun hs => hmode ▸ h.blind hs, h.short⟩
  unfold modeStepped
  split
  · rename_i hnew
    exact enteredHarvest_timers hnew
  · rename_i hnew
    exact leftHarvest_timers hnew
  · rename_i hup hdown
    refine hkept ?_
    cases hold : g.cfg.mode <;> cases hnew : c.mode
    · rfl
    · exact absurd hnew (hup hold)
    · exact absurd hnew (hdown hold)
    · rfl

theorem CapStepped.ctlTimers {old : Nat} (h : CapStepped old g u) (hg : CtlTimers g) : CtlTimers u := by
  cases h with
  | same => exact hg
  | manual => exact hg
  | clamped => exact hg.capClamped _
  | rose _ _ h => exact raiseMoves_ctlTimers h hg

theorem CapStepped.frame {old : Nat} (h : CapStepped old g u) : CtlFrame g u := by
  cases h with
  | same => exact .refl g
  | manual => exact .refl g
  | clamped => exact capClamped_frame _ g
  | rose _ _ h => exact raiseMoves_frame h

theorem CtlTimers.cutOffTested (h : CtlTimers g) : CtlTimers (cutOffTested g) := by
  unfold Machine.cutOffTested
  split
  · exact ⟨h.step, nofun, h.blind, fun hs => ⟨.inl rfl, (h.short hs).2⟩⟩
  · exact h

theorem cutOffTested_frame (g : Segment) : CtlFrame g (cutOffTested g) := by
  unfold cutOffTested
  split
  · exact ⟨rfl, rfl, rfl, rfl, rfl, rfl, rfl⟩
  · exact .refl g

theorem CtlTimers.sensed (h : CtlTimers g) (s : State) (i : Nat) : CtlTimers (sensed s i g) := by
  unfold Machine.sensed
  split
  · exact ⟨h.step, h.off, h.blind, h.short⟩
  · exact CtlTimers.heldAgain (g := { g with activity := .occupied, holdTimer := none, setbackTimer := none })
      ⟨h.step, h.off, h.blind, h.short⟩ s i

/-- R97: a change of the activity sensing, in the record of a segment that kept the law before it. -/
theorem sensed_settled (hctl : CtlTimers g) (hactivity : ActivityTimers (!g.cfg.sensing) g)
    (hoff : g.cfg.sensing = true → g.activity = .occupied) : SegSettled (sensed s i g) := by
  refine ⟨segTimersOk_iff.mpr ⟨hctl.sensed s i, ?_⟩, ?_⟩
  · unfold sensed
    split
    · rename_i hon
      exact ⟨⟨fun _ => ⟨hon, hoff hon⟩, fun _ => rfl⟩, hactivity.setback⟩
    · rename_i hoff'
      rw [(heldAgain_activity s i _).1]
      refine ActivityTimers.heldAgain (g := { g with activity := .occupied, holdTimer := none, setbackTimer := none }) ?_ s i
      exact ⟨⟨nofun, fun h => absurd h.1 hoff'⟩, nofun, nofun⟩
  · unfold sensed sensingOk
    split
    · rename_i hon
      exact fun h => absurd (hon.symm.trans h) nofun
    · rw [(heldAgain_activity s i _).2.1]
      exact fun _ => rfl

theorem sensed_cfg (s : State) (i : Nat) (g : Segment) : (sensed s i g).cfg = g.cfg := by
  unfold sensed
  split
  · rfl
  · exact (heldAgain_activity s i _).1

/-- The activity after a change of the sensing: as it was, or OCCUPIED. -/
theorem sensed_activity (s : State) (i : Nat) (g : Segment) :
    (sensed s i g).activity = g.activity ∨ (sensed s i g).activity = .occupied := by
  unfold sensed
  split
  · exact .inl rfl
  · exact .inr (heldAgain_activity s i _).2.1

theorem unflagShortfall_settled {clear : Bool} (h : SegSettled u) :
    SegSettled (if clear then { u with shortfall := false } else u) := by
  split
  · obtain ⟨⟨hstep, hoff, hblind, hshort, hactivity⟩, hsensing⟩ := h
    exact ⟨⟨hstep, hoff, hblind, fun hs => ⟨(hshort hs).1, (hshort hs).2.1, rfl⟩, hactivity⟩, hsensing⟩
  · exact h

theorem unflagShortfall_activity (clear : Bool) (u : Segment) :
    (if clear then { u with shortfall := false } else u).activity = u.activity := by
  split <;> rfl

/-- R14: the record before the effects on the activity: the configuration of the request, the activity as it was. -/
theorem AmendPath.before {c : SegConfig} {v w : Segment} (hg : segTimersOk g)
    (hmode : RaiseMoves (modeStepped g.cfg.mode c.mode (amendedSeg s g c)) v) (hcap : CapStepped g.effCap v w) :
    let x := if c.cutOff = g.cfg.cutOff then w else cutOffTested w
    CtlTimers x ∧ ActivityTimers g.cfg.sensing x ∧ x.cfg = c ∧ x.activity = g.activity := by
  obtain ⟨hctl, hactivity⟩ := segTimersOk_iff.mp hg
  have hcfg0 : (modeStepped g.cfg.mode c.mode (amendedSeg s g c)).cfg = c :=
    (modeStepped_cfg g.cfg.mode c.mode (amendedSeg s g c)).trans rfl
  obtain ⟨hact0, hhold0, hsetback0⟩ := modeStepped_activity g.cfg.mode c.mode (amendedSeg s g c)
  have hframe := (raiseMoves_frame hmode).trans hcap.frame
  have hw := hcap.ctlTimers (raiseMoves_ctlTimers hmode (modeStepped_timers (s := s) (c := c) hctl))
  have hactivity0 : ActivityTimers g.cfg.sensing (modeStepped g.cfg.mode c.mode (amendedSeg s g c)) :=
    ⟨by rw [hhold0, hact0]; exact hactivity.hold, by rw [hsetback0, hact0]; exact hactivity.setback⟩
  have hlast : ∀ x, CtlFrame w x → x.cfg = c ∧ x.activity = g.activity ∧ ActivityTimers g.cfg.sensing x := fun x hx =>
    ⟨(hx.cfg.trans hframe.cfg).trans hcfg0, (hx.activity.trans hframe.activity).trans hact0,
      hactivity0.of_frame (hframe.trans hx)⟩
  dsimp only
  split
  · obtain ⟨hcfg, hact, htimers⟩ := hlast w (.refl w)
    exact ⟨hw, htimers, hcfg, hact⟩
  · obtain ⟨hcfg, hact, htimers⟩ := hlast _ (cutOffTested_frame w)
    exact ⟨hw.cutOffTested, htimers, hcfg, hact⟩

/-- R14: an amendment keeps the law of the timers and of the sensing. -/
theorem AmendPath.settled {c : SegConfig} {clear : Bool} (h : AmendPath s i g c clear u) (hg : SegSettled g) :
    SegSettled u := by
  obtain ⟨hmode, hcap, hlink⟩ := h
  rename_i v w x
  refine unflagShortfall_settled ?_
  obtain ⟨hctl, hactivity, hcfg, hact⟩ := AmendPath.before hg.1 hmode hcap
  revert hctl hactivity hcfg hact hlink
  generalize (if c.cutOff = g.cfg.cutOff then w else cutOffTested w) = y
  intro hlink hctl hactivity hcfg hact
  refine raiseMoves_settled hlink ?_
  split
  · rename_i hsame
    refine ⟨segTimersOk_iff.mpr ⟨hctl, by rw [hcfg, hsame]; exact hactivity⟩, fun hoff => ?_⟩
    rw [hact]
    exact hg.2 (by rw [← hsame, ← hcfg]; exact hoff)
  · rename_i hdiffer
    have hold : g.cfg.sensing = !y.cfg.sensing := by
      rw [hcfg]
      cases hc : c.sensing <;> cases ho : g.cfg.sensing
      · exact absurd (hc.trans ho.symm) hdiffer
      · rfl
      · rfl
      · exact absurd (hc.trans ho.symm) hdiffer
    refine sensed_settled hctl (hold ▸ hactivity) fun hon => ?_
    rw [hact]
    exact hg.2 (by rw [hold, hon]; rfl)

/-- R14: the activity after an amendment: as it was, or OCCUPIED. -/
theorem AmendPath.activity {c : SegConfig} {clear : Bool} (h : AmendPath s i g c clear u) (hg : segTimersOk g) :
    u.activity = g.activity ∨ u.activity = .occupied := by
  obtain ⟨hmode, hcap, hlink⟩ := h
  rw [unflagShortfall_activity, (raiseMoves_frame hlink).activity]
  obtain ⟨_, _, _, hact⟩ := AmendPath.before hg hmode hcap
  split
  · exact .inl hact
  · rcases sensed_activity s i _ with h | h
    · exact .inl (h.trans hact)
    · exact .inr h

/-! ## A tenth and a warm reset -/

theorem tickTimer_isSome (t : Timer) : (tickTimer t).isSome = t.isSome := Option.isSome_map

theorem tickSeg_settled (h : SegSettled g) : SegSettled (tickSeg g) := by
  obtain ⟨⟨h1, h2, h3, h4, h5, h6⟩, hsensing⟩ := h
  refine ⟨⟨?_, ?_, ?_, ?_, ?_, ?_⟩, hsensing⟩ <;> simp only [tickSeg, tickTimer_isSome] <;> assumption

theorem warmSeg_activity (c : Composer) (g : Segment) : (warmSeg c g).activity = .occupied := by
  unfold warmSeg
  cases g.cfg.mode <;> rfl

theorem warmSeg_settled (c : Composer) (g : Segment) : SegSettled (warmSeg c g) := by
  unfold warmSeg
  dsimp only
  have hhold : (if g.cfg.sensing then startTimer (holdTenths g.cfg) else none).isSome = true ↔ g.cfg.sensing = true := by
    cases g.cfg.sensing <;> simp [startTimer]
  cases hmode : g.cfg.mode with
  | harvest =>
    exact ⟨⟨⟨fun _ => hmode, fun _ => rfl⟩, nofun, fun _ => hmode, nofun, ⟨fun h => ⟨hhold.mp h, rfl⟩, fun h => hhold.mpr h.1⟩,
      nofun, nofun⟩, fun _ => rfl⟩
  | manual =>
    exact ⟨⟨⟨nofun, fun h => nomatch hmode.symm.trans h⟩, nofun, nofun, nofun,
      ⟨fun h => ⟨hhold.mp h, rfl⟩, fun h => hhold.mpr h.1⟩, nofun, nofun⟩, fun _ => rfl⟩

end Record

end Sys2Proof.Machine
end

section
/-! SUPPORT. No OCCUPANT record at a VACANT segment (R94), act by act. -/

namespace Sys2Proof.Machine

/-- The segment at an id is not VACANT. -/
def Lit (s : State) (i : Nat) : Prop := ∀ g, seg? s i = some g → g.activity ≠ .vacant

/-- R94: every OCCUPANT record of a list names a segment that is not VACANT. -/
def OccupantsLit (l : OverrideList) (s : State) : Prop := ∀ o ∈ l.records, o.cls = .occupant → Lit s o.scope.segment

/-- No segment becomes VACANT. -/
def NeverEmptied (s t : State) : Prop := ∀ i, Lit s i → Lit t i

section Vacant

variable {s t u : State} {i : Nat} {g new : Segment}

/-- R94: the law of the list, as to its OCCUPANT records. -/
theorem vacantOk_iff (ht : tabWf 32 s.segs) :
    VacantOk s ↔ (∀ e ∈ s.segs, sensingOk e.2) ∧ OccupantsLit s.overrides s := by
  constructor
  · refine fun h => ⟨fun e he => (h e he).1, fun o ho hcls g hg hvacant => ?_⟩
    have hfacility := (h _ (mem_of_tabGet hg)).2 hvacant o (List.mem_filter.mpr ⟨ho, by simp⟩)
    rw [hcls] at hfacility
    cases hfacility
  · refine fun ⟨hsensing, hlit⟩ e he => ⟨hsensing e he, fun hvacant o ho => ?_⟩
    obtain ⟨ho, hscope⟩ := List.mem_filter.mp ho
    cases hcls : o.cls with
    | facility => rfl
    | occupant => exact absurd hvacant (hlit o ho hcls e.2 (by rw [beq_iff_eq.mp hscope]; exact tabGet_of_mem ht.1 he))

theorem NeverEmptied.refl (s : State) : NeverEmptied s s := fun _ h => h

theorem NeverEmptied.trans (h : NeverEmptied s t) (k : NeverEmptied t u) : NeverEmptied s u := fun i hi => k i (h i hi)

theorem OccupantsLit.segs {l : OverrideList} (h : OccupantsLit l s) (k : NeverEmptied s t) : OccupantsLit l t :=
  fun o ho hcls => k _ (h o ho hcls)

theorem OccupantsLit.without {l : OverrideList} (h : OccupantsLit l s) (p : Override → Bool) (flag : Bool) :
    OccupantsLit (listWithout p flag l) s := fun o ho => h o (List.mem_of_mem_filter ho)

theorem OccupantsLit.counted {l : OverrideList} (h : OccupantsLit l s) : OccupantsLit (listCounted l) s := by
  intro o ho hcls
  obtain ⟨r, hr, rfl⟩ := List.mem_map.mp (List.mem_of_mem_filter ho)
  exact h r hr hcls

theorem OccupantsLit.placed {l : OverrideList} {origin : Origin} {cls : OvClass} {scope : Scope} {action : OvAction}
    {hold : Option Nat} (h : OccupantsLit l s) (hlit : cls = .occupant → Lit s scope.segment) :
    OccupantsLit (listPlaced origin cls scope action hold l) s := by
  intro o ho hcls
  rcases mem_listPlaced ho with ⟨hscope, hcls'⟩ | ho
  · rw [hscope]
    exact hlit (hcls'.symm.trans hcls)
  · exact h o ho hcls

/-! ## The segments -/

/-- No record of a table becomes VACANT. -/
theorem neverEmptied_of_by (h : SegsBy (fun g u => u.activity = .vacant → g.activity = .vacant) s t)
    (ht : tabWf 32 s.segs) : NeverEmptied s t := by
  intro i hlit u hu hvacant
  obtain ⟨g, hg, hgu⟩ := h.get_some ht hu
  exact hlit g hg (hgu hvacant)

theorem LiveMove.activity (h : LiveMove g new) : new.activity = g.activity ∨ new.activity = .occupied := by
  cases h with
  | ctl h => exact .inl h.frame.activity
  | held s i => exact .inl (heldAgain_activity s i g).2.1
  | occupied => exact .inr rfl

theorem liveMoves_activity (h : LiveMoves g new) : new.activity = g.activity ∨ new.activity = .occupied := by
  induction h with
  | refl => exact .inl rfl
  | tail _ h ih =>
    rcases h.activity with h | h
    · rcases ih with ih | ih
      · exact .inl (h.trans ih)
      · exact .inr (h.trans ih)
    · exact .inr h

theorem neverEmptied_of_live (h : SegsBy LiveMoves s t) (ht : tabWf 32 s.segs) : NeverEmptied s t := by
  refine neverEmptied_of_by (h.mono fun {g u} hgu hvacant => ?_) ht
  rcases liveMoves_activity hgu with h | h
  · exact h.symm.trans hvacant
  · rw [h] at hvacant
    cases hvacant

theorem holdExpiry_neverEmptied (i : Nat) (ht : tabWf 32 s.segs) :
    NeverEmptied s (segExpiry i (·.holdTimer) (holdExpired i) s) := by
  unfold segExpiry
  refine onSeg_rel (R := NeverEmptied) (.refl s) fun g hg => ?_
  have hput (u : Segment) (hu : u.activity = .vacant → g.activity = .vacant) : NeverEmptied s (putSeg i u s) :=
    neverEmptied_of_by (segsBy_putSeg (fun _ => id) hg hu) ht
  split
  · unfold holdExpired
    split
    · refine (hput _ ?_).trans (neverEmptied_of_live (recomputeHeld_by i _) ?_)
      · nofun
      · exact tabWf_put ht (ht.2 _ (mem_of_tabGet hg))
    · exact hput _ id
  · exact .refl s

theorem SegReached.neverEmptied {q : Segment → Prop} (h : SegReached s i q t)
    (hself : ∀ u, q u → Lit s i → u.activity ≠ .vacant) : NeverEmptied s t := by
  intro j hlit u hu
  by_cases hj : j = i
  · rw [hj] at hlit hu
    exact hself u (h.self u hu) hlit
  · obtain ⟨g, hg, hmoves⟩ := h.others j hj u hu
    rw [(raiseMoves_frame hmoves).activity]
    exact hlit g hg

theorem definedSeg_activity (c : SegConfig) (cap : Nat) : (definedSeg c cap).activity = .occupied := by
  unfold definedSeg
  cases c.mode <;> rfl

theorem SegAct.neverEmptied (h : SegAct s t) (ht : tabWf 32 s.segs) (htimers : TimersOk s) : NeverEmptied s t := by
  cases h with
  | stepped i => exact neverEmptied_of_live (stepExpiry_by i s).live ht
  | skyChanged i => exact neverEmptied_of_live (skyChange_by i s).live ht
  | offDelayed i => exact neverEmptied_of_live (offDelayExpiry_by i s).live ht
  | fellBack i => exact neverEmptied_of_live (blindTimerExpiry_by i s).live ht
  | fellShort i => exact neverEmptied_of_live (shortfallExpiry_by i s).live ht
  | holdExpired i => exact holdExpiry_neverEmptied i ht
  | moved byRequest i => exact neverEmptied_of_live (motion_by byRequest i s) ht
  | recapped i =>
    exact neverEmptied_of_by ((recomputeCap_frame i s).mono fun h hvacant => h.activity.symm.trans hvacant) ht
  | defined body i hid =>
    refine (defineSeg_reached _ ht (by omega)).neverEmptied fun u hu _ => ?_
    rw [(raiseMoves_frame hu).activity, definedSeg_activity]
    nofun
  | amended body i g clear hg =>
    refine (amendSeg_reached _ clear ht hg).neverEmptied fun u hu hlit => ?_
    rcases hu.activity (htimers _ (mem_of_tabGet hg)) with h | h
    · rw [h]
      exact hlit g hg
    · rw [h]
      nofun
  | unflagged i => exact neverEmptied_of_live (unflagSeg_by i s).live ht

/-! ## The override list -/

/-- R92, R97: after a motion event the segment is not VACANT. -/
theorem motion_lit (byRequest : Bool) (hsensing : ∀ e ∈ s.segs, sensingOk e.2) : Lit (motion byRequest i s) i := by
  intro u hu
  cases hg : seg? s i with
  | none =>
    rw [motion, onSeg_none hg, hg] at hu
    cases hu
  | some g =>
    rw [motion, onSeg_some hg] at hu
    split at hu
    · rw [seg?_recomputeHeld, if_pos rfl, seg?_putSeg_self] at hu
      cases hu
      rw [(heldAgain_activity _ i _).2.1]
      nofun
    · rename_i hoff
      cases hg.symm.trans hu
      rw [hsensing _ (mem_of_tabGet hg) (by simpa using hoff)]
      nofun

theorem setbackExpiry_occupantsLit (i : Nat) (ht : tabWf 32 s.segs) (h : OccupantsLit s.overrides s) :
    OccupantsLit (segExpiry i (·.setbackTimer) (goVacant i) s).overrides (segExpiry i (·.setbackTimer) (goVacant i) s) := by
  unfold segExpiry
  refine onSeg_rel (R := fun s t => OccupantsLit s.overrides s → OccupantsLit t.overrides t) id (fun g hg h => ?_) h
  split
  · have hwf (u : Segment) : tabWf 32 (putSeg i u s).segs := tabWf_put ht (ht.2 _ (mem_of_tabGet hg))
    have hlive (u : Segment) := ((retireRecords_by (fun o => o.scope.segment == i && !isFacility o) true
      (putSeg i u s)).live_trans (recomputeHeld_by i _))
    have hrest (u : Segment) (j : Nat) (hj : j ≠ i) (hlit : Lit s j) : Lit (putSeg i u s) j := by
      rwa [Lit, seg?_putSeg_ne _ _ hj]
    intro o ho hcls
    rw [goVacant, recomputeHeld_overrides, retireRecords_list] at ho
    obtain ⟨ho, hkept⟩ := List.mem_filter.mp ho
    refine neverEmptied_of_live (hlive _) (hwf _) _ (hrest _ _ (fun hscope => ?_) (h o ho hcls))
    simp [hscope, isFacility, hcls] at hkept
  · exact h

theorem ListAct.occupantsLit (h : ListAct s t) (ht : tabWf 32 s.segs) (hsensing : ∀ e ∈ s.segs, sensingOk e.2)
    (hs : OccupantsLit s.overrides s) : OccupantsLit t.overrides t := by
  have hmotion (byRequest : Bool) (i : Nat) : tabWf 32 (motion byRequest i s).segs :=
    (motion_by byRequest i s).keepsTabWf ht
  cases h with
  | wentVacant i => exact setbackExpiry_occupantsLit i ht hs
  | placed cls scope kind value action clamped hold =>
    rw [placeFloor_list]
    cases cls with
    | facility =>
      refine OccupantsLit.segs (hs.placed (cls := .facility) nofun) ?_
      exact neverEmptied_of_live (placeRecord_by _ _ _ _ _ s) ht
    | occupant =>
      have hmoved := neverEmptied_of_live (motion_by true scope.segment s) ht
      refine ((hs.segs hmoved).placed fun _ => motion_lit true hsensing).segs ?_
      exact neverEmptied_of_live (placeRecord_by _ _ _ _ _ _) (hmotion true _)
  | pressed a n scope hold lastButton sequence b =>
    have hmoved := neverEmptied_of_live (motion_by false scope.segment s) ht
    have hlit := motion_lit (i := scope.segment) false hsensing
    have hsegs := hs.segs hmoved
    rw [← motion_list false scope.segment s] at hsegs
    have hpressed := neverEmptied_of_live (pressList_by a scope hold b _) (hmotion false scope.segment)
    refine OccupantsLit.segs ?_ hpressed
    revert hsegs hlit
    generalize motion false scope.segment s = v
    intro hlit hsegs
    refine onSeg_rel (R := fun _ t => OccupantsLit t.overrides v) hsegs fun g _ => ?_
    dsimp only
    split
    · rw [retireStation, retireRecords_list]
      exact hsegs.without _ _
    · split
      · exact hsegs
      · rw [placeRecord_list]
        exact hsegs.placed fun _ => hlit
  | retired p flag =>
    rw [retireRecords_list]
    exact (hs.without p flag).segs (neverEmptied_of_live (retireRecords_by p flag s) ht)
  | retiredSeg i =>
    have hretired := neverEmptied_of_live (retireRecords_by (fun o => o.scope.segment == i) true s) ht
    intro o ho hcls g hg
    rw [retireSeg, retireRecords_list] at ho
    refine (hs.without _ true).segs hretired o ho hcls g ?_
    exact tabGet_of_mem ((retireRecords_by _ true s).keepsTabWf ht).1 (mem_tabDel (mem_of_tabGet hg))
  | counted =>
    rw [countHolds_list]
    exact hs.counted.segs (neverEmptied_of_live (countHolds_by s) ht)
  | unflagged => exact hs

theorem RecordAct.occupantsLit (h : RecordAct s t) (ht : tabWf 32 s.segs) (htimers : TimersOk s)
    (hsensing : ∀ e ∈ s.segs, sensingOk e.2) (hs : OccupantsLit s.overrides s) : OccupantsLit t.overrides t := by
  cases h with
  | seg h =>
    rw [h.segsOnly.same.2.1.2.1]
    exact hs.segs (h.neverEmptied ht htimers)
  | list h => exact h.occupantsLit ht hsensing hs
  | input h =>
    have hsegs := neverEmptied_of_live h.segsBy ht
    rcases h.list with hlist | ⟨p, hlist⟩
    · rw [hlist]
      exact hs.segs hsegs
    · rw [hlist]
      exact (hs.without p true).segs hsegs

theorem RecordAct.settled (h : RecordAct s t) (ht : tabWf 32 s.segs) (hs : ∀ e ∈ s.segs, SegSettled e.2) :
    ∀ e ∈ t.segs, SegSettled e.2 := by
  cases h.segsChange with
  | moves h => exact forall_segs_of_moves (fun _ _ => SegMove.settled) h hs
  | defined body i hid hnone hrow henums hrefs heq =>
    rw [heq]
    refine ((defineSeg_reached _ ht (by omega)).mono fun u hu => ?_).forall (fun _ _ => RaiseMove.settled) hs
    exact raiseMoves_settled hu (definedSeg_settled _ _)
  | amended body i g clear hg henums hrefs hlinked heq =>
    rw [heq]
    refine ((amendSeg_reached _ clear ht hg).mono fun u hu => ?_).forall (fun _ _ => RaiseMove.settled) hs
    exact hu.settled (hs _ (mem_of_tabGet hg))
  | retired i href heq =>
    rw [heq]
    have hretired := (retireRecords_by (fun o => o.scope.segment == i) true s).moves
    exact fun e he => forall_segs_of_moves (fun _ _ => SegMove.settled) hretired hs e (mem_tabDel he)

/-- R89, R94, R97: the law of the activity, with the tables. -/
theorem vacancy_iff (ht : TablesOk s) :
    VacantOk s ∧ TimersOk s ↔ (∀ e ∈ s.segs, SegSettled e.2) ∧ OccupantsLit s.overrides s := by
  rw [vacantOk_iff ht.2.1]
  exact ⟨fun h => ⟨fun e he => ⟨h.2 e he, h.1.1 e he⟩, h.1.2⟩,
    fun h => ⟨⟨fun e he => (h.1 e he).2, h.2⟩, fun e he => (h.1 e he).1⟩⟩

theorem vacancy_of_segs (hs : VacantOk s ∧ TimersOk s) (hsegs : t.segs = s.segs) (hlist : t.overrides = s.overrides) :
    VacantOk t ∧ TimersOk t := by
  unfold VacantOk TimersOk recordsOf
  rw [hsegs, hlist]
  exact hs

theorem vacancy_of_lumsOnly (h : LumsOnly s t) (hs : VacantOk s ∧ TimersOk s) : VacantOk t ∧ TimersOk t :=
  vacancy_of_segs hs h.records.1 h.records.2.1

/-- What leaves the activity of every segment and the list leaves the law of the OCCUPANT records. -/
theorem occupantsLit_of_activity (h : SegsBy (fun g u => u.activity = g.activity) s t) (hlist : t.overrides = s.overrides)
    (ht : tabWf 32 s.segs) (hs : OccupantsLit s.overrides s) : OccupantsLit t.overrides t := by
  rw [hlist]
  exact hs.segs (neverEmptied_of_by (h.mono fun {g u} hgu hvacant => hgu.symm.trans hvacant) ht)

theorem vacancy_keptByParts : KeptByParts fun s => TablesOk s ∧ VacantOk s ∧ TimersOk s where
  record {s t} h hs := by
    obtain ⟨hlit, htables⟩ := And.intro ((vacancy_iff hs.1).mp hs.2) (h.tablesOk hs.1)
    exact ⟨htables, (vacancy_iff htables).mpr ⟨h.settled hs.1.2.1 hlit.1,
      h.occupantsLit hs.1.2.1 hs.2.2 (fun e he => (hlit.1 e he).2) hlit.2⟩⟩
  recompose k s hs := ⟨tablesOk_keptByParts.recompose k hs.1, vacancy_of_lumsOnly (recomposeLum_lumsOnly k s) hs.2⟩
  fixture h hs := ⟨tablesOk_keptByParts.fixture h hs.1, vacancy_of_lumsOnly h.lumsOnly hs.2⟩
  recapped _ _ _ _ hs := hs
  captured hs := hs
  ticked {s} hs := by
    obtain ⟨hsettled, hlit⟩ := (vacancy_iff hs.1).mp hs.2
    have htables := tablesOk_keptByParts.ticked hs.1
    refine ⟨htables, (vacancy_iff htables).mpr ⟨forall_tabMap (p := SegSettled) (fun _ => tickSeg_settled) hsettled, ?_⟩⟩
    have hsegs : SegsBy (fun g u => u.activity = g.activity) s (tickAll s) :=
      tabBy_map (R := fun g u : Segment => u.activity = g.activity) (f := tickSeg) (fun _ => rfl) s.segs
    exact occupantsLit_of_activity hsegs rfl hs.1.2.1 hlit
  tallied {s} hs := by
    obtain ⟨hsettled, hlit⟩ := (vacancy_iff hs.1).mp hs.2
    have htables := tablesOk_keptByParts.tallied hs.1
    refine ⟨htables, (vacancy_iff htables).mpr ⟨?_, ?_⟩⟩
    · intro e he
      obtain ⟨x, hx, rfl⟩ := List.mem_map.mp he
      exact hsettled x hx
    · refine occupantsLit_of_activity ((addTallies_by s).mono ?_) rfl hs.1.2.1 hlit
      rintro g u ⟨n, _, rfl⟩
      rfl
  holdsTaken hs := hs
  drew _ hs := hs
  portSet _ hs := hs
  warmBlocks {s} hs := by
    have htables := tablesOk_keptByParts.warmBlocks hs.1
    refine ⟨htables, (vacancy_iff htables).mpr ⟨?_, nofun⟩⟩
    exact forall_tabMap (p := SegSettled) (fun g _ => warmSeg_settled s.composer g) ((vacancy_iff hs.1).mp hs.2).1
  raiseOnce i s hs := by
    obtain ⟨hsettled, hlit⟩ := (vacancy_iff hs.1).mp hs.2
    have htables := tablesOk_keptByParts.raiseOnce i hs.1
    have hlive := (raiseOnce_by i s).live
    refine ⟨htables, (vacancy_iff htables).mpr ⟨forall_segs_of_moves (fun _ _ => SegMove.settled) hlive.moves hsettled, ?_⟩⟩
    rw [(raiseOnce_segsOnly i s).same.2.1.2.1]
    exact hlit.segs (neverEmptied_of_live hlive hs.1.2.1)
  composeAll hs := ⟨tablesOk_keptByParts.composeAll hs.1, hs.2⟩
  refresh i s hrunning hs :=
    ⟨tablesOk_keptByParts.refresh i hrunning hs.1, vacancy_of_lumsOnly (fullRefresh_lumsOnly i s) hs.2⟩
  coldReset low _ := ⟨tablesOk_cold low _, vacantOk_cold low _, timersOk_cold low _⟩

/-- Settles O18, by what each act does to the activity, the timers and the OCCUPANT records of a segment. -/
theorem vacancyAndTimerLawsKept : Obligations.VacancyAndTimerLawsKept :=
  vacancy_keptByParts.keptUnder fun _ _ h => h

end Vacant

end Sys2Proof.Machine
end

section
/-! SUPPORT. What the controller state says of H (R50), move by move. -/

namespace Sys2Proof.Machine

/-- R50: the law of a HARVEST segment; H is bounded by the effective cap where `capped` holds, and by C in DWELL where `cut`
holds. -/
def HarvestFits (capped cut : Prop) (g : Segment) : Prop :=
  g.cfg.mode = .harvest →
    (capped → g.h ≤ g.effCap) ∧ (g.ctl = .daylit → g.h = 0) ∧ (g.ctl = .dwell → cut → g.h ≤ g.cfg.cutOff) ∧ g.ctl ≠ .forced

/-- R50: the law of the controller of a segment, in either mode. -/
structure Governed (g : Segment) : Prop where
  timers : CtlTimers g
  harvest : harvestOk g
  manual : manualOk g

section Record

variable {g u : Segment} {capped cut : Prop}

theorem HarvestFits.full (hcapped : capped) (hcut : cut) (h : HarvestFits capped cut g) : harvestOk g := by
  intro hmode
  obtain ⟨hcap, hdaylit, hdwell, hforced⟩ := h hmode
  exact ⟨hcap hcapped, hdaylit, fun hd => hdwell hd hcut, hforced⟩

theorem harvestFits_of_ok (h : harvestOk g) : HarvestFits capped cut g := by
  intro hmode
  obtain ⟨hcap, hdaylit, hdwell, hforced⟩ := h hmode
  exact ⟨fun _ => hcap, hdaylit, fun hd _ => hdwell hd, hforced⟩

theorem harvestOk_iff : harvestOk g ↔ HarvestFits True True g := ⟨harvestFits_of_ok, fun h => h.full trivial trivial⟩

/-- The law speaks of the configuration, the controller state, H and the effective cap alone. -/
theorem HarvestFits.congr (h : HarvestFits capped cut g) (hcfg : u.cfg = g.cfg) (hctl : u.ctl = g.ctl) (hh : u.h = g.h)
    (hcap : u.effCap = g.effCap) : HarvestFits capped cut u := by
  unfold HarvestFits
  rw [hcfg, hctl, hh, hcap]
  exact h

theorem harvestOk_congr (h : harvestOk g) (hcfg : u.cfg = g.cfg) (hctl : u.ctl = g.ctl) (hh : u.h = g.h)
    (hcap : u.effCap = g.effCap) : harvestOk u := harvestOk_iff.mpr ((harvestOk_iff.mp h).congr hcfg hctl hh hcap)

theorem manualOk_congr (h : manualOk g) (hcfg : u.cfg = g.cfg) (hctl : u.ctl = g.ctl) : manualOk u := by
  unfold manualOk
  rw [hcfg, hctl]
  exact h

/-- In HARVEST the law of a MANUAL segment says nothing. -/
theorem manualOk_of_harvest (h : g.cfg.mode = .harvest) : manualOk g := fun hm => absurd (h.symm.trans hm) nofun

/-- R81: a depth raise. -/
theorem HarvestFits.raised (h : HarvestFits capped cut g) (hmove : RaiseMove g u) : HarvestFits capped cut u := by
  obtain ⟨o, hmode⟩ := hmove
  obtain ⟨hcap, hdaylit, hdwell, hforced⟩ := h hmode
  have htarget : min o g.effCap ≤ g.effCap := min_le_right _ _
  unfold afterRaise
  dsimp only
  split
  · exact h
  · split
    · exact h
    · exact fun _ => ⟨fun _ => htarget, fun hd => absurd hd (by simp_all), fun hd => absurd hd (by simp_all), hforced⟩
    · exact fun _ => ⟨fun _ => htarget, fun hd => absurd hd (by simp_all), fun hd => absurd hd (by simp_all), hforced⟩
    · rename_i hctl
      split
      · exact fun _ => ⟨fun _ => htarget, nofun, nofun, nofun⟩
      · rename_i hcut
        refine fun _ => ⟨fun _ => htarget, fun hd => absurd hd (by simp_all), fun _ _ => ?_, hforced⟩
        exact Nat.not_lt.mp hcut
    · exact fun _ => ⟨fun _ => min_le_right _ _, nofun, nofun, nofun⟩

theorem HarvestFits.raises (h : HarvestFits capped cut g) (hmoves : RaiseMoves g u) : HarvestFits capped cut u := by
  induction hmoves with
  | refl => exact h
  | tail _ hmove ih => exact ih.raised hmove

/-! ## Steps and expiries -/

/-- R57, R58: a step that was made, at a TRACKING or DWELL segment. -/
theorem harvestOk_afterStep {x : Nat} (hctl : g.ctl = .tracking ∨ g.ctl = .dwell) (hx : x ≤ g.effCap) (t : Timer) :
    harvestOk { afterStep g x with stepTimer := t } := by
  intro _
  unfold afterStep
  split
  · rename_i htracking
    split
    · rename_i hcut
      exact ⟨hx, nofun, fun _ => hcut.2, nofun⟩
    · exact ⟨hx, fun hd => absurd hd (by simp_all), fun hd => absurd hd (by simp_all), fun hd => absurd hd (by simp_all)⟩
  · rename_i hdwell
    split
    · exact ⟨hx, nofun, nofun, nofun⟩
    · rename_i hcut
      exact ⟨hx, fun hd => absurd hd (by simp_all), fun _ => Nat.not_lt.mp hcut, fun hd => absurd hd (by simp_all)⟩
  · rename_i hother hother'
    exact (hctl.elim hother hother').elim

theorem harvestOk_madeUp (hctl : g.ctl = .tracking ∨ g.ctl = .dwell) : harvestOk (madeUp g) :=
  harvestOk_afterStep hctl (min_le_right _ _) _

theorem harvestOk_struck (s : State) (g : Segment) : harvestOk (struck s g) := fun _ => ⟨min_le_right _ _, nofun, nofun, nofun⟩

theorem harvestOk_evaluate (h : harvestOk g) (hmode : g.cfg.mode = .harvest) (hctl : g.ctl = .tracking ∨ g.ctl = .dwell)
    (floor e : Nat) : harvestOk (evaluate floor e g) := by
  have hframe := monitorShortfall_frame e g
  obtain ⟨hmctl, hmh, hmcap⟩ := monitorShortfall_ctl e g
  have hm := harvestOk_congr h hframe.cfg hmctl hmh hmcap
  have hctl' : (monitorShortfall e g).ctl = .tracking ∨ (monitorShortfall e g).ctl = .dwell := by rwa [hmctl]
  have hcap : (monitorShortfall e g).h ≤ (monitorShortfall e g).effCap := by
    rw [hmh, hmcap]
    exact (h hmode).1
  unfold evaluate
  dsimp only
  split
  · split
    · exact hm
    · exact harvestOk_madeUp hctl'
  · split
    · split
      · exact hm
      · exact harvestOk_afterStep hctl' ((min_le_left _ _).trans hcap) _
    · exact hm

/-- R55 to R60: a step event. -/
theorem harvestOk_stepped (h : harvestOk g) (hmode : g.cfg.mode = .harvest) (s : State) : harvestOk (stepped s g) := by
  obtain ⟨hsctl, hsh, hscap⟩ := startOffDelay_ctl g
  have hcfg := (startOffDelay_frame g).cfg
  have hstart : harvestOk (startOffDelay g) := harvestOk_congr h hcfg hsctl hsh hscap
  unfold stepped
  split
  · exact h
  · exact fun _ => ⟨(h hmode).1, nofun, nofun, nofun⟩
  · rename_i hforced hstrike
    split
    · exact h
    · split
      · exact hstart
      · dsimp only
        split
        · split
          · exact harvestOk_struck s _
          · exact hstart
        · rename_i hdaylit
          refine harvestOk_evaluate (g := seeAgain (startOffDelay g)) hstart ?_ ?_ _ _
          · show (startOffDelay g).cfg.mode = .harvest
            rw [hcfg]
            exact hmode
          · show (startOffDelay g).ctl = .tracking ∨ (startOffDelay g).ctl = .dwell
            rw [hsctl]
            cases hc : g.ctl with
            | tracking => exact .inl rfl
            | dwell => exact .inr rfl
            | daylit => exact absurd hc hdaylit
            | strike => exact absurd hc hstrike
            | forced => exact absurd hc hforced

/-- R63: a sky change. -/
theorem harvestOk_earlyStepped (h : harvestOk g) (s : State) : harvestOk (earlyStepped s g) := by
  unfold earlyStepped
  split
  · split
    · exact h
    · split
      · rename_i hctl
        split
        · exact harvestOk_madeUp (.inl hctl)
        · exact h
      · rename_i hctl
        split
        · exact harvestOk_madeUp (.inr hctl)
        · exact h
      · split
        · exact harvestOk_struck s g
        · exact h
      · exact h
  · exact h

/-- R62: the off-delay expiry. -/
theorem harvestOk_offDelayed (h : harvestOk g) (s : State) : harvestOk (offDelayed s g) := by
  have hdark : harvestOk { g with ctl := .daylit, h := 0, offTimer := none, shortTimer := none } :=
    fun _ => ⟨Nat.zero_le _, fun _ => rfl, nofun, nofun⟩
  unfold offDelayed
  split
  · split
    · exact h
    · exact hdark
  · exact hdark

/-- R67: the blind-timer expiry. -/
theorem harvestOk_fellBack (h : harvestOk g) : harvestOk (fellBack g) :=
  fun hmode => ⟨max_le (h hmode).1 (min_le_right _ _), nofun, nofun, nofun⟩

/-- R68: H clamped under a cap below it. -/
theorem HarvestFits.capClamped (h : HarvestFits capped cut g) (hcap : g.effCap < g.h) :
    HarvestFits True cut (capClamped g.effCap g) := by
  intro hmode
  have hmode : g.cfg.mode = .harvest := by rwa [(capClamped_frame g.effCap g).cfg] at hmode
  obtain ⟨_, hdaylit, hdwell, hforced⟩ := h hmode
  unfold Machine.capClamped
  split
  · rename_i hcut
    exact ⟨fun _ => le_rfl, nofun, fun _ _ => hcut.2.2, nofun⟩
  · refine ⟨fun _ => le_rfl, fun hd => ?_, fun hd hc => ?_, hforced⟩
    · rw [hdaylit hd] at hcap
      exact absurd hcap (Nat.not_lt_zero _)
    · exact hcap.le.trans (hdwell hd hc)

theorem Governed.mode_of_off (h : Governed g) (hdue : timerDue g.offTimer = true) : g.cfg.mode = .harvest := by
  have hdwell := (h.timers.off (isSome_of_due hdue)).1
  cases hmode : g.cfg.mode with
  | harvest => rfl
  | manual =>
    rw [h.manual hmode] at hdwell
    cases hdwell

/-- R50: every move of a controller keeps the law. -/
theorem CtlMove.governed (hmove : CtlMove g u) (h : Governed g) : Governed u := by
  have htimers := hmove.ctlTimers h.timers
  have hcfg := hmove.frame.cfg
  have hharvest (hmode : g.cfg.mode = .harvest) : manualOk u := manualOk_of_harvest (by rw [hcfg]; exact hmode)
  cases hmove with
  | raised hmove =>
    refine ⟨htimers, harvestOk_iff.mpr ((harvestOk_iff.mp h.harvest).raised hmove), ?_⟩
    obtain ⟨_, hmode⟩ := hmove
    exact hharvest hmode
  | stepped s hdue =>
    have hmode := h.timers.harvest_of_step hdue
    exact ⟨htimers, harvestOk_stepped h.harvest hmode s, hharvest hmode⟩
  | skyChanged s =>
    refine ⟨htimers, harvestOk_earlyStepped h.harvest s, ?_⟩
    cases hmode : g.cfg.mode with
    | harvest => exact hharvest hmode
    | manual =>
      rw [earlyStepped, if_neg (by rw [hmode]; exact fun hm => nomatch hm.1)]
      exact h.manual
  | offDelayed s hdue => exact ⟨htimers, harvestOk_offDelayed h.harvest s, hharvest (h.mode_of_off hdue)⟩
  | fellBack hdue =>
    exact ⟨htimers, harvestOk_fellBack h.harvest, hharvest (h.timers.blind (isSome_of_due hdue))⟩
  | fellShort => exact ⟨htimers, h.harvest, h.manual⟩
  | unflagged => exact ⟨htimers, h.harvest, h.manual⟩

theorem CapMove.governed (hmove : CapMove g u) (h : Governed g) : Governed u := by
  have htimers := hmove.ctlTimers h.timers
  cases hmove with
  | rose cap hcap => exact ⟨htimers, fun hmode => ⟨hcap hmode, (h.harvest hmode).2⟩, h.manual⟩
  | fell cap hmode hcap =>
    refine ⟨htimers, harvestOk_iff.mpr ?_, manualOk_of_harvest (by rw [(capClamped_frame cap _).cfg]; exact hmode)⟩
    refine HarvestFits.capClamped (g := { g with effCap := cap }) (capped := False) (fun hmode => ?_) hcap
    obtain ⟨_, hdaylit, hdwell, hforced⟩ := h.harvest hmode
    exact ⟨nofun, hdaylit, fun hd _ => hdwell hd, hforced⟩
  | raised hmove => exact CtlMove.governed (.raised hmove) h

/-- What leaves the controller as it is keeps its law. -/
theorem Governed.congr (h : Governed g) (htimers : CtlTimers u) (hcfg : u.cfg = g.cfg) (hctl : u.ctl = g.ctl)
    (hh : u.h = g.h) (hcap : u.effCap = g.effCap) : Governed u :=
  ⟨htimers, harvestOk_congr h.harvest hcfg hctl hh hcap, manualOk_congr h.manual hcfg hctl⟩

theorem heldAgain_controller (s : State) (i : Nat) (g : Segment) :
    (heldAgain s i g).cfg = g.cfg ∧ (heldAgain s i g).ctl = g.ctl ∧ (heldAgain s i g).h = g.h
      ∧ (heldAgain s i g).effCap = g.effCap := by
  unfold heldAgain
  split <;> exact ⟨rfl, rfl, rfl, rfl⟩

theorem Governed.heldAgain (h : Governed g) (s : State) (i : Nat) : Governed (heldAgain s i g) := by
  obtain ⟨hcfg, hctl, hh, hcap⟩ := heldAgain_controller s i g
  exact h.congr (h.timers.heldAgain s i) hcfg hctl hh hcap

theorem SegMove.governed (hmove : SegMove g u) (h : Governed g) : Governed u := by
  obtain ⟨⟨hstep, hoff, hblind, hshort⟩, hharvest, hmanual⟩ := id h
  cases hmove with
  | live hmove =>
    cases hmove with
    | ctl hmove => exact hmove.governed h
    | held s i => exact h.heldAgain s i
    | occupied => exact ⟨⟨hstep, hoff, hblind, hshort⟩, hharvest, hmanual⟩
  | recapped hmove => exact hmove.governed h
  | dimmed => exact ⟨⟨hstep, hoff, hblind, hshort⟩, hharvest, hmanual⟩
  | stayed => exact ⟨⟨hstep, hoff, hblind, hshort⟩, hharvest, hmanual⟩
  | emptied => exact ⟨⟨hstep, hoff, hblind, hshort⟩, hharvest, hmanual⟩

theorem RaiseMove.governed (h : RaiseMove g u) (hg : Governed g) : Governed u := CtlMove.governed (.raised h) hg

theorem raiseMoves_governed (h : RaiseMoves g u) (hg : Governed g) : Governed u := by
  induction h with
  | refl => exact hg
  | tail _ h ih => exact h.governed ih

/-! ## Definitions and amendments -/

theorem enteredHarvest_fits (g : Segment) : HarvestFits capped cut (enteredHarvest g) := by
  intro _
  dsimp only [enteredHarvest]
  split
  · rename_i hdwells
    exact ⟨fun _ => min_le_right _ _, nofun, fun _ _ => hdwells.2, nofun⟩
  · exact ⟨fun _ => min_le_right _ _, nofun, nofun, nofun⟩

theorem definedSeg_governed (c : SegConfig) (cap : Nat) : Governed (definedSeg c cap) := by
  have htimers := (segTimersOk_iff.mp (definedSeg_settled c cap).1).1
  revert htimers
  unfold definedSeg
  cases hmode : c.mode with
  | manual => exact fun htimers => ⟨htimers, fun hm => (nomatch hmode.symm.trans hm), fun _ => rfl⟩
  | harvest =>
    exact fun htimers => ⟨htimers, harvestOk_iff.mpr (enteredHarvest_fits _), manualOk_of_harvest hmode⟩

section Amended

variable {s : State} {i : Nat} {c : SegConfig}

/-- R70, R71: the law after the mode change; H may stand above a new effective cap, and above a new C in DWELL. -/
theorem modeStepped_fits (h : Governed g) :
    let u := modeStepped g.cfg.mode c.mode (amendedSeg s g c)
    HarvestFits (u.effCap = g.effCap) (c.cutOff = g.cfg.cutOff) u ∧ manualOk u := by
  dsimp only
  unfold modeStepped
  split
  · rename_i hnew
    exact ⟨enteredHarvest_fits _, manualOk_of_harvest hnew⟩
  · rename_i hnew
    exact ⟨fun hm => (nomatch hnew.symm.trans hm), fun _ => rfl⟩
  · rename_i hup hdown
    have hmode : c.mode = g.cfg.mode := by
      cases hold : g.cfg.mode <;> cases hnew : c.mode
      · rfl
      · exact absurd hnew (hup hold)
      · exact absurd hnew (hdown hold)
      · rfl
    refine ⟨fun hm => ?_, fun hm => h.manual (hmode.symm.trans hm)⟩
    obtain ⟨hcap, hdaylit, hdwell, hforced⟩ := h.harvest (hmode.symm.trans hm)
    refine ⟨fun heq => ?_, hdaylit, fun hd hc => ?_, hforced⟩
    · rw [heq]
      exact hcap
    · show g.h ≤ c.cutOff
      rw [hc]
      exact hdwell hd

/-- R68, R87: the law after the cap-change event: H is bounded by the effective cap. -/
theorem CapStepped.fits {old : Nat} (h : CapStepped old g u) (hg : HarvestFits (g.effCap = old) cut g) :
    HarvestFits True cut u := by
  cases h with
  | same hcap => exact fun hmode => ⟨fun _ => (hg hmode).1 hcap, (hg hmode).2⟩
  | manual hmode => exact fun hm => nomatch hmode.symm.trans hm
  | clamped hmode hcap => exact hg.capClamped hcap
  | rose hmode hcap hraise =>
    refine HarvestFits.raises (fun hm => ?_) hraise
    exact ⟨fun _ => hcap, (hg hm).2⟩

theorem raiseMoves_manualOk (h : RaiseMoves g u) (hg : manualOk g) : manualOk u := by
  induction h with
  | refl => exact hg
  | tail _ h ih =>
    have hcfg := h.frame.cfg
    obtain ⟨_, hmode⟩ := h
    exact manualOk_of_harvest (by rw [hcfg]; exact hmode)

theorem CapStepped.manualOk {old : Nat} (h : CapStepped old g u) (hg : manualOk g) : manualOk u := by
  cases h with
  | same => exact hg
  | manual => exact hg
  | clamped hmode => exact manualOk_of_harvest (by rw [(capClamped_frame _ g).cfg]; exact hmode)
  | rose _ _ hraise => exact raiseMoves_manualOk hraise hg

/-- R75: a changed C tested. -/
theorem cutOffTested_governed (htimers : CtlTimers g) (hfits : HarvestFits True False g) (hmanual : manualOk g) :
    Governed (cutOffTested g) := by
  refine ⟨htimers.cutOffTested, fun hmode => ?_, fun hmode => ?_⟩
  · have hmode : g.cfg.mode = .harvest := by rwa [(cutOffTested_frame g).cfg] at hmode
    obtain ⟨hcap, hdaylit, _, hforced⟩ := hfits hmode
    unfold cutOffTested
    split
    · exact ⟨hcap trivial, nofun, nofun, nofun⟩
    · rename_i htest
      refine ⟨hcap trivial, hdaylit, fun hd => Nat.not_lt.mp fun hlt => htest ⟨hd, .inr hlt⟩, hforced⟩
  · have hmode : g.cfg.mode = .manual := by rwa [(cutOffTested_frame g).cfg] at hmode
    have hforced := hmanual hmode
    rw [cutOffTested, if_neg (by rw [hforced]; exact fun h => nomatch h.1)]
    exact hforced

theorem sensed_governed (h : Governed g) (s : State) (i : Nat) : Governed (sensed s i g) := by
  have htimers := h.timers.sensed s i
  obtain ⟨hcfg, hctl, hh, hcap⟩ := heldAgain_controller s i
    { g with activity := .occupied, holdTimer := none, setbackTimer := none }
  revert htimers
  unfold sensed
  split
  · exact fun htimers => h.congr htimers rfl rfl rfl rfl
  · exact fun htimers => h.congr htimers hcfg hctl hh hcap

/-- R14: an amendment keeps the law of the controller. -/
theorem AmendPath.governed {clear : Bool} (h : AmendPath s i g c clear u) (hg : Governed g) : Governed u := by
  obtain ⟨hmode, hcap, hlink⟩ := h
  rename_i v w x
  have hcapv : v.effCap = (modeStepped g.cfg.mode c.mode (amendedSeg s g c)).effCap := raiseMoves_effCap hmode
  obtain ⟨hfits0, hmanual0⟩ := modeStepped_fits (s := s) (c := c) hg
  have hfits := hcap.fits (by rw [hcapv]; exact hfits0.raises hmode)
  have hmanual := hcap.manualOk (raiseMoves_manualOk hmode hmanual0)
  have htimers := hcap.ctlTimers (raiseMoves_ctlTimers hmode (modeStepped_timers (s := s) (c := c) hg.timers))
  have hcut : Governed (if c.cutOff = g.cfg.cutOff then w else cutOffTested w) := by
    split
    · rename_i hsame
      exact ⟨htimers, hfits.full trivial hsame, hmanual⟩
    · rename_i hdiffer
      exact cutOffTested_governed htimers (fun hm => ⟨(hfits hm).1, (hfits hm).2.1, nofun, (hfits hm).2.2.2⟩) hmanual
  have hend : Governed x := by
    refine raiseMoves_governed hlink ?_
    split
    · exact hcut
    · exact sensed_governed hcut s i
  split
  · obtain ⟨⟨hstep, hoff, hblind, hshort⟩, hharvest, hmanual⟩ := hend
    exact ⟨⟨hstep, hoff, hblind, fun hs => ⟨(hshort hs).1, (hshort hs).2.1, rfl⟩⟩, hharvest, hmanual⟩
  · exact hend

end Amended

/-! ## A tenth and a warm reset -/

theorem tickSeg_governed (h : Governed g) : Governed (tickSeg g) := by
  obtain ⟨⟨h1, h2, h3, h4⟩, hharvest, hmanual⟩ := h
  refine ⟨⟨?_, ?_, ?_, ?_⟩, hharvest, hmanual⟩ <;> simp only [tickSeg, tickTimer_isSome] <;> assumption

theorem warmSeg_governed (c : Composer) (g : Segment) : Governed (warmSeg c g) := by
  refine ⟨(segTimersOk_iff.mp (warmSeg_settled c g).1).1, ?_, ?_⟩
  · unfold warmSeg
    cases hmode : g.cfg.mode with
    | harvest => exact fun _ => ⟨min_le_right _ _, nofun, nofun, nofun⟩
    | manual => exact fun hm => nomatch hmode.symm.trans hm
  · unfold warmSeg
    cases hmode : g.cfg.mode with
    | harvest => exact manualOk_of_harvest hmode
    | manual => exact fun _ => rfl

end Record

section Harvest

variable {s t : State}

/-- The controllers' laws at every segment. -/
abbrev GovernedAll (s : State) : Prop := ∀ e ∈ s.segs, Governed e.2

theorem governedAll_of_segs (hs : GovernedAll s) (h : t.segs = s.segs) : GovernedAll t := by
  unfold GovernedAll
  rw [h]
  exact hs

theorem RecordAct.governed (h : RecordAct s t) (ht : tabWf 32 s.segs) (hs : GovernedAll s) : GovernedAll t := by
  cases h.segsChange with
  | moves h => exact forall_segs_of_moves (fun _ _ => SegMove.governed) h hs
  | defined body i hid hnone hrow henums hrefs heq =>
    rw [heq]
    refine ((defineSeg_reached _ ht (by omega)).mono fun u hu => ?_).forall (fun _ _ => RaiseMove.governed) hs
    exact raiseMoves_governed hu (definedSeg_governed _ _)
  | amended body i g clear hg henums hrefs hlinked heq =>
    rw [heq]
    refine ((amendSeg_reached _ clear ht hg).mono fun u hu => ?_).forall (fun _ _ => RaiseMove.governed) hs
    exact hu.governed (hs _ (mem_of_tabGet hg))
  | retired i href heq =>
    rw [heq]
    have hretired := (retireRecords_by (fun o => o.scope.segment == i) true s).moves
    exact fun e he => forall_segs_of_moves (fun _ _ => SegMove.governed) hretired hs e (mem_tabDel he)

theorem harvest_keptByParts : KeptByParts fun s => TablesOk s ∧ GovernedAll s where
  record h hs := ⟨h.tablesOk hs.1, h.governed hs.1.2.1 hs.2⟩
  recompose k s hs :=
    ⟨tablesOk_keptByParts.recompose k hs.1, governedAll_of_segs hs.2 (recomposeLum_lumsOnly k s).records.1⟩
  fixture h hs := ⟨tablesOk_keptByParts.fixture h hs.1, governedAll_of_segs hs.2 h.lumsOnly.records.1⟩
  recapped _ _ _ _ hs := hs
  captured hs := hs
  ticked hs := ⟨tablesOk_keptByParts.ticked hs.1, forall_tabMap (p := Governed) (fun _ => tickSeg_governed) hs.2⟩
  tallied {s} hs := by
    refine ⟨tablesOk_keptByParts.tallied hs.1, fun e he => ?_⟩
    obtain ⟨x, hx, rfl⟩ := List.mem_map.mp he
    obtain ⟨⟨h1, h2, h3, h4⟩, hharvest, hmanual⟩ := hs.2 x hx
    exact ⟨⟨h1, h2, h3, h4⟩, hharvest, hmanual⟩
  holdsTaken hs := hs
  drew _ hs := hs
  portSet _ hs := hs
  warmBlocks {s} hs :=
    ⟨tablesOk_keptByParts.warmBlocks hs.1,
      forall_tabMap (p := Governed) (fun g _ => warmSeg_governed s.composer g) hs.2⟩
  raiseOnce i s hs :=
    ⟨tablesOk_keptByParts.raiseOnce i hs.1,
      forall_segs_of_moves (fun _ _ => SegMove.governed) (raiseOnce_by i s).live.moves hs.2⟩
  composeAll hs := ⟨tablesOk_keptByParts.composeAll hs.1, hs.2⟩
  refresh i s hrunning hs :=
    ⟨tablesOk_keptByParts.refresh i hrunning hs.1, governedAll_of_segs hs.2 (fullRefresh_lumsOnly i s).records.1⟩
  coldReset low _ := ⟨tablesOk_cold low _, List.forall_mem_nil _⟩

/-- Settles O16, by what each act does to the controller of a segment. -/
theorem harvestLawKept : Obligations.HarvestLawKept := by
  rintro s t ⟨htables, htimers⟩ hharvest hstep
  have hs : GovernedAll s := fun e he => ⟨(segTimersOk_iff.mp (htimers e he)).1, (hharvest e he).1, (hharvest e he).2⟩
  obtain ⟨_, ht⟩ := harvest_keptByParts.keptByStep (fun _ _ h => h) s t ⟨htables, hs⟩ hstep
  exact fun e he => ⟨(ht e he).harvest, (ht e he).manual⟩

end Harvest

end Sys2Proof.Machine
end

section
/-! SUPPORT. A segment in SETBACK or VACANT with its activity sensing on is watched (R96), act by act. -/

namespace Sys2Proof.Machine

/-- R89: an input watches a segment. -/
def Watching (n : Input) (i : Nat) : Prop := i ∈ coverageOf n.device ∧ n.link = .reporting

/-- R89: some enrolled input watches a segment. -/
def Watched (s : State) (i : Nat) : Prop := ∃ a n, input? s a = some n ∧ Watching n i

/-- A segment with its activity sensing on is in SETBACK or VACANT. -/
def Dimmed (s : State) (i : Nat) : Prop := ∃ g, seg? s i = some g ∧ g.cfg.sensing = true ∧ g.activity ≠ .occupied

section Watched

variable {s t u : State} {i : Nat} {g new : Segment}

theorem watched_iff (ht : tabWf 48 s.inputs) : watched s i = true ↔ Watched s i := by
  unfold watched
  rw [List.any_eq_true]
  constructor
  · rintro ⟨e, he, hw⟩
    refine ⟨e.1, e.2, tabGet_of_mem ht.1 he, ?_⟩
    split at hw
    · rename_i coverage last hdevice
      simp only [Bool.and_eq_true, beq_iff_eq, List.contains_iff_mem] at hw
      exact ⟨by rw [hdevice]; exact hw.1, hw.2⟩
    · cases hw
  · rintro ⟨a, n, hn, hcover, hlink⟩
    refine ⟨(a, n), mem_of_tabGet hn, ?_⟩
    dsimp only
    split
    · rename_i coverage last hdevice
      rw [hdevice] at hcover
      simp only [Bool.and_eq_true, beq_iff_eq, List.contains_iff_mem]
      exact ⟨hcover, hlink⟩
    · rename_i hother
      unfold coverageOf at hcover
      split at hcover
      · rename_i coverage last hdevice
        exact absurd hdevice (hother coverage last)
      · cases hcover

theorem watched_congr (h : t.inputs = s.inputs) (i : Nat) : watched t i = watched s i := by
  unfold watched
  rw [h]

/-- R96: the law, in terms of ids. -/
theorem watchedOk_iff (ht : TablesOk s) : WatchedOk s ↔ ∀ i, Dimmed s i → Watched s i := by
  constructor
  · rintro h i ⟨g, hg, hsensing, hactivity⟩
    exact (watched_iff ht.2.2).mp (h _ (mem_of_tabGet hg) hsensing hactivity)
  · exact fun h e he hsensing hactivity =>
      (watched_iff ht.2.2).mpr (h e.1 ⟨e.2, tabGet_of_mem ht.2.1.1 he, hsensing, hactivity⟩)

/-! ## The segments -/

/-- A record that is dimmed is made from one that was. -/
def WasDimmed (g u : Segment) : Prop :=
  u.cfg.sensing = true → u.activity ≠ .occupied → g.cfg.sensing = true ∧ g.activity ≠ .occupied

theorem LiveMoves.wasDimmed (h : LiveMoves g new) : WasDimmed g new := by
  intro hsensing hactivity
  have hcfg : new.cfg = g.cfg := (segMoves_settings (h.lift id fun _ _ => SegMove.live)).1
  refine ⟨by rw [← hcfg]; exact hsensing, fun hocc => hactivity ?_⟩
  rcases liveMoves_activity h with h | h
  · rw [h, hocc]
  · exact h

theorem Dimmed.before (h : SegsBy WasDimmed s t) (ht : tabWf 32 s.segs) (hi : Dimmed t i) : Dimmed s i := by
  obtain ⟨u, hu, hsensing, hactivity⟩ := hi
  obtain ⟨g, hg, hgu⟩ := h.get_some ht hu
  exact ⟨g, hg, hgu hsensing hactivity⟩

theorem Dimmed.before_live (h : SegsBy LiveMoves s t) (ht : tabWf 32 s.segs) (hi : Dimmed t i) : Dimmed s i :=
  Dimmed.before (h.mono LiveMoves.wasDimmed) ht hi

/-- R96: a segment that is dimmed after its re-resolution is watched. -/
theorem watched_of_reResolve {byRequest : Bool} (h : Dimmed (reResolve byRequest i u) i) : watched u i = true := by
  obtain ⟨v, hv, hsensing, hactivity⟩ := h
  cases hg : seg? u i with
  | none =>
    rw [reResolve, onSeg_none hg, hg] at hv
    cases hv
  | some g =>
    rw [reResolve, onSeg_some hg] at hv
    split at hv
    · rw [seg?_recomputeHeld, if_pos rfl, seg?_putSeg_self] at hv
      cases hv
      exact absurd (heldAgain_activity _ i _).2.1 hactivity
    · rename_i hstays
      cases hg.symm.trans hv
      cases hw : watched u i with
      | true => rfl
      | false => exact absurd ⟨hsensing, hactivity, hw⟩ hstays

theorem watched_of_forEach_reResolve {byRequest : Bool} {ks : List Nat} (hi : i ∈ ks) (ht : tabWf 32 u.segs)
    (h : Dimmed (forEach ks (reResolve byRequest) u) i) : watched u i = true := by
  induction ks generalizing u with
  | nil => cases hi
  | cons k ks ih =>
    rw [forEach_cons] at h
    have hwf := (reResolve_by byRequest k u).keepsTabWf ht
    by_cases hik : i = k
    · rw [hik] at h ⊢
      exact watched_of_reResolve (h.before_live (forEach_reResolve_by byRequest ks _) hwf)
    · have hw := ih (List.mem_of_ne_of_mem hik hi) hwf h
      rwa [watched_congr (reResolve_segsOnly byRequest k u).same.2.1.1] at hw

/-- R96: after the re-resolution of the segments that may have lost their watch, every dimmed segment is watched. -/
theorem watched_of_reResolved {byRequest : Bool} {ks : List Nat} (ht : tabWf 32 u.segs) (htin : tabWf 48 u.inputs)
    (hrest : Dimmed u i → i ∉ ks → Watched u i) (h : Dimmed (forEach ks (reResolve byRequest) u) i) :
    Watched (forEach ks (reResolve byRequest) u) i := by
  have hinputs := forEach_reResolve_inputs byRequest ks u
  have hwatched : Watched u i := by
    by_cases hi : i ∈ ks
    · exact (watched_iff htin).mp (watched_of_forEach_reResolve hi ht h)
    · exact hrest (h.before_live (forEach_reResolve_by byRequest ks u) ht) hi
  unfold Watched input? at hwatched ⊢
  rwa [hinputs]

/-! ## The inputs -/

/-- A watch that stands at every address but one, and there where the new input watches. -/
theorem Watched.put {a : Nat} {n : Input} (h : Watched s i) (hn : ∀ m, input? s a = some m → Watching m i → Watching n i) :
    Watched (putInput a n s) i := by
  obtain ⟨b, m, hm, hw⟩ := h
  by_cases hb : b = a
  · rw [hb] at hm
    exact ⟨a, n, input?_putInput_self a n s, hn m hm hw⟩
  · exact ⟨b, m, by rw [input?_putInput_ne _ _ hb]; exact hm, hw⟩

theorem InputMove.coverage {n m : Input} (h : InputMove n m) : coverageOf m.device = coverageOf n.device := by
  cases h with
  | lost _ link misses changed hlink =>
    dsimp only
    split
    · cases n.device <;> rfl
    · rfl
  | ticked =>
    unfold tickInput
    cases n.device <;> rfl
  | warmed running =>
    unfold warmInput
    cases n.device <;> rfl
  | reinstated hd => rw [hd]; rfl
  | calibrated hd => rw [hd]; rfl
  | released hd => rw [hd]; rfl
  | sampled hd => rw [hd]; rfl
  | reported hd => rw [hd]; rfl
  | sequenced hd => rw [hd]; rfl
  | pressed hd => rw [hd]; rfl
  | _ => rfl

theorem amendInputRecord_watched {a : Nat} {n : Input} (d : Device) (interval missLimit : Option Nat) (ht : TablesOk s)
    (hn : input? s a = some n) (hs : ∀ i, Dimmed s i → Watched s i)
    (hi : Dimmed (amendInputRecord a n (amendedInput n d interval missLimit) s) i) :
    Watched (amendInputRecord a n (amendedInput n d interval missLimit) s) i := by
  refine watched_of_reResolved ht.2.1 (tabWf_put ht.2.2 (ht.2.2.2 _ (mem_of_tabGet hn))) (fun hd hkept => ?_) hi
  refine (hs i hd).put fun m hm hw => ?_
  cases hn.symm.trans hm
  refine ⟨?_, hw.2⟩
  by_contra hout
  exact hkept (List.mem_append_left _ (List.mem_filter.mpr ⟨hw.1, by simpa using hout⟩))

theorem retireInput_watched {a : Nat} {n : Input} (ht : TablesOk s) (hn : input? s a = some n)
    (hs : ∀ i, Dimmed s i → Watched s i) (hi : Dimmed (retireInput a n s) i) : Watched (retireInput a n s) i := by
  have hdeleted (v : State) (hv : v.inputs = tabDel s.inputs a) (hcover : i ∉ coverageOf n.device) (h : Watched s i) :
      Watched v i := by
    obtain ⟨b, m, hm, hw⟩ := h
    have hb : b ≠ a := by
      rintro rfl
      cases hn.symm.trans hm
      exact hcover hw.1
    exact ⟨b, m, by rw [input?, hv, tabGet_del_ne _ hb]; exact hm, hw⟩
  unfold retireInput at hi ⊢
  dsimp only at hi ⊢
  split at hi
  · rename_i hdevice
    exact hdeleted _ rfl (by rw [hdevice]; exact List.not_mem_nil) (hs i hi)
  · rename_i coverage last hdevice
    refine watched_of_reResolved ?_ (tabWf_del ht.2.2 a) (fun hd hkept => hdeleted _ rfl (by rw [hdevice]; exact hkept) (hs i hd)) hi
    exact ht.2.1
  · rename_i hdevice
    refine hdeleted _ (retireRecords_listOnly _ _ _).same.2.2.1 (by rw [hdevice]; exact List.not_mem_nil) (hs i ?_)
    have hlive (v : State) : SegsBy LiveMoves v (retireStation a v) := retireRecords_by _ true v
    have hd := Dimmed.before_live (hlive _) (s := { forgetInput a s with inputs := tabDel (forgetInput a s).inputs a })
      ht.2.1 hi
    exact hd

theorem dropLink_watched {a misses : Nat} {link : InputLink} (ht : TablesOk s) (hs : ∀ i, Dimmed s i → Watched s i)
    (hi : Dimmed (dropLink a link misses s) i) : Watched (dropLink a link misses s) i := by
  unfold dropLink at hi ⊢
  refine onInput_rel (R := fun _ t => Dimmed t i → Watched t i) (hs i) (fun n hn hi => ?_) hi
  have hput (m : Input) : tabWf 48 (putInput a m s).inputs := tabWf_put ht.2.2 (ht.2.2.2 _ (mem_of_tabGet hn))
  dsimp only at hi ⊢
  generalize (if (n.link == .reporting) = true then deviceLost n.device else n.device) = d at hi ⊢
  split at hi
  · rename_i hlost
    rw [if_pos hlost]
    refine watched_of_reResolved ht.2.1 (hput _) (fun hd hkept => ?_) hi
    refine (hs i hd).put fun m hm hw => ?_
    cases hn.symm.trans hm
    exact absurd hw.1 hkept
  · rename_i hkept
    rw [if_neg hkept]
    refine (hs i hi).put fun m hm hw => ?_
    cases hn.symm.trans hm
    exact absurd (beq_iff_eq.mpr hw.2) hkept

theorem goDownInput_watched (ht : TablesOk s) (hs : ∀ i, Dimmed s i → Watched s i) (hi : Dimmed (goDownInput s) i) :
    Watched (goDownInput s) i := by
  unfold goDownInput at hi ⊢
  dsimp only at hi ⊢
  cases hr : s.inputLine.spotRequest with
  | none =>
    rw [hr] at hi
    refine watched_of_reResolved ht.2.1 (tabWf_map ht.2.2 _) (fun hd hkept => ?_) hi
    obtain ⟨a, n, hn, hw⟩ := hs i hd
    exact absurd (List.mem_flatMap.mpr ⟨_, mem_of_tabGet hn, hw.1⟩) hkept
  | some r =>
    rw [hr] at hi
    refine watched_of_reResolved ht.2.1 (tabWf_map ht.2.2 _) (fun hd hkept => ?_) hi
    obtain ⟨a, n, hn, hw⟩ := hs i hd
    exact absurd (List.mem_flatMap.mpr ⟨_, mem_of_tabGet hn, hw.1⟩) hkept

theorem InputAct.watched (h : InputAct s t) (ht : TablesOk s) (hs : ∀ i, Dimmed s i → Watched s i) (hi : Dimmed t i) :
    Watched t i := by
  cases h with
  | put hn hmove hlink =>
    refine (hs i hi).put fun m hm hw => ?_
    cases hn.symm.trans hm
    exact ⟨by rw [hmove.coverage]; exact hw.1, hlink hw.2⟩
  | enrolled body a k d clamped interval missLimit haddr hnone =>
    exact (hs i hi).put fun m hm => nomatch hnone.symm.trans hm
  | amended body a n d clamped interval missLimit hn => exact amendInputRecord_watched d interval missLimit ht hn hs hi
  | retired a n hn => exact retireInput_watched ht hn hs hi
  | lost a link misses => exact dropLink_watched ht hs hi
  | lineDown => exact goDownInput_watched ht hs hi
  | lineUp =>
    obtain ⟨a, n, hn, hw⟩ := hs i hi
    refine ⟨a, restartPoll n, ?_, hw⟩
    exact (tabGet_map s.inputs restartPoll a).trans (by rw [show tabGet s.inputs a = some n from hn]; rfl)
  | _ => exact hs i hi

/-! ## The segments and the list -/

theorem Dimmed.before_put {k : Nat} (hg : seg? s k = some g) (h : WasDimmed g new) (hi : Dimmed (putSeg k new s) i) :
    Dimmed s i := by
  obtain ⟨v, hv, hsensing, hactivity⟩ := hi
  by_cases hik : i = k
  · rw [hik, seg?_putSeg_self] at hv
    cases hv
    rw [hik]
    exact ⟨g, hg, h hsensing hactivity⟩
  · exact ⟨v, by rwa [seg?_putSeg_ne _ _ hik] at hv, hsensing, hactivity⟩

/-- R93: only a watched segment goes to SETBACK. -/
theorem holdExpiry_dimmed {k : Nat} (ht : TablesOk s) (hi : Dimmed (segExpiry k (·.holdTimer) (holdExpired k) s) i) :
    Dimmed s i ∨ Watched s i := by
  unfold segExpiry at hi
  refine onSeg_rel (R := fun _ t => Dimmed t i → Dimmed s i ∨ Watched s i) .inl (fun g hg hi => ?_) hi
  split at hi
  · unfold holdExpired at hi
    split at hi
    · rename_i hwatched
      by_cases hik : i = k
      · rw [hik]
        exact .inr ((watched_iff ht.2.2).mp hwatched)
      · have hd := hi.before_live (recomputeHeld_by k _) (tabWf_put ht.2.1 (ht.2.1.2 _ (mem_of_tabGet hg)))
        obtain ⟨v, hv, hdim⟩ := hd
        exact .inl ⟨v, by rwa [seg?_putSeg_ne _ _ hik] at hv, hdim⟩
    · refine .inl (Dimmed.before_put hg ?_ hi)
      exact fun hsensing hactivity => ⟨hsensing, hactivity⟩
  · exact .inl hi

/-- R94: a segment goes VACANT out of SETBACK. -/
theorem setbackExpiry_dimmed {k : Nat} (ht : TablesOk s) (hsettled : ∀ e ∈ s.segs, SegSettled e.2)
    (hi : Dimmed (segExpiry k (·.setbackTimer) (goVacant k) s) i) : Dimmed s i := by
  unfold segExpiry at hi
  refine onSeg_rel (R := fun _ t => Dimmed t i → Dimmed s i) id (fun g hg hi => ?_) hi
  split at hi
  · rename_i hdue
    have hg' := hsettled _ (mem_of_tabGet hg)
    have hput (u : Segment) : tabWf 32 (putSeg k u s).segs := tabWf_put ht.2.1 (ht.2.1.2 _ (mem_of_tabGet hg))
    have hd := hi.before_live (recomputeHeld_by k _) ((retireRecords_by _ true _).keepsTabWf (hput _))
    refine (hd.before_live (retireRecords_by _ true _) (hput _)).before_put hg fun _ _ => ⟨hg'.sensing_of_setback hdue, ?_⟩
    rw [(segTimersOk_iff.mp hg'.1).2.setback.mp (isSome_of_due hdue)]
    nofun
  · exact hi

theorem SegReached.dimmed {q : Segment → Prop} {k : Nat} (h : SegReached s k q t)
    (hself : ∀ u, q u → u.cfg.sensing = true → u.activity ≠ .occupied → Dimmed s k) (hi : Dimmed t i) : Dimmed s i := by
  obtain ⟨u, hu, hsensing, hactivity⟩ := hi
  by_cases hik : i = k
  · rw [hik] at hu ⊢
    exact hself u (h.self u hu) hsensing hactivity
  · obtain ⟨g, hg, hmoves⟩ := h.others i hik u hu
    have hframe := raiseMoves_frame hmoves
    exact ⟨g, hg, by rw [← hframe.cfg]; exact hsensing, by rw [← hframe.activity]; exact hactivity⟩

theorem SegAct.dimmed (h : SegAct s t) (ht : TablesOk s) (hsettled : ∀ e ∈ s.segs, SegSettled e.2) (hi : Dimmed t i) :
    Dimmed s i ∨ Watched s i := by
  cases h with
  | stepped k => exact .inl (hi.before_live (stepExpiry_by k s).live ht.2.1)
  | skyChanged k => exact .inl (hi.before_live (skyChange_by k s).live ht.2.1)
  | offDelayed k => exact .inl (hi.before_live (offDelayExpiry_by k s).live ht.2.1)
  | fellBack k => exact .inl (hi.before_live (blindTimerExpiry_by k s).live ht.2.1)
  | fellShort k => exact .inl (hi.before_live (shortfallExpiry_by k s).live ht.2.1)
  | holdExpired k => exact holdExpiry_dimmed ht hi
  | moved byRequest k => exact .inl (hi.before_live (motion_by byRequest k s) ht.2.1)
  | recapped k =>
    refine .inl (hi.before ((recomputeCap_frame k s).mono fun h hsensing hactivity => ?_) ht.2.1)
    exact ⟨by rw [show _ = _ from h.cfg] at hsensing; exact hsensing, by rw [← show _ = _ from h.activity]; exact hactivity⟩
  | defined body k hid =>
    refine .inl ((defineSeg_reached _ ht.2.1 (by omega)).dimmed (fun u hu _ hactivity => absurd ?_ hactivity) hi)
    rw [(raiseMoves_frame hu).activity, definedSeg_activity]
  | amended body k g clear hg =>
    refine .inl ((amendSeg_reached _ clear ht.2.1 hg).dimmed (fun u hu _ hactivity => ?_) hi)
    have hg' := hsettled _ (mem_of_tabGet hg)
    rcases hu.activity hg'.1 with h | h
    · refine ⟨g, hg, ?_, by rw [← h]; exact hactivity⟩
      cases hsensing : g.cfg.sensing with
      | true => rfl
      | false => exact absurd (h.trans (hg'.2 hsensing)) hactivity
    · exact absurd h hactivity
  | unflagged k => exact .inl (hi.before_live (unflagSeg_by k s).live ht.2.1)

theorem ListAct.dimmed (h : ListAct s t) (ht : TablesOk s) (hsettled : ∀ e ∈ s.segs, SegSettled e.2) (hi : Dimmed t i) :
    Dimmed s i := by
  cases h with
  | wentVacant k => exact setbackExpiry_dimmed ht hsettled hi
  | placed cls scope kind value action clamped hold => exact hi.before_live (placeFloor_by cls scope action _ s) ht.2.1
  | pressed a n scope hold lastButton sequence b =>
    exact hi.before_live ((motion_by false _ s).live_trans (pressList_by a scope hold b _)) ht.2.1
  | retired p flag => exact hi.before_live (retireRecords_by p flag s) ht.2.1
  | retiredSeg k =>
    have hretired := retireRecords_by (fun o => o.scope.segment == k) true s
    obtain ⟨g, hg, hdim⟩ := hi
    refine Dimmed.before_live hretired ht.2.1 ⟨g, ?_, hdim⟩
    exact tabGet_of_mem (hretired.keepsTabWf ht.2.1).1 (mem_tabDel (mem_of_tabGet hg))
  | counted => exact hi.before_live (countHolds_by s) ht.2.1
  | unflagged => exact hi

theorem Watched.of_inputs (h : Watched s i) (hinputs : t.inputs = s.inputs) : Watched t i := by
  unfold Watched input? at h ⊢
  rwa [hinputs]

/-- R96: every act on the records keeps the law. -/
theorem RecordAct.watched (h : RecordAct s t) (ht : TablesOk s) (hsettled : ∀ e ∈ s.segs, SegSettled e.2)
    (hs : ∀ i, Dimmed s i → Watched s i) : ∀ i, Dimmed t i → Watched t i := by
  intro i hi
  cases h with
  | seg h =>
    refine Watched.of_inputs ?_ h.segsOnly.same.2.1.1
    exact (h.dimmed ht hsettled hi).elim (hs i) id
  | list h => exact (hs i (h.dimmed ht hsettled hi)).of_inputs h.listOnly.same.2.2.1
  | input h => exact h.watched ht hs hi

/-! ## The law -/

/-- What leaves the inputs' watches and dims no segment keeps the law. -/
theorem watchedOk_of (ht : TablesOk s) (ht' : TablesOk t) (hs : WatchedOk s) (hsegs : SegsBy WasDimmed s t)
    (hinputs : ∀ i, Watched s i → Watched t i) : WatchedOk t :=
  (watchedOk_iff ht').mpr fun i hi => hinputs i ((watchedOk_iff ht).mp hs i (hi.before hsegs ht.2.1))

theorem wasDimmed_refl (g : Segment) : WasDimmed g g := fun hsensing hactivity => ⟨hsensing, hactivity⟩

theorem watchedOk_of_lumsOnly (h : LumsOnly s t) (ht : TablesOk s) (ht' : TablesOk t) (hs : WatchedOk s) : WatchedOk t :=
  watchedOk_of ht ht' hs (TabBy.of_eq wasDimmed_refl h.records.1) fun _ hw => hw.of_inputs h.records.2.2.1

/-- The law of the activity with that of the watches, and the tables they stand in. -/
abbrev ActivityOk (s : State) : Prop := (TablesOk s ∧ VacantOk s ∧ TimersOk s) ∧ WatchedOk s

theorem watched_keptByParts : KeptByParts ActivityOk where
  record {s t} h hs := by
    have hkept := vacancy_keptByParts.record h hs.1
    refine ⟨hkept, (watchedOk_iff hkept.1).mpr (h.watched hs.1.1 ?_ ((watchedOk_iff hs.1.1).mp hs.2))⟩
    exact ((vacancy_iff hs.1.1).mp hs.1.2).1
  recompose k s hs := by
    have hkept := vacancy_keptByParts.recompose k hs.1
    exact ⟨hkept, watchedOk_of_lumsOnly (recomposeLum_lumsOnly k s) hs.1.1 hkept.1 hs.2⟩
  fixture h hs := by
    have hkept := vacancy_keptByParts.fixture h hs.1
    exact ⟨hkept, watchedOk_of_lumsOnly h.lumsOnly hs.1.1 hkept.1 hs.2⟩
  recapped _ _ _ _ hs := hs
  captured hs := hs
  ticked {s} hs := by
    have hkept := vacancy_keptByParts.ticked hs.1
    refine ⟨hkept, watchedOk_of hs.1.1 hkept.1 hs.2 (tabBy_map (R := WasDimmed) (f := tickSeg) (fun g => wasDimmed_refl g) _) ?_⟩
    rintro i ⟨a, n, hn, hw⟩
    refine ⟨a, tickInput n, ?_, ?_⟩
    · exact (tabGet_map s.inputs tickInput a).trans (by rw [show tabGet s.inputs a = some n from hn]; rfl)
    · exact ⟨by rw [(InputMove.ticked n).coverage]; exact hw.1, hw.2⟩
  tallied {s} hs := by
    have hkept := vacancy_keptByParts.tallied hs.1
    refine ⟨hkept, watchedOk_of hs.1.1 hkept.1 hs.2 ((addTallies_by s).mono ?_) fun _ => id⟩
    rintro g u ⟨n, _, rfl⟩
    exact wasDimmed_refl g
  holdsTaken hs := hs
  drew _ hs := hs
  portSet _ hs := hs
  warmBlocks {s} hs := by
    have hkept := vacancy_keptByParts.warmBlocks hs.1
    refine ⟨hkept, (watchedOk_iff hkept.1).mpr ?_⟩
    rintro i ⟨g, hg, _, hactivity⟩
    obtain ⟨u, hu, rfl⟩ := Option.map_eq_some_iff.mp ((tabGet_map s.segs (warmSeg s.composer) i).symm.trans hg)
    exact absurd (warmSeg_activity s.composer u) hactivity
  raiseOnce i s hs := by
    have hkept := vacancy_keptByParts.raiseOnce i hs.1
    refine ⟨hkept, watchedOk_of hs.1.1 hkept.1 hs.2 ((raiseOnce_by i s).live.mono LiveMoves.wasDimmed) ?_⟩
    exact fun j hw => hw.of_inputs (raiseOnce_segsOnly i s).same.2.1.1
  composeAll hs := by
    have hkept := vacancy_keptByParts.composeAll hs.1
    exact ⟨hkept, watchedOk_of_lumsOnly rfl hs.1.1 hkept.1 hs.2⟩
  refresh i s hrunning hs := by
    have hkept := vacancy_keptByParts.refresh i hrunning hs.1
    exact ⟨hkept, watchedOk_of_lumsOnly (fullRefresh_lumsOnly i s) hs.1.1 hkept.1 hs.2⟩
  coldReset low hs := ⟨vacancy_keptByParts.coldReset low hs.1, watchedOk_cold low _⟩

/-- Settles O19, by what each act does to the activity of a segment and to the inputs that watch it. -/
theorem dimmedSegmentsStayWatched : Obligations.DimmedSegmentsStayWatched :=
  watched_keptByParts.keptUnder fun _ _ h => h

end Watched

end Sys2Proof.Machine
end

section
/-! SUPPORT. The held flag is not kept (R64) where two override records share a handle: the premises do not rule that out, and a
refresh takes every record of its handle from the list. -/

namespace Sys2Proof.Machine

/-- A MANUAL segment that is held. -/
def heldSeg : Segment := { freshSeg segDefaults 1000 with held := true }

/-- A FACILITY record of the floor controller on the whole of a segment, of handle 1. -/
def offRecord (i : Nat) : Override := ⟨1, .floor, .facility, ⟨i, 0, 15⟩, .off, none⟩

/-- Two segments, each held by a record of its own, the two records sharing a handle; a PLACE OVERRIDE on segment 0 waits. -/
def sharedHandle : State :=
  { State.reset with
    segs := [(0, heldSeg), (1, heldSeg)]
    overrides := { records := [offRecord 0, offRecord 1], counter := 2, changed := false }
    pending := [.placeOverride [0, 0, 0, 15, 3, 0, 0, 255, 255]] }

/-- What the refresh leaves: the record of segment 1 is gone, its held flag stands. -/
theorem sharedHandle_refreshed :
    ∃ t, step sharedHandle = .next t ∧ t.segs = sharedHandle.segs ∧ t.overrides.records = [offRecord 0] :=
  ⟨_, rfl, rfl, rfl⟩

/-- Refutes O20: with two records of one handle, a refresh of the one on segment 0 takes the one on segment 1 from the list and
leaves that segment's held flag. -/
theorem not_heldFlagAndCapsKept : ¬ Obligations.HeldFlagAndCapsKept := by
  intro h
  obtain ⟨t, hstep, hsegs, hrecords⟩ := sharedHandle_refreshed
  obtain ⟨hheld, _⟩ := h sharedHandle t (by decide) (by decide) hstep
  have hflag : heldSeg.held = isHeld t 1 heldSeg := hheld (1, heldSeg) (by rw [hsegs]; decide)
  rw [isHeld, recordsOf, hrecords] at hflag
  exact absurd hflag (by decide)

end Sys2Proof.Machine
end

section
/-! SUPPORT. What a recomposition makes of a luminaire and of its line (R127, R128); every composition is current (R125 to R127). -/

namespace Sys2Proof.Machine

/-! ## One recomposition -/

/-- R128, R136, R140: a line to which a luminaire's code is handed. -/
def handedLine (line : FixtureLine) (k code : Nat) : FixtureLine :=
  chooseFrame
    { line with queue := if line.state = .running then coalesce line.queue k code else line.queue }

/-- R125, R126: what the stages give for a luminaire at a place of a segment. -/
def composedAt (s : State) (g : Segment) (p : Place) (l : Luminaire) : Composed :=
  composeFrom l g.effCap (requestedLevel s g p)

/-- R128: the composed code is a new one, or the luminaire had none. -/
abbrev FreshCode (l : Luminaire) (c : Composed) : Prop := l.composed.map (·.code) ≠ some c.code

/-- R127, R128: the record of a luminaire recomposed. -/
def recomposedLum (l : Luminaire) (c : Composed) : Luminaire :=
  { l with
    composed := some c
    unconfirmed := if FreshCode l c then false else l.unconfirmed
    mismatchCount := if FreshCode l c then 0 else l.mismatchCount }

theorem recomposedLum_fields (l : Luminaire) (c : Composed) :
    SameComposition { l with composed := some c } (recomposedLum l c) := ⟨rfl, rfl, rfl, rfl, rfl⟩

section Recomposed

variable {s t u : State} {i k j : Nat} {g : Segment} {l m : Luminaire} {p : Place}

theorem handOver_eq (k code : Nat) (hl : lum? s k = some l) :
    handOver k code s =
      putLine (keyLine k) (handedLine (lineOf (keyLine k) s) k code)
        (putLum k { l with unconfirmed := false, mismatchCount := 0 } s) := by
  rw [handOver, onLum_some hl, enqueue_eq, arbitrate_putLine, lineOf_putLum]
  rfl

/-- R127, R128: what the recomposition of an assigned luminaire leaves. -/
theorem recomposeLum_eq (hl : lum? s k = some l) (hp : l.place = some p) (hg : seg? s p.segment = some g) :
    recomposeLum k s =
      if FreshCode l (composedAt s g p l) then
        putLine (keyLine k) (handedLine (lineOf (keyLine k) s) k (composedAt s g p l).code)
          (putLum k (recomposedLum l (composedAt s g p l)) s)
      else putLum k (recomposedLum l (composedAt s g p l)) s := by
  rw [recomposeLum, onLum_some hl]
  simp only [hp]
  rw [onSeg_some hg]
  by_cases hsame : l.composed.map (·.code) = some (composeFrom l g.effCap (requestedLevel s g p)).code
  · have hkept : ¬FreshCode l (composedAt s g p l) := not_not_intro hsame
    rw [if_pos hsame, if_neg hkept, recomposedLum, if_neg hkept, if_neg hkept, ← hp]
    rfl
  · have hfresh : FreshCode l (composedAt s g p l) := hsame
    rw [if_neg hsame, if_pos hfresh, handOver_eq k _ (lum?_putLum_self k _ s), putLum_putLum, lineOf_putLum, recomposedLum,
      if_pos hfresh, if_pos hfresh, ← hp]
    rfl

theorem recomposeLum_unassigned (hl : lum? s k = some l) (hp : l.place = none) : recomposeLum k s = s := by
  rw [recomposeLum, onLum_some hl]
  simp only [hp]

theorem lum?_recomposeLum_self (hl : lum? s k = some l) (hp : l.place = some p) (hg : seg? s p.segment = some g) :
    lum? (recomposeLum k s) k = some (recomposedLum l (composedAt s g p l)) := by
  rw [recomposeLum_eq hl hp hg]
  split <;> simp

theorem lum?_recomposeLum_ne (hj : j ≠ k) (s : State) : lum? (recomposeLum k s) j = lum? s j := by
  cases hl : lum? s k with
  | none => rw [recomposeLum, onLum_none hl]
  | some l =>
    cases hp : l.place with
    | none => rw [recomposeLum_unassigned hl hp]
    | some p =>
      cases hg : seg? s p.segment with
      | none =>
        rw [recomposeLum, onLum_some hl]
        simp only [hp]
        rw [onSeg_none hg]
      | some g =>
        rw [recomposeLum_eq hl hp hg]
        split <;> simp [hj]

/-! ## A composition as the records stand -/

theorem governing_eq (s : State) (i n : Nat) :
    governing s i n = (recordsOf s i).find? fun o => decide (o.scope.first ≤ n) && decide (n ≤ o.scope.last) := by
  rw [governing, recordsOf, List.find?_filter]
  congr 1
  funext o
  by_cases h : o.scope.segment = i <;> simp [h]

/-- R103: the governing action is that of the records' scopes and actions alone. -/
theorem governing_action (h : (recordsOf s i).map (fun o => (o.scope, o.action)) = (recordsOf t i).map fun o => (o.scope, o.action))
    (n : Nat) : (governing s i n).map (·.action) = (governing t i n).map (·.action) := by
  have hfind (u : State) : (governing u i n).map (fun o => (o.scope, o.action))
      = ((recordsOf u i).map fun o => (o.scope, o.action)).find?
          fun x => decide (x.1.first ≤ n) && decide (n ≤ x.1.last) := by
    rw [governing_eq, List.find?_map]
    rfl
  have heq := (hfind s).trans (h ▸ (hfind t).symm)
  simpa [Option.map_map, Function.comp_def] using congrArg (Option.map Prod.snd) heq

/-- R127: where the inputs of composition of a segment stand, its members compose as before. -/
theorem composedAt_of_sameInputs {u : Segment} (h : sameInputs s t p.segment = true) (hg : seg? s p.segment = some g)
    (hu : seg? t p.segment = some u) (l : Luminaire) : composedAt t u p l = composedAt s g p l := by
  simp only [sameInputs, hg, hu, Bool.and_eq_true, beq_iff_eq] at h
  obtain ⟨⟨⟨⟨⟨⟨hmode, hmanual⟩, hsetback⟩, hh⟩, hactivity⟩, hcap⟩, hrecords⟩ := h
  unfold composedAt requestedLevel
  rw [governing_action hrecords, hcap]
  congr 2
  unfold activityLevel baseLevel
  rw [hmode, hmanual, hsetback, hh, hactivity]

theorem composedAt_congr (hsame : SameComposition l m) (g : Segment) (p : Place) :
    composedAt s g p m = composedAt s g p l := by
  unfold composedAt composeFrom
  rw [hsame.trim, hsame.minLevel, hsame.maxLevel]

theorem composedAt_list (h : t.overrides.records = s.overrides.records) (g : Segment) (p : Place) (l : Luminaire) :
    composedAt t g p l = composedAt s g p l := by
  unfold composedAt requestedLevel governing
  rw [h]

/-- R125 to R127: what it says that a luminaire's composition is current. -/
theorem currentOk_iff : currentOk s l = true ↔
    (l.place = none → l.composed = none)
      ∧ ∀ p, l.place = some p → ∃ g, seg? s p.segment = some g ∧ l.composed = some (composedAt s g p l) := by
  unfold currentOk
  cases hp : l.place with
  | none => simp [Option.isNone_iff_eq_none]
  | some p =>
    simp only [Option.any_eq_true, beq_iff_eq, reduceCtorEq, false_implies, true_and, Option.some.injEq]
    constructor
    · rintro ⟨g, hg, hc⟩ q rfl
      exact ⟨g, hg, hc⟩
    · exact fun h => h p rfl

/-- The composition of the luminaire at a key, if there is one, is current. -/
def CurrentAt (s : State) (k : Nat) : Prop := ∀ l, lum? s k = some l → currentOk s l = true

theorem currentOk_all_iff (ht : tabWf 128 s.lums) : CurrentOk s ↔ ∀ k, CurrentAt s k :=
  ⟨fun h k l hl => h (k, l) (mem_of_tabGet hl), fun h e he => h e.1 e.2 (tabGet_of_mem ht.1 he)⟩

theorem currentOk_congr (hsame : SameComposition l m) (hsegs : t.segs = s.segs) (hlist : t.overrides.records = s.overrides.records)
    (h : currentOk s l = true) : currentOk t m = true := by
  rw [currentOk_iff] at h ⊢
  obtain ⟨hnone, hsome⟩ := h
  refine ⟨fun hp => by rw [hsame.composed]; exact hnone (hsame.place ▸ hp), fun p hp => ?_⟩
  obtain ⟨g, hg, hc⟩ := hsome p (hsame.place ▸ hp)
  refine ⟨g, by rw [seg?, hsegs]; exact hg, ?_⟩
  rw [hsame.composed, hc, composedAt_congr hsame, composedAt_list hlist]

/-- Segments, list and the composition of a luminaire as they were. -/
theorem CurrentAt.of_same (h : CurrentAt s k) (hsegs : t.segs = s.segs) (hlist : t.overrides.records = s.overrides.records)
    (hlum : ∀ m, lum? t k = some m → ∃ l, lum? s k = some l ∧ SameComposition l m) : CurrentAt t k := by
  intro m hm
  obtain ⟨l, hl, hsame⟩ := hlum m hm
  exact currentOk_congr hsame hsegs hlist (h l hl)

theorem CurrentAt.of_eq (h : CurrentAt s k) (hsegs : t.segs = s.segs) (hlist : t.overrides.records = s.overrides.records)
    (hlum : lum? t k = lum? s k) : CurrentAt t k := h.of_same hsegs hlist fun m hm => ⟨m, hlum ▸ hm, .refl m⟩

/-- R125 to R127: a luminaire recomposed is current. -/
theorem currentAt_recomposed (hl : lum? s k = some l) (hp : l.place = some p) (hg : seg? s p.segment = some g) :
    CurrentAt (recomposeLum k s) k := by
  intro m hm
  cases (lum?_recomposeLum_self hl hp hg).symm.trans hm
  have hsame := (recomposeLum_lumsOnly k s).records
  rw [currentOk_iff]
  refine ⟨fun hnone => absurd (hp.symm.trans hnone) nofun, fun q hq => ?_⟩
  cases hp.symm.trans hq
  refine ⟨g, by rw [seg?, hsame.1]; exact hg, ?_⟩
  have hfields : SameComposition l { recomposedLum l (composedAt s g p l) with composed := l.composed } :=
    ⟨rfl, rfl, rfl, rfl, rfl⟩
  rw [composedAt_list (congrArg OverrideList.records hsame.2.1)]
  exact congrArg some (composedAt_congr hfields g p).symm

/-- R127: a recomposition leaves every current composition current. -/
theorem CurrentAt.recompose (h : CurrentAt s j) (k : Nat) : CurrentAt (recomposeLum k s) j := by
  have hsame := (recomposeLum_lumsOnly k s).records
  by_cases hj : j = k
  · rw [hj] at h ⊢
    cases hl : lum? s k with
    | none =>
      rw [recomposeLum, onLum_none hl]
      exact h
    | some l =>
      have hcurrent := currentOk_iff.mp (h l hl)
      cases hp : l.place with
      | none =>
        rw [recomposeLum_unassigned hl hp]
        exact h
      | some p =>
        obtain ⟨g, hg, _⟩ := hcurrent.2 p hp
        exact currentAt_recomposed hl hp hg
  · exact h.of_eq hsame.1 (congrArg OverrideList.records hsame.2.1) (lum?_recomposeLum_ne hj s)

theorem currentAt_forEach {ks : List Nat} (hk : k ∈ ks) (hl : lum? s k = some l) (hp : l.place = some p)
    (hg : seg? s p.segment = some g) : CurrentAt (forEach ks recomposeLum s) k := by
  have hkept (ls : List Nat) (v : State) (h : CurrentAt v k) : CurrentAt (forEach ls recomposeLum v) k :=
    forEach_keeps (P := fun v => CurrentAt v k) (fun j _ _ hv => hv.recompose j) h
  induction ks generalizing s l with
  | nil => cases hk
  | cons j ks ih =>
    rw [forEach_cons]
    by_cases hkj : k = j
    · rw [← hkj]
      exact hkept ks _ (currentAt_recomposed hl hp hg)
    · refine ih (List.mem_of_ne_of_mem hkj hk) (by rw [lum?_recomposeLum_ne hkj, hl]) hp ?_
      rw [seg?, (recomposeLum_lumsOnly j s).records.1]
      exact hg

/-! ## The end of an event -/

/-- What the application at one key establishes and every application keeps holds at the end. -/
theorem forEach_reaches {P Q : State → Prop} {f : Nat → State → State} {ks : List Nat} (hi : i ∈ ks)
    (hP : ∀ j s, P s → P (f j s)) (hQ : ∀ j s, P s → Q s → Q (f j s)) (hreach : ∀ s, P s → Q (f i s)) (hs : P s) :
    Q (forEach ks f s) := by
  have hkept (ls : List Nat) (v : State) (hv : P v) (h : Q v) : Q (forEach ls f v) :=
    (forEach_keeps (P := fun v => P v ∧ Q v) (fun j _ _ hv => ⟨hP j _ hv.1, hQ j _ hv.1 hv.2⟩) ⟨hv, h⟩).2
  induction ks generalizing s with
  | nil => cases hi
  | cons k ks ih =>
    rw [forEach_cons]
    by_cases hik : i = k
    · rw [← hik]
      exact hkept ks _ (hP i s hs) (hreach s hs)
    · exact ih (List.mem_of_ne_of_mem hik hi) (hP k s hs)

/-- R8, R11: an assigned luminaire stands at a position of a defined segment. -/
theorem assigned_fits (hs : RefsOk s) (hl : lum? s k = some l) (hp : l.place = some p) :
    p.position ≤ 15 ∧ ∃ g, seg? s p.segment = some g := by
  have hplace := hs.1 _ (mem_of_tabGet hl)
  rw [hp] at hplace
  simp only [placeOk, Bool.and_eq_true, decide_eq_true_eq] at hplace
  exact ⟨hplace.2, Option.isSome_iff_exists.mp hplace.1⟩

/-- R11: an assigned luminaire is a member of its segment. -/
theorem mem_members (hs : RefsOk s) (hl : lum? s k = some l) (hp : l.place = some p) : k ∈ members s p.segment := by
  have hfits := assigned_fits hs hl hp
  refine List.mem_filterMap.mpr ⟨p.position, List.mem_range.mpr (by omega), ?_⟩
  have hmem := mem_of_tabGet hl
  cases hfind : s.lums.find? fun e => e.2.place == some ⟨p.segment, p.position⟩ with
  | none =>
    have hnone := List.find?_eq_none.mp hfind _ hmem
    exact absurd (beq_iff_eq.mpr hp) hnone
  | some e =>
    have he := List.mem_of_find?_eq_some hfind
    have hfound := List.find?_some (p := fun e : Nat × Luminaire => e.2.place == some ⟨p.segment, p.position⟩) hfind
    have heq := beq_iff_eq.mp hfound
    have hsame : e = (k, l) := by
      by_contra hne
      have happart := pairwise_of_mem (R := fun a b : Nat × Luminaire => PlacesApart a.2 b.2) (fun _ _ => PlacesApart.symm)
        hs.2.1 he hmem hne
      exact happart.elim (fun hnone => absurd (heq.symm.trans hnone) nofun) fun hne => hne (heq.trans hp.symm)
    rw [memberAt, hfind, hsame]
    rfl

/-- R127: a segment's recomposition leaves its members current. -/
theorem currentAt_recomposeSeg (hs : RefsOk s) (hl : lum? s k = some l) (hp : l.place = some p) :
    CurrentAt (recomposeSeg p.segment s) k := by
  obtain ⟨_, g, hg⟩ := assigned_fits hs hl hp
  exact currentAt_forEach (mem_members hs hl hp) hl hp hg

theorem CurrentAt.recomposeSeg (h : CurrentAt s k) (i : Nat) : CurrentAt (recomposeSeg i s) k :=
  forEach_keeps (P := fun v => CurrentAt v k) (fun j _ _ hv => hv.recompose j) h

/-- A luminaire is assigned to a place, in a state whose references are valid. -/
structure AssignedTo (k : Nat) (p : Place) (s : State) : Prop where
  tables : TablesOk s
  refs : RefsOk s
  place : ∃ l, lum? s k = some l ∧ l.place = some p

/-- R8: a recomposition keeps every assignment. -/
theorem place_recomposeLum (ht : tabWf 128 s.lums) (hl : lum? s k = some l) (j : Nat) :
    ∃ m, lum? (recomposeLum j s) k = some m ∧ m.place = l.place := by
  have hsome := (recomposeLum_by j s).isSome ht k
  rw [show tabGet s.lums k = some l from hl] at hsome
  obtain ⟨m, hm⟩ := Option.isSome_iff_exists.mp hsome
  obtain ⟨l', hl', hmoves⟩ := (recomposeLum_by j s).get_some ht hm
  cases hl.symm.trans hl'
  exact ⟨m, hm, lumMoves_place hmoves⟩

theorem AssignedTo.recompose (h : AssignedTo k p s) (j : Nat) : AssignedTo k p (recomposeLum j s) := by
  obtain ⟨ht, hr⟩ := refsOk_keptByParts.recompose j ⟨h.tables, h.refs⟩
  obtain ⟨l, hl, hp⟩ := h.place
  obtain ⟨m, hm, hmp⟩ := place_recomposeLum h.tables.1 hl j
  exact ⟨ht, hr, m, hm, hmp.trans hp⟩

theorem AssignedTo.recomposeSeg (h : AssignedTo k p s) (i : Nat) : AssignedTo k p (recomposeSeg i s) :=
  forEach_keeps (P := AssignedTo k p) (fun j _ _ hv => hv.recompose j) h

/-- R127: at the end of an event that leaves the luminaires, every composition is current. -/
theorem settle_current (hs : ∀ k, CurrentAt s k) (ht : TablesOk t) (ht' : RefsOk t)
    (hlums : t.lums = s.lums) (k : Nat) : CurrentAt (settle s t) k := by
  intro l' hl'
  revert l' hl'
  obtain ⟨ls, n, hperm, heq⟩ := forEachFree_eq ((segIds t).filter fun i => !sameInputs s t i) Machine.recomposeSeg t
  rw [settle, heq]
  change CurrentAt (forEach ls Machine.recomposeSeg { t with draws := n }) k
  have hkept {v : State} (h : CurrentAt v k) : CurrentAt (forEach ls Machine.recomposeSeg v) k :=
    forEach_keeps (P := fun v => CurrentAt v k) (fun i _ _ hv => hv.recomposeSeg i) h
  have hlum : lum? t k = lum? s k := by rw [lum?, hlums]; rfl
  cases hl : lum? t k with
  | none => exact hkept fun m hm => absurd (hl.symm.trans hm) nofun
  | some l =>
    have hcurrent := currentOk_iff.mp (hs k l (hlum ▸ hl))
    cases hp : l.place with
    | none =>
      refine hkept fun m hm => ?_
      cases hl.symm.trans hm
      exact currentOk_iff.mpr ⟨fun _ => hcurrent.1 hp, fun q hq => absurd (hp.symm.trans hq) nofun⟩
    | some p =>
      obtain ⟨g, hg, hc⟩ := hcurrent.2 p hp
      obtain ⟨_, u, hu⟩ := assigned_fits ht' hl hp
      cases hsame : sameInputs s t p.segment with
      | true =>
        refine hkept fun m hm => ?_
        cases hl.symm.trans hm
        refine currentOk_iff.mpr ⟨fun hnone => absurd (hp.symm.trans hnone) nofun, fun q hq => ?_⟩
        cases hp.symm.trans hq
        exact ⟨u, hu, by rw [hc]; exact congrArg some (composedAt_of_sameInputs hsame hg hu l).symm⟩
      | false =>
        have hi : p.segment ∈ ls := by
          refine hperm.mem_iff.mpr (List.mem_filter.mpr ⟨?_, by rw [hsame]; rfl⟩)
          exact List.mem_map.mpr ⟨_, mem_of_tabGet hu, rfl⟩
        refine forEach_reaches (P := AssignedTo k p) (Q := fun v => CurrentAt v k) hi (fun i _ hv => hv.recomposeSeg i)
          (fun i _ _ hv => hv.recomposeSeg i) (fun v hv => ?_) ⟨ht, ht', l, hl, hp⟩
        obtain ⟨m, hm, hmp⟩ := hv.place
        exact currentAt_recomposeSeg hv.refs hm hmp

end Recomposed

end Sys2Proof.Machine
end

section
/-! SUPPORT. Every composition stays current (R125 to R127), act by act. -/

namespace Sys2Proof.Machine

section Current

variable {s t : State} {i k : Nat} {l : Luminaire}

/-- The tables, the references and the compositions: every assigned luminaire is composed as the records stand. -/
structure AllCurrent (s : State) : Prop where
  tables : TablesOk s
  refs : RefsOk s
  all : ∀ k, CurrentAt s k

/-- Where every segment composes alike, compositions stay current. -/
theorem CurrentAt.of_alike (h : CurrentAt s k) (hlum : lum? t k = lum? s k)
    (hseg : ∀ i g, seg? s i = some g → ∃ u, seg? t i = some u ∧ ∀ l p, p.segment = i → composedAt t u p l = composedAt s g p l) :
    CurrentAt t k := by
  intro l hl
  obtain ⟨hnone, hsome⟩ := currentOk_iff.mp (h l (hlum ▸ hl))
  refine currentOk_iff.mpr ⟨hnone, fun p hp => ?_⟩
  obtain ⟨g, hg, hc⟩ := hsome p hp
  obtain ⟨u, hu, hsame⟩ := hseg p.segment g hg
  exact ⟨u, hu, by rw [hc, hsame l p rfl]⟩

/-- A segment whose configuration, H, activity and effective cap stand composes as before. -/
theorem composedAt_alike {g u : Segment} (h : ComposesAlike g u) (hlist : t.overrides.records = s.overrides.records)
    (p : Place) (l : Luminaire) : composedAt t u p l = composedAt s g p l := by
  obtain ⟨hcfg, hh, hactivity, hcap⟩ := h
  rw [composedAt_list hlist]
  unfold composedAt requestedLevel activityLevel baseLevel
  rw [hcfg, hh, hactivity, hcap]

/-- Acts on the timers and the tallies compose alike. -/
theorem CurrentAt.of_map (h : CurrentAt s k) (hlum : t.lums = s.lums) (hlist : t.overrides = s.overrides)
    (hsegs : ∀ i g, seg? s i = some g → ∃ u, seg? t i = some u ∧ ComposesAlike g u) : CurrentAt t k := by
  refine h.of_alike (by rw [lum?, hlum]; rfl) fun i g hg => ?_
  obtain ⟨u, hu, halike⟩ := hsegs i g hg
  exact ⟨u, hu, fun l p _ => composedAt_alike halike (congrArg OverrideList.records hlist) p l⟩

theorem AllCurrent.quiet (h : AllCurrent s) (hact : RecordAct s t) (hquiet : Quiet s t) (k : Nat) : CurrentAt t k := by
  have hlums := hact.recordsOnly.fixtures.1
  refine (h.all k).of_alike (by rw [lum?, hlums]; rfl) fun i g hg => ?_
  obtain ⟨hsame, hkept⟩ := hquiet i
  obtain ⟨u, hu⟩ := Option.isSome_iff_exists.mp (hkept (by rw [hg]; rfl))
  refine ⟨u, hu, fun l p hp => ?_⟩
  subst hp
  exact composedAt_of_sameInputs hsame hg hu l

theorem AllCurrent.event (h : AllCurrent s) {f : State → State} (hacts : RecordActs s (f s)) :
    AllCurrent (event f s) := by
  obtain ⟨ht, hr⟩ := refsOk_keptByParts.event (f := f) (refsOk_keptByParts.recordActs hacts ⟨h.tables, h.refs⟩)
  obtain ⟨ht', hr'⟩ := refsOk_keptByParts.recordActs hacts ⟨h.tables, h.refs⟩
  exact ⟨ht, hr, settle_current h.all ht' hr' (recordActs_recordsOnly hacts).fixtures.1⟩

/-- R7 to R9: an amended luminaire is composed as the records stand, or has no composition. -/
theorem currentAt_amendLum {new : Luminaire} (h : AllCurrent s) (hl : lum? s k = some l)
    (hrefs : RefsOk (amendLum k l new s)) (j : Nat) : CurrentAt (amendLum k l new s) j := by
  unfold amendLum at hrefs ⊢
  split
  · exact h.all j
  · rename_i hnew
    rw [if_neg hnew] at hrefs
    have hother (u : Luminaire) (hj : j ≠ k) : CurrentAt (putLum k u s) j :=
      (h.all j).of_eq rfl rfl (lum?_putLum_ne u s hj)
    split
    · rename_i hnone
      have hsame (line : FixtureLine) := (putLine_lumsOnly (keyLine k) line (putLum k { new with composed := none } s)).records
      have hlum (j : Nat) : lum? (dropEntry k (putLum k { new with composed := none } s)) j
          = lum? (putLum k { new with composed := none } s) j := by rw [lum?, dropEntry_lums]; rfl
      by_cases hj : j = k
      · intro m hm
        rw [hj, hlum, lum?_putLum_self] at hm
        cases hm
        exact currentOk_iff.mpr ⟨fun _ => rfl, fun p hp => absurd (hnone.symm.trans hp) nofun⟩
      · exact (hother _ hj).of_eq (hsame _).1 (congrArg OverrideList.records (hsame _).2.1) (hlum j)
    · rename_i p hp
      simp only [hp] at hrefs
      by_cases hj : j = k
      · rw [hj]
        have hput := lum?_putLum_self k new s
        obtain ⟨m, hm, hmp⟩ := place_recomposeLum (tabWf_put h.tables.1 (h.tables.1.2 _ (mem_of_tabGet hl))) hput k
        obtain ⟨_, g, hg⟩ := assigned_fits hrefs hm (hmp.trans hp)
        rw [seg?, recomposeLum_segs] at hg
        exact currentAt_recomposed hput hp hg
      · exact (hother _ hj).recompose k

theorem FixtureAct.current (hact : FixtureAct s t) (h : AllCurrent s) : AllCurrent t := by
  obtain ⟨ht, hr⟩ := refsOk_keptByParts.fixture hact ⟨h.tables, h.refs⟩
  have hsame := hact.lumsOnly.records
  have hkept (hlums : ∀ k m, lum? t k = some m → ∃ l, lum? s k = some l ∧ SameComposition l m) (k : Nat) : CurrentAt t k :=
    (h.all k).of_same hsame.1 (congrArg OverrideList.records hsame.2.1) (hlums k)
  refine ⟨ht, hr, ?_⟩
  have hsends (hmoves : LumsBy SendMoves s t) (k : Nat) : CurrentAt t k := hkept (fun k m hm => by
    obtain ⟨l, hl, hlm⟩ := hmoves.get_some h.tables.1 hm
    exact ⟨l, hl, sendMoves_composition hlm⟩) k
  cases hact.lumsChange with
  | sends hmoves => exact hsends hmoves
  | enrolled f k hkey hnone heq =>
    intro j m hm
    rw [heq] at hm ⊢
    by_cases hj : j = k
    · rw [hj, lum?_putLum_self] at hm
      cases hm
      exact currentOk_iff.mpr ⟨fun _ => rfl, nofun⟩
    · rw [lum?_putLum_ne _ _ hj] at hm
      exact currentOk_congr (.refl m) rfl rfl (h.all j m hm)
  | amended f k l place hl hplace hfree heq =>
    rw [heq] at hr ⊢
    exact currentAt_amendLum h hl hr
  | retired k heq =>
    refine hkept fun j m hm => ⟨m, ?_, .refl m⟩
    rw [lum?, heq] at hm
    exact tabGet_of_mem h.tables.1.1 (mem_tabDel (mem_of_tabGet hm))

theorem seg?_map (f : Segment → Segment) (hsegs : t.segs = tabMap s.segs f) (i : Nat) (g : Segment)
    (hg : seg? s i = some g) : seg? t i = some (f g) := by
  rw [seg?, hsegs, tabGet_map, show tabGet s.segs i = some g from hg]
  rfl

/-- R133: every luminaire composed afresh is current. -/
theorem composeAll_current (hr : RefsOk s) (hnone : ∀ k l, lum? s k = some l → l.place = none → l.composed = none) (k : Nat) :
    CurrentAt (composeAll s) k := by
  intro m hm
  obtain ⟨l, hl, rfl⟩ := Option.map_eq_some_iff.mp ((tabGet_map s.lums (composeOnly s) k).symm.trans hm)
  have hl : lum? s k = some l := hl
  cases hp : l.place with
  | none =>
    have hkept : composeOnly s l = l := by rw [composeOnly, hp]
    rw [hkept]
    exact currentOk_iff.mpr ⟨fun _ => hnone k l hl hp, fun p hp' => absurd (hp.symm.trans hp') nofun⟩
  | some p =>
    obtain ⟨_, g, hg⟩ := assigned_fits hr hl hp
    have hnew : composeOnly s l = { l with composed := some (composedAt s g p l) } := by
      simp only [composeOnly, hp, hg]
      rfl
    rw [hnew]
    refine currentOk_iff.mpr ⟨fun hnone => absurd (hp.symm.trans hnone) nofun, fun q hq => ?_⟩
    cases hp.symm.trans hq
    exact ⟨g, hg, rfl⟩

theorem warmBlocks_unassigned (h : ∀ k, CurrentAt s k) (k : Nat) (m : Luminaire) (hm : lum? (warmBlocks s) k = some m)
    (hp : m.place = none) : m.composed = none := by
  obtain ⟨l, hl, rfl⟩ := Option.map_eq_some_iff.mp ((tabGet_map s.lums warmLum k).symm.trans hm)
  exact (currentOk_iff.mp (h k l hl)).1 hp

/-- R88, R133: the state of a warm reset with every luminaire composed afresh, before the lines are refreshed. -/
def warmComposed (s : State) : State := composeAll (raiseRow 4 (raiseRow 3 (raiseRow 2 (warmBlocks s))))

theorem warmReset_eq (s : State) : warmReset s = warmRefresh .b (warmRefresh .a (warmComposed s)) := rfl

theorem warmComposed_current (h : AllCurrent s) (k : Nat) : CurrentAt (warmComposed s) k := by
  have hraise (row : Nat) {u : State} (hu : (TablesOk u ∧ RefsOk u) ∧ u.lums = (warmBlocks s).lums) :
      (TablesOk (raiseRow row u) ∧ RefsOk (raiseRow row u)) ∧ (raiseRow row u).lums = (warmBlocks s).lums :=
    forEach_keeps (P := fun v => (TablesOk v ∧ RefsOk v) ∧ v.lums = (warmBlocks s).lums)
      (fun i _ v hv => ⟨refsOk_keptByParts.raiseOnce i hv.1, (raiseOnce_segsOnly i v).same.1.1.trans hv.2⟩) hu
  have hraised := hraise 4 (hraise 3 (hraise 2 ⟨refsOk_keptByParts.warmBlocks ⟨h.tables, h.refs⟩, rfl⟩))
  refine composeAll_current hraised.1.2 (fun k l hl => ?_) k
  rw [lum?, hraised.2] at hl
  exact warmBlocks_unassigned h.all k l hl

theorem warmRefresh_current (i : LineId) {u : State} (hu : ∀ k, CurrentAt u k) (k : Nat) : CurrentAt (warmRefresh i u) k := by
  unfold warmRefresh
  split
  · have hsame := (fullRefresh_lumsOnly i u).records
    exact (hu k).of_eq hsame.1 (congrArg OverrideList.records hsame.2.1) (by rw [lum?, fullRefresh_lums]; rfl)
  · exact hu k

theorem warmReset_current (h : AllCurrent s) : AllCurrent (warmReset s) := by
  obtain ⟨ht, hr⟩ := refsOk_keptByParts.act .warmReset ⟨h.tables, h.refs⟩
  exact ⟨ht, hr, warmRefresh_current .b (warmRefresh_current .a (warmComposed_current h))⟩

/-- R127: every act leaves every composition current. -/
theorem Act.current (hact : Act s t) (h : AllCurrent s) : AllCurrent t := by
  obtain ⟨ht, hr⟩ := refsOk_keptByParts.act hact ⟨h.tables, h.refs⟩
  cases hact with
  | event hacts => exact h.event hacts
  | quiet hrecord hquiet => exact ⟨ht, hr, h.quiet hrecord hquiet⟩
  | fixture hfixture => exact hfixture.current h
  | recapped c =>
    refine forEachFree_keeps (P := AllCurrent) (fun _ _ hu => ⟨hu.tables, hu.refs, fun k => (hu.all k).of_eq rfl rfl rfl⟩)
      (fun i _ u hu => hu.event (.single (.seg (.recapped i)))) (s := { s with composer := c }) ?_
    exact ⟨h.tables, h.refs, fun k => (h.all k).of_eq rfl rfl rfl⟩
  | ticked =>
    refine ⟨ht, hr, fun k => (h.all k).of_map rfl rfl fun i g hg => ⟨tickSeg g, ?_, rfl, rfl, rfl, rfl⟩⟩
    exact seg?_map tickSeg rfl i g hg
  | tallied =>
    refine ⟨ht, hr, fun k => (h.all k).of_map rfl rfl fun i g hg => ?_⟩
    have hsome := (addTallies_by s).isSome h.tables.2.1 i
    rw [show tabGet s.segs i = some g from hg] at hsome
    obtain ⟨u, hu⟩ := Option.isSome_iff_exists.mp hsome
    obtain ⟨g', hg', n, _, rfl⟩ := (addTallies_by s).get_some h.tables.2.1 hu
    cases hg.symm.trans hg'
    exact ⟨_, hu, rfl, rfl, rfl, rfl⟩
  | warmReset => exact warmReset_current h
  | coldReset low => exact ⟨ht, hr, fun k l hl => absurd hl nofun⟩
  | _ => exact ⟨ht, hr, fun k => (h.all k).of_eq rfl rfl rfl⟩

/-- Settles O21, by the recompositions at the end of every event. -/
theorem compositionStaysCurrent : Obligations.CompositionStaysCurrent := by
  rintro s t ⟨htables, hrefs⟩ hcurrent hstep
  have hkept : KeptByStep AllCurrent :=
    keptByStep_of_acts (fun _ _ h => ⟨h.tables, h.refs, fun k => (h.all k).of_eq rfl rfl rfl⟩) fun _ _ h => h.current
  have ht := hkept s t ⟨htables, hrefs, (currentOk_all_iff htables.1).mp hcurrent⟩ hstep
  exact (currentOk_all_iff ht.tables.1).mpr ht.all

end Current

end Sys2Proof.Machine
end

section
/-! SUPPORT. What a line has sent or is about to send to a luminaire ends with its composed code (R128, R136, R141, R148). -/

namespace Sys2Proof.Machine

/-! ## The code that a line promises -/

section Line

variable {line : FixtureLine} {k j code : Nat} {l m : Luminaire}

/-- The code of the first entry for a luminaire in a level queue. -/
def queuedCode (q : List QueueEntry) (k : Nat) : Option Nat := (q.find? fun e => e.key == k).map (·.code)

/-- The code of a LEVEL frame that flies to a luminaire. -/
def flyingCode (f : Option FixtureFlight) (k : Nat) : Option Nat :=
  f.bind fun f => if f.key = k ∧ f.retired = false then f.levelCode else none

theorem promisedCode_eq (line : FixtureLine) (k : Nat) (l : Luminaire) :
    promisedCode line k l =
      (queuedCode line.queue k).orElse fun _ => (flyingCode line.flight k).orElse fun _ => l.sentCode := rfl

/-- The promise depends on the queue, the frame in flight and the sent code alone. -/
theorem promisedCode_congr {line' : FixtureLine} (hqueue : queuedCode line'.queue k = queuedCode line.queue k)
    (hflight : flyingCode line'.flight k = flyingCode line.flight k) (hsent : m.sentCode = l.sentCode) :
    promisedCode line' k m = promisedCode line k l := by
  rw [promisedCode_eq, promisedCode_eq, hqueue, hflight, hsent]

theorem queuedCode_cons (e : QueueEntry) (q : List QueueEntry) (k : Nat) :
    queuedCode (e :: q) k = if e.key = k then some e.code else queuedCode q k := by
  unfold queuedCode
  by_cases h : e.key = k <;> simp [h]

theorem queuedCode_none {q : List QueueEntry} (h : k ∉ q.map (·.key)) : queuedCode q k = none := by
  induction q with
  | nil => rfl
  | cons e q ih =>
    rw [List.map_cons, List.mem_cons, not_or] at h
    rw [queuedCode_cons, if_neg (Ne.symm h.1), ih h.2]

/-- R140: the arbiter's choice changes no promise. -/
theorem promisedCode_choose (h : (line.queue.map (·.key)).Nodup) (k : Nat) (l : Luminaire) :
    promisedCode (chooseFrame line) k l = promisedCode line k l := by
  unfold chooseFrame
  split
  · rename_i hidle
    obtain ⟨_, hflight, _⟩ := hidle
    split
    · rename_i e q heq
      rw [promisedCode_eq, promisedCode_eq, heq, hflight, queuedCode_cons]
      rw [heq, List.map_cons, List.nodup_cons] at h
      by_cases hk : e.key = k
      · rw [if_pos hk, queuedCode_none (hk ▸ h.1)]
        simp [flyingCode, hk, FixtureFlight.levelCode]
      · rw [if_neg hk]
        simp [flyingCode, hk]
    · refine promisedCode_congr rfl ?_ rfl
      rw [hflight]
      simp [flyingCode, FixtureFlight.levelCode]
    · refine promisedCode_congr rfl ?_ rfl
      rw [hflight]
      simp [flyingCode, FixtureFlight.levelCode]
    · rfl
  · rfl

/-- R136: an entry that joins gives its luminaire its code, and changes no other promise. -/
theorem queuedCode_coalesce (q : List QueueEntry) (k code j : Nat) :
    queuedCode (coalesce q k code) j = if j = k then some code else queuedCode q j := by
  have hmap (q : List QueueEntry) : queuedCode (q.map fun e => if e.key == k then { e with code := code } else e) j
      = if j = k then (if k ∈ q.map (·.key) then some code else none) else queuedCode q j := by
    induction q with
    | nil => simp [queuedCode]
    | cons e q ih =>
      rw [List.map_cons, queuedCode_cons, ih, queuedCode_cons]
      by_cases he : e.key = k <;> by_cases hj : j = k
      · simp [he, hj]
      · simp [he, hj, Ne.symm hj]
      · simp [he, hj, Ne.symm he]
      · simp [he, hj]
  unfold coalesce
  split
  · rename_i hmem
    rw [hmap]
    obtain ⟨e, he, hek⟩ := List.any_eq_true.mp hmem
    have hkeys : k ∈ q.map (·.key) := List.mem_map.mpr ⟨e, he, beq_iff_eq.mp hek⟩
    rw [if_pos hkeys]
  · rename_i hnew
    have hkeys : k ∉ q.map (·.key) := fun hmem => by
      obtain ⟨e, he, hek⟩ := List.mem_map.mp hmem
      exact hnew (List.any_eq_true.mpr ⟨e, he, beq_iff_eq.mpr hek⟩)
    have happend : queuedCode (q ++ [⟨k, code⟩]) j = (queuedCode q j).orElse fun _ => if k = j then some code else none := by
      unfold queuedCode
      rw [List.find?_append]
      cases q.find? fun e => e.key == j with
      | some e => rfl
      | none => by_cases hk : k = j <;> simp [hk]
    rw [happend]
    by_cases hj : j = k
    · rw [hj, queuedCode_none hkeys]
      simp
    · rw [if_neg (Ne.symm hj), if_neg hj]
      cases queuedCode q j <;> rfl

theorem queuedCode_filter (q : List QueueEntry) (h : j ≠ k) : queuedCode (q.filter fun e => e.key != k) j = queuedCode q j := by
  induction q with
  | nil => rfl
  | cons e q ih =>
    rw [List.filter_cons, queuedCode_cons]
    by_cases he : e.key = k
    · rw [if_neg (by simp [he]), ih, if_neg (by rw [he]; exact Ne.symm h)]
    · rw [if_pos (by simp [he]), queuedCode_cons, ih]

end Line

/-! ## The promise of a luminaire's line -/

/-- R128: on a RUNNING line, an assigned luminaire is promised its composed code. -/
def DeliveredAt (s : State) (k : Nat) : Prop :=
  ∀ l, lum? s k = some l → l.place ≠ none → (lineOf (keyLine k) s).state = .running →
    promisedCode (lineOf (keyLine k) s) k l = l.composed.map (·.code)

section Delivered

variable {s t : State} {i : LineId} {k j : Nat} {l m : Luminaire} {line : FixtureLine}

theorem deliveredOk_iff : deliveredOk s k l = true ↔
    (l.place ≠ none → (lineOf (keyLine k) s).state = .running →
      promisedCode (lineOf (keyLine k) s) k l = l.composed.map (·.code)) := by
  unfold deliveredOk
  cases hplace : l.place <;> cases hstate : (lineOf (keyLine k) s).state <;> simp

theorem deliveryOk_iff (ht : tabWf 128 s.lums) : DeliveryOk s ↔ ∀ k, DeliveredAt s k :=
  ⟨fun h k l hl => deliveredOk_iff.mp (h (k, l) (mem_of_tabGet hl)),
    fun h e he => deliveredOk_iff.mpr (h e.1 e.2 (tabGet_of_mem ht.1 he))⟩

/-- What a hand-over reads and sets of a luminaire's record stands. -/
structure SameDelivery (l m : Luminaire) : Prop where
  place : m.place = l.place
  composed : m.composed = l.composed
  sentCode : m.sentCode = l.sentCode

theorem DeliveredAt.of_same (h : DeliveredAt s k) (hlum : ∀ m, lum? t k = some m → ∃ l, lum? s k = some l ∧ SameDelivery l m)
    (hstate : (lineOf (keyLine k) t).state = .running → (lineOf (keyLine k) s).state = .running)
    (hpromise : ∀ l, promisedCode (lineOf (keyLine k) t) k l = promisedCode (lineOf (keyLine k) s) k l) : DeliveredAt t k := by
  intro m hm hplace hup
  obtain ⟨l, hl, hsame⟩ := hlum m hm
  rw [hpromise, hsame.composed, ← h l hl (hsame.place ▸ hplace) (hstate hup)]
  exact promisedCode_congr rfl rfl hsame.sentCode

theorem DeliveredAt.of_eq (h : DeliveredAt s k) (hlum : lum? t k = lum? s k) (hline : lineOf (keyLine k) t = lineOf (keyLine k) s) :
    DeliveredAt t k :=
  h.of_same (fun m hm => ⟨m, hlum ▸ hm, rfl, rfl, rfl⟩) (fun hup => by rw [← hline]; exact hup) fun l => by rw [hline]

theorem DeliveredAt.sameFixtures (h : DeliveredAt s k) (hsame : SameFixtures s t) : DeliveredAt t k := by
  obtain ⟨hlums, ha, hb⟩ := hsame
  refine h.of_eq (by rw [lum?, hlums]; rfl) ?_
  cases keyLine k <;> assumption

/-- A line put whose state and promises stand. -/
theorem DeliveredAt.putLine (h : DeliveredAt s k) (hstate : line.state = .running → (lineOf i s).state = .running)
    (hpromise : keyLine k = i → ∀ l, promisedCode line k l = promisedCode (lineOf i s) k l) : DeliveredAt (putLine i line s) k := by
  by_cases hi : keyLine k = i
  · subst hi
    refine h.of_same (fun m hm => ⟨m, by simpa using hm, rfl, rfl, rfl⟩) (fun hup => hstate (by simpa using hup)) fun l => ?_
    rw [lineOf_putLine_self, hpromise rfl]
  · exact h.of_eq (lum?_putLine i line s k) (lineOf_putLine_ne hi line s)

/-- A line put with the state, the queue and the frame in flight that it had. -/
theorem DeliveredAt.putAlike (h : DeliveredAt s k) (hstate : line.state = (lineOf i s).state)
    (hqueue : line.queue = (lineOf i s).queue) (hflight : line.flight = (lineOf i s).flight) : DeliveredAt (Machine.putLine i line s) k :=
  h.putLine (fun hup => hstate ▸ hup) fun _ _ => promisedCode_congr (by rw [hqueue]) (by rw [hflight]) rfl

/-- A luminaire's record put that is promised what it was. -/
theorem DeliveredAt.putLum (h : DeliveredAt s j) (hl : lum? s k = some l) (hsame : SameDelivery l m) : DeliveredAt (putLum k m s) j := by
  refine h.of_same (fun x hx => ?_) (fun hup => by simpa using hup) fun _ => by rw [lineOf_putLum]
  by_cases hj : j = k
  · rw [hj, lum?_putLum_self] at hx
    cases hx
    exact ⟨l, hj ▸ hl, hsame⟩
  · rw [lum?_putLum_ne _ _ hj] at hx
    exact ⟨x, hx, rfl, rfl, rfl⟩

theorem DeliveredAt.arbitrate (h : DeliveredAt s k) (i : LineId) (hs : ((lineOf i s).queue.map (·.key)).Nodup) :
    DeliveredAt (arbitrate i s) k :=
  h.putLine (fun hup => (chooseFrame_state _).symm.trans hup) fun _ _ => promisedCode_choose hs k _

/-- R136: the entry of one luminaire is no other's. -/
theorem DeliveredAt.enqueue_ne (h : DeliveredAt s j) (hj : j ≠ k) (code : Nat) : DeliveredAt (enqueue k code s) j := by
  rw [enqueue_eq]
  refine h.putLine id fun _ _ => promisedCode_congr ?_ rfl rfl
  split
  · rw [queuedCode_coalesce, if_neg hj]
  · rfl

/-- R128, R136: a luminaire whose composed code joins the queue is promised it. -/
theorem deliveredAt_enqueue {c : Composed} (hl : lum? s k = some l) (hc : l.composed = some c) :
    DeliveredAt (enqueue k c.code s) k := by
  rw [enqueue_eq]
  intro m hm _ hup
  rw [lum?_putLine, hl] at hm
  cases hm
  rw [lineOf_putLine_self] at hup ⊢
  have hup : (lineOf (keyLine k) s).state = .running := hup
  rw [promisedCode_eq, hc]
  simp only [if_pos hup]
  rw [queuedCode_coalesce, if_pos rfl]
  rfl

/-- R136: a composed code that joins the queue again. -/
theorem DeliveredAt.enqueue {c : Composed} (h : DeliveredAt s j) (hl : lum? s k = some l) (hc : l.composed = some c) :
    DeliveredAt (Machine.enqueue k c.code s) j := by
  by_cases hj : j = k
  · rw [hj]
    exact deliveredAt_enqueue hl hc
  · exact h.enqueue_ne hj _

/-! ## Recompositions and amendments -/

/-- R128, R136: a RUNNING line to which a code is handed promises it to its luminaire, and to the others what it did. -/
theorem promisedCode_handedLine {aw : Prop} (hs : LinesFit aw s) (hk : (lum? s k).isSome = true)
    (hup : (lineOf (keyLine k) s).state = .running) (code j : Nat) (l : Luminaire) :
    promisedCode (handedLine (lineOf (keyLine k) s) k code) j l
      = if j = k then some code else promisedCode (lineOf (keyLine k) s) j l := by
  have hqueued := ((hs (keyLine k)).queued (enrolledAt_iff.mpr ⟨rfl, hk⟩) hup code).queueNodup
  rw [handedLine, if_pos hup, promisedCode_choose hqueued, promisedCode_eq, promisedCode_eq]
  simp only
  rw [queuedCode_coalesce]
  split <;> rfl

theorem handedLine_state (line : FixtureLine) (k code : Nat) : (handedLine line k code).state = line.state :=
  chooseFrame_state _

/-- R127, R128: a luminaire recomposed from a promise that stands, or from no composition, is promised its composed code. -/
theorem deliveredAt_recomposed {aw : Prop} {p : Place} {g : Segment} (hs : LinesFit aw s) (hl : lum? s k = some l)
    (hp : l.place = some p) (hg : seg? s p.segment = some g) (h : l.composed ≠ none → DeliveredAt s k) :
    DeliveredAt (recomposeLum k s) k := by
  rw [recomposeLum_eq hl hp hg]
  generalize composedAt s g p l = c
  split
  · intro m hm _ hup
    rw [lum?_putLine, lum?_putLum_self] at hm
    cases hm
    rw [lineOf_putLine_self, handedLine_state] at hup
    rw [lineOf_putLine_self, promisedCode_handedLine hs (by rw [hl]; rfl) hup, if_pos rfl]
    rfl
  · rename_i hkept
    have hsame : l.composed.map (·.code) = some c.code := not_not.mp hkept
    intro m hm hplace hup
    rw [lum?_putLum_self] at hm
    cases hm
    rw [lineOf_putLum] at hup ⊢
    have hbefore := h (fun hnone => by rw [hnone] at hsame; cases hsame) l hl hplace hup
    exact (promisedCode_congr rfl rfl rfl).trans (hbefore.trans hsame)

/-- R136: a code handed to one luminaire's line leaves the promises to the others. -/
theorem promisedCode_handedLine_ne {aw : Prop} (hs : LinesFit aw s) (hk : (lum? s k).isSome = true) (hj : j ≠ k)
    (code : Nat) (l : Luminaire) :
    promisedCode (handedLine (lineOf (keyLine k) s) k code) j l = promisedCode (lineOf (keyLine k) s) j l := by
  by_cases hup : (lineOf (keyLine k) s).state = .running
  · rw [promisedCode_handedLine hs hk hup, if_neg hj]
  · rw [handedLine, if_neg hup, promisedCode_choose (hs (keyLine k)).queueNodup]

theorem DeliveredAt.putLum_ne (h : DeliveredAt s j) (hj : j ≠ k) (m : Luminaire) : DeliveredAt (Machine.putLum k m s) j :=
  h.of_eq (lum?_putLum_ne m s hj) (lineOf_putLum _ _ _ _)

/-- R127, R128: a recomposition keeps the promise of every luminaire. -/
theorem DeliveredAt.recompose {aw : Prop} (h : DeliveredAt s j) (hs : LinesFit aw s) (k : Nat) : DeliveredAt (recomposeLum k s) j := by
  cases hl : lum? s k with
  | none =>
    rw [recomposeLum, onLum_none hl]
    exact h
  | some l =>
    cases hp : l.place with
    | none =>
      rw [recomposeLum_unassigned hl hp]
      exact h
    | some p =>
      cases hg : seg? s p.segment with
      | none =>
        rw [recomposeLum, onLum_some hl]
        simp only [hp]
        rw [onSeg_none hg]
        exact h
      | some g =>
        by_cases hj : j = k
        · subst hj
          exact deliveredAt_recomposed hs hl hp hg fun _ => h
        · rw [recomposeLum_eq hl hp hg]
          split
          · refine (h.putLum_ne hj _).putLine (fun hup => ?_) fun _ m => ?_
            · rwa [handedLine_state, ← lineOf_putLum] at hup
            · rw [promisedCode_handedLine_ne hs (by rw [hl]; rfl) hj, lineOf_putLum]
          · exact h.putLum_ne hj _

end Delivered

end Sys2Proof.Machine
end

section
/-! SUPPORT. Every assigned luminaire of a RUNNING line stays promised its composed code (R128), act by act. -/

namespace Sys2Proof.Machine

section Delivery

variable {aw : Prop} {s t : State} {i : LineId} {k j : Nat} {l m : Luminaire} {line : FixtureLine}

/-- No record, no promise. -/
theorem deliveredAt_of_none (h : lum? s k = none) : DeliveredAt s k := fun _ hl => absurd (h.symm.trans hl) nofun

/-- R9: an unassigned luminaire is promised nothing. -/
theorem deliveredAt_of_unassigned (h : ∀ l, lum? s k = some l → l.place = none) : DeliveredAt s k :=
  fun l hl hplace => absurd (h l hl) hplace

theorem DeliveredAt.joinConfirm (h : DeliveredAt s j) (i : LineId) (k : Nat) : DeliveredAt (joinConfirm i k s) j := by
  unfold Machine.joinConfirm
  dsimp only
  split
  · exact h
  · exact h.putAlike rfl rfl rfl

/-! ## Frames that end -/

/-- The code that a frame in flight carries to a live luminaire is the frame's own. -/
theorem flyingCode_some {f : FixtureFlight} (hflight : line.flight = some f) (j : Nat) :
    flyingCode line.flight j = if f.key = j ∧ f.retired = false then f.levelCode else none := by
  rw [hflight]
  rfl

/-- R134, R146: the end of a frame that carries no code to a luminaire leaves its promise. -/
theorem DeliveredAt.clearFlight (h : DeliveredAt s j) (i : LineId) (hdead : keyLine j = i → flyingCode (lineOf i s).flight j = none) :
    DeliveredAt (clearFlight i s) j :=
  h.putLine id fun hi _ => promisedCode_congr rfl (hdead hi).symm rfl

/-- R141: a LEVEL frame that ends leaves its code as the sent one. -/
theorem DeliveredAt.levelEnded {code : Nat} {retired : Bool} (h : DeliveredAt s j)
    (hflight : (lineOf i s).flight = some ⟨.level code, k, retired⟩) (hk : keyLine k = i) :
    DeliveredAt (levelEnded i code k retired (Machine.clearFlight i s)) j := by
  have hflying := flyingCode_some hflight j
  unfold Machine.levelEnded
  split
  · rename_i hretired
    exact h.clearFlight i fun _ => by rw [hflying, if_neg (fun hlive => by simp [hretired] at hlive)]
  · rename_i hlive
    by_cases hj : j = k
    · subst hj
      rw [if_pos ⟨rfl, Bool.eq_false_iff.mpr hlive⟩] at hflying
      cases hl : lum? s j with
      | none =>
        have hnone : lum? (Machine.clearFlight i s) j = none := by rw [lum?_clearFlight, hl]
        rw [onLum_none hnone]
        exact deliveredAt_of_none hnone
      | some l =>
        rw [onLum_some ((lum?_clearFlight i s j).trans hl)]
        have hsent : DeliveredAt
            (Machine.putLum j { l with sentCode := some code, confirmation := .awaiting } (Machine.clearFlight i s)) j := by
          intro m hm hplace hup
          rw [lum?_putLum_self] at hm
          cases hm
          rw [lineOf_putLum, hk, lineOf_clearFlight] at hup ⊢
          have hbefore := h l hl hplace (by rw [hk]; exact hup)
          rw [hk, promisedCode_eq, hflying] at hbefore
          exact hbefore
        dsimp only
        split
        · exact hsent
        · exact hsent.joinConfirm i j
    · rw [if_neg fun hkey => hj hkey.1.symm] at hflying
      have hcleared := h.clearFlight i fun _ => hflying
      refine onLum_rel (R := fun _ t => DeliveredAt t j) hcleared fun m _ => ?_
      dsimp only
      split
      · exact hcleared.putLum_ne hj _
      · exact (hcleared.putLum_ne hj _).joinConfirm i k

/-- R134: a QUERY carries no code. -/
theorem DeliveredAt.clearQuery {kind : FrameKind} {retired : Bool} (h : DeliveredAt s j)
    (hflight : (lineOf i s).flight = some ⟨kind, k, retired⟩) (hkind : ∀ code, kind ≠ .level code) :
    DeliveredAt (Machine.clearFlight i s) j := by
  refine h.clearFlight i fun _ => ?_
  rw [flyingCode_some hflight]
  split
  · cases kind with
    | level code => exact absurd rfl (hkind code)
    | confirmQuery => rfl
    | scanQuery => rfl
  · rfl

theorem settleConfirmation_sentCode (echo : Nat) (l : Luminaire) : (settleConfirmation echo l).1.sentCode = l.sentCode := by
  unfold settleConfirmation
  dsimp only
  (repeat' split) <;> rfl

/-- R142 to R145: a reply leaves the assignment, the composition and the sent code. -/
theorem heard_sameDelivery (d : DriverReply) (l : Luminaire) :
    SameDelivery l (flagLumChange l (settleConfirmation d.echo (heardFrom d l)).1) := by
  have hsame := (SendMove.heard (l := l) d).composition
  refine ⟨hsame.place, hsame.composed, ?_⟩
  rw [flagLumChange]
  exact settleConfirmation_sentCode d.echo (heardFrom d l)

/-- R143: a code sent again is the composed one. -/
theorem DeliveredAt.replied (h : DeliveredAt s j) (i : LineId) (k : Nat) (d : DriverReply) : DeliveredAt (replied i k d s) j := by
  refine onLum_rel (R := fun _ t => DeliveredAt t j) h fun l hl => ?_
  dsimp only
  have hput := h.putLum hl (heard_sameDelivery d l)
  have hsettled : DeliveredAt
      (if (settleConfirmation d.echo (heardFrom d l)).1.confirmation = .confirmed then
        leaveConfirm i k (Machine.putLum k (flagLumChange l (settleConfirmation d.echo (heardFrom d l)).1) s)
      else Machine.putLum k (flagLumChange l (settleConfirmation d.echo (heardFrom d l)).1) s) j := by
    split
    · exact hput.putAlike rfl rfl rfl
    · exact hput
  split
  · rename_i c _ hc
    refine hsettled.enqueue (l := flagLumChange l (settleConfirmation d.echo (heardFrom d l)).1) ?_
      ((heard_sameDelivery d l).composed.trans hc)
    split <;> simp [leaveConfirm]
  · exact hsettled

theorem DeliveredAt.queryMissed (h : DeliveredAt s j) (i : LineId) (kind : FrameKind) (k : Nat) :
    DeliveredAt (queryMissed i kind k s) j := by
  refine onLum_rel (R := fun _ t => DeliveredAt t j) h fun l hl => ?_
  have hput := h.putLum (m := unanswered l) hl ⟨rfl, rfl, rfl⟩
  dsimp only
  split
  · exact hput.joinConfirm i k
  · exact hput

/-! ## Lines that go DOWN and recover -/

/-- R147: the luminaires of a DOWN line are promised nothing; those of the other line what they were. -/
theorem DeliveredAt.goDown (h : DeliveredAt s j) (i : LineId) : DeliveredAt (goDown i s) j := by
  unfold Machine.goDown
  by_cases hj : keyLine j = i
  · intro l _ _ hup
    rw [lineOf_flagFloor, hj, lineOf_putLine_self] at hup
    cases hup
  · have hlost : lum? (forEach (enrolledOn i s) (fun k => onLum k fun l => Machine.putLum k (lumDown l)) s) j = lum? s j
        ∧ lineOf (keyLine j) (forEach (enrolledOn i s) (fun k => onLum k fun l => Machine.putLum k (lumDown l)) s)
          = lineOf (keyLine j) s := by
      refine forEach_keeps (P := fun u => lum? u j = lum? s j ∧ lineOf (keyLine j) u = lineOf (keyLine j) s)
        (fun k hk u hu => ?_) ⟨rfl, rfl⟩
      refine onLum_rel (R := fun _ v => lum? v j = lum? s j ∧ lineOf (keyLine j) v = lineOf (keyLine j) s) hu fun m _ => ?_
      have hjk : j ≠ k := fun heq => hj (heq ▸ (enrolledAt_iff.mp (enrolledAt_of_mem hk)).1)
      exact ⟨(lum?_putLum_ne _ _ hjk).trans hu.1, (lineOf_putLum _ _ _ _).trans hu.2⟩
    refine h.of_eq ?_ ?_
    · rw [← hlost.1]
      exact lum?_putLine i _ _ j
    · rw [lineOf_flagFloor, lineOf_putLine_ne hj, hlost.2]

/-- R148: what a full refresh makes of one luminaire. -/
def refreshOne (k : Nat) (s : State) : State :=
  onLum k (fun l t => match l.place, l.composed with
    | some _, some c => enqueue k c.code t
    | _, _ => t) s

theorem fullRefresh_eq (i : LineId) (s : State) : fullRefresh i s = arbitrate i (forEach (enrolledOn i s) refreshOne s) := by
  have hone (l : Luminaire) (k : Nat) (t : State) :
      (match l.place, l.composed with
        | some _, some c => enqueue k c.code
        | _, _ => id) t
      = (match l.place, l.composed with
        | some _, some c => enqueue k c.code t
        | _, _ => t) := by
    cases l.place <;> cases l.composed <;> rfl
  unfold fullRefresh
  congr 2
  funext k t
  unfold refreshOne
  congr 1
  funext l u
  exact hone l k u

/-- A luminaire either joins the queue with its composed code, or nothing happens. -/
theorem refreshOne_rel {R : State → Prop} (hs : R s)
    (h : ∀ l c, lum? s k = some l → l.composed = some c → R (enqueue k c.code s)) : R (refreshOne k s) := by
  refine onLum_rel (R := fun _ t => R t) hs fun l hl => ?_
  split
  · rename_i hc
    exact h l _ hl hc
  · exact hs

theorem DeliveredAt.refreshOne (h : DeliveredAt s j) (k : Nat) : DeliveredAt (refreshOne k s) j :=
  refreshOne_rel (R := fun t => DeliveredAt t j) h fun _ _ hl hc => h.enqueue hl hc

theorem LinesFit.refreshOne (h : LinesFit aw s) (k : Nat) : LinesFit aw (refreshOne k s) :=
  refreshOne_rel h fun _ _ hl _ => h.enqueue (by rw [hl]; rfl) _

theorem refreshOne_lum? (k j : Nat) (s : State) : lum? (refreshOne k s) j = lum? s j :=
  refreshOne_rel (R := fun t => lum? t j = lum? s j) rfl fun _ _ _ _ => by
    rw [lum?, enqueue_lums]
    rfl

/-- R148: a full refresh keeps every promise that stands. -/
theorem DeliveredAt.fullRefresh (h : DeliveredAt s j) (hs : LinesFit False s) (i : LineId) : DeliveredAt (fullRefresh i s) j := by
  rw [fullRefresh_eq]
  obtain ⟨hlines, hdelivered⟩ := forEach_keeps (P := fun u => LinesFit False u ∧ DeliveredAt u j) (ks := enrolledOn i s)
    (fun k _ _ hu => ⟨hu.1.refreshOne k, hu.2.refreshOne k⟩) ⟨hs, h⟩
  exact hdelivered.arbitrate i (hlines i).queueNodup

/-- R148: a full refresh promises the composed code to every assigned luminaire of the line. -/
theorem deliveredAt_fullRefresh (hs : LinesFit False s) (hc : ∀ l, lum? s j = some l → l.place ≠ none → l.composed ≠ none)
    (hj : keyLine j = i) : DeliveredAt (fullRefresh i s) j := by
  cases hl : lum? s j with
  | none => exact deliveredAt_of_none (by rw [lum?, fullRefresh_lums]; exact hl)
  | some l =>
    cases hp : l.place with
    | none =>
      refine deliveredAt_of_unassigned fun m hm => ?_
      rw [lum?, fullRefresh_lums] at hm
      cases hl.symm.trans hm
      exact hp
    | some p =>
      obtain ⟨c, hcomposed⟩ := Option.ne_none_iff_exists'.mp (hc l hl (by rw [hp]; nofun))
      have hon : j ∈ enrolledOn i s := List.mem_filter.mpr
        ⟨tabGet_isSome_iff.mp (show (lum? s j).isSome = true by rw [hl]; rfl), beq_iff_eq.mpr hj⟩
      have hkept (k : Nat) (u : State) (hu : LinesFit False u ∧ lum? u j = some l) := And.intro (hu.1.refreshOne k)
        ((refreshOne_lum? k j u).trans hu.2)
      rw [fullRefresh_eq]
      have hlines := forEach_keeps (P := fun u => LinesFit False u ∧ lum? u j = some l) (ks := enrolledOn i s)
        (fun k _ u hu => hkept k u hu) ⟨hs, hl⟩
      refine DeliveredAt.arbitrate ?_ i (hlines.1 i).queueNodup
      refine forEach_reaches (P := fun u => LinesFit False u ∧ lum? u j = some l) (Q := fun u => DeliveredAt u j) hon hkept
        (fun k u _ hq => hq.refreshOne k) (fun u hu => ?_) ⟨hs, hl⟩
      rw [Machine.refreshOne, onLum_some hu.2]
      simp only [hp, hcomposed]
      exact deliveredAt_enqueue hu.2 hcomposed

/-! ## Records that come, change and go -/

theorem DeliveredAt.dropEntry (h : DeliveredAt s j) (hj : j ≠ k) : DeliveredAt (dropEntry k s) j :=
  h.putLine id fun _ _ => promisedCode_congr (queuedCode_filter _ hj) rfl rfl

/-- R10, R146: a luminaire forgotten is no other's. -/
theorem DeliveredAt.forgetLum (h : DeliveredAt s j) (hj : j ≠ k) : DeliveredAt (forgetLum k s) j := by
  refine h.putLine id fun _ _ => promisedCode_congr (queuedCode_filter _ hj) ?_ rfl
  dsimp only
  cases hflight : (lineOf (keyLine k) s).flight with
  | none => rfl
  | some f =>
    by_cases hkey : f.key = k
    · simp [flyingCode, hkey, Ne.symm hj]
    · simp [flyingCode, hkey]

/-- R7 to R9: an amended luminaire is promised its composed code; the others keep their promises. -/
theorem deliveredAt_amendLum {old new : Luminaire} (hs : LinesFit False s) (hdelivered : ∀ k, DeliveredAt s k)
    (hcurrent : CurrentAt s k) (hold : lum? s k = some old) (hcomposed : new.composed = old.composed)
    (hsent : new.sentCode = old.sentCode) (hconfirmation : new.confirmation = old.confirmation)
    (hseg : ∀ p, new.place = some p → (seg? s p.segment).isSome = true) (j : Nat) : DeliveredAt (amendLum k old new s) j := by
  unfold amendLum
  split
  · exact hdelivered j
  · split
    · rename_i hnone
      by_cases hj : j = k
      · subst hj
        refine deliveredAt_of_unassigned fun m hm => ?_
        rw [lum?, dropEntry_lums] at hm
        cases (lum?_putLum_self j _ s).symm.trans hm
        exact hnone
      · exact ((hdelivered j).putLum_ne hj _).dropEntry hj
    · rename_i p hp
      have hlines : LinesFit False (Machine.putLum k new s) := hs.putLum hold fun _ ho => hconfirmation.trans ho
      by_cases hj : j = k
      · subst hj
        obtain ⟨g, hg⟩ := Option.isSome_iff_exists.mp (hseg p hp)
        refine deliveredAt_recomposed hlines (lum?_putLum_self j new s) hp hg fun hsome m hm _ hup => ?_
        rw [lum?_putLum_self] at hm
        cases hm
        rw [lineOf_putLum] at hup ⊢
        have hplace : old.place ≠ none := fun hnone =>
          hsome (hcomposed.trans ((currentOk_iff.mp (hcurrent old hold)).1 hnone))
        rw [hcomposed, ← hdelivered j old hold hplace hup]
        exact promisedCode_congr rfl rfl hsent
      · exact ((hdelivered j).putLum_ne hj new).recompose hlines k

/-! ## Every act -/

/-- The laws of the lines, and every promise. -/
structure AllDelivered (s : State) : Prop where
  lines : LinesFit False s
  all : ∀ k, DeliveredAt s k

theorem AllDelivered.sameFixtures (h : AllDelivered s) (hsame : SameFixtures s t) : AllDelivered t :=
  ⟨h.lines.sameFixtures hsame, fun k => (h.all k).sameFixtures hsame⟩

theorem AllDelivered.recompose (h : AllDelivered s) (k : Nat) : AllDelivered (recomposeLum k s) :=
  ⟨h.lines.recomposeLum k, fun j => (h.all j).recompose h.lines k⟩

theorem AllDelivered.event (h : AllDelivered s) {f : State → State} (hacts : RecordActs s (f s)) : AllDelivered (event f s) :=
  settle_keeps (fun k _ hu => hu.recompose k) (fun _ hu => hu.sameFixtures ⟨rfl, rfl, rfl⟩)
    (h.sameFixtures (recordActs_recordsOnly hacts).fixtures)

/-- R128: what every assigned luminaire has: a composition. -/
theorem composed_of_currentAt (h : CurrentAt s k) (l : Luminaire) (hl : lum? s k = some l) (hplace : l.place ≠ none) :
    l.composed ≠ none := by
  obtain ⟨p, hp⟩ := Option.ne_none_iff_exists'.mp hplace
  obtain ⟨g, _, hc⟩ := (currentOk_iff.mp (h l hl)).2 p hp
  rw [hc]
  nofun

theorem FixtureAct.delivered (hact : FixtureAct s t) (hcurrent : AllCurrent s) (h : AllDelivered s) : AllDelivered t := by
  refine ⟨hact.linesFit h.lines, fun j => ?_⟩
  have harbitrate {i : LineId} {u : State} (hu : LinesFit False u) (hj : DeliveredAt u j) : DeliveredAt (arbitrate i u) j :=
    hj.arbitrate i (hu i).queueNodup
  have harbitrated {i : LineId} {line : FixtureLine} (hstate : line.state = (lineOf i s).state)
      (hqueue : line.queue = (lineOf i s).queue) (hflight : line.flight = (lineOf i s).flight) :
      DeliveredAt (arbitrate i (putLine i line s)) j := by
    refine ((h.all j).putAlike hstate hqueue hflight).arbitrate i ?_
    rw [lineOf_putLine_self, hqueue]
    exact (h.lines i).queueNodup
  have hkey {i : LineId} {f : FixtureFlight} (hflight : (lineOf i s).flight = some f) : keyLine f.key = i :=
    (h.lines i).flightOn f hflight
  have hup {i : LineId} {f : FixtureFlight} (hflight : (lineOf i s).flight = some f) :
      (lineOf i (Machine.clearFlight i s)).state = .running := by
    rw [lineOf_clearFlight]
    exact (h.lines i).running_of_flight hflight
  cases hact with
  | enrolled f k hkey hnone =>
    by_cases hj : j = k
    · subst hj
      refine deliveredAt_of_unassigned fun m hm => ?_
      cases (lum?_putLum_self j _ s).symm.trans hm
      rfl
    · exact (h.all j).putLum_ne hj _
  | amended f k l place hl hplace hfree =>
    have hrefs := (refsOk_keptByParts.fixture (.amended f k l place hl hplace hfree) ⟨hcurrent.tables, hcurrent.refs⟩).2
    refine deliveredAt_amendLum (new := (takeLumNumbers f { l with place := place }).1) h.lines h.all (hcurrent.all k) hl
      rfl rfl rfl (fun p hp => ?_) j
    have hfits := amendedPlace_ok hplace (hcurrent.refs.1 _ (mem_of_tabGet hl))
    have hp : place = some p := hp
    rw [hp] at hfits
    simp only [placeOk, Bool.and_eq_true] at hfits
    exact hfits.1
  | retired k hl =>
    by_cases hj : j = k
    · subst hj
      exact deliveredAt_of_none (tabGet_del_self _ _)
    · exact ((h.all j).forgetLum hj).of_eq (tabGet_del_ne _ hj) (by cases keyLine j <;> rfl)
  | unflagged k => exact onLum_rel (R := fun _ t => DeliveredAt t j) (h.all j) fun m hm => (h.all j).putLum hm ⟨rfl, rfl, rfl⟩
  | levelEnded i code k retired hflight =>
    exact harbitrate ((h.lines.clearFlight i).levelEnded code (hup hflight) (hkey hflight))
      ((h.all j).levelEnded hflight (hkey hflight))
  | answered i kind k retired d hflight hkind =>
    have hcleared := (h.all j).clearQuery hflight hkind
    split
    · exact harbitrate (h.lines.clearFlight i) hcleared
    · exact harbitrate ((h.lines.clearFlight i).replied d (hkey hflight)) (hcleared.replied i k d)
  | unanswered i kind k retired hflight hkind =>
    have hcleared := (h.all j).clearQuery hflight hkind
    split
    · exact harbitrate (h.lines.clearFlight i) hcleared
    · exact harbitrate ((h.lines.clearFlight i).queryMissed kind (hup hflight) (hkey hflight)) (hcleared.queryMissed i kind k)
  | lineDown i => exact (h.all j).goDown i
  | lineUp i hdown =>
    have hlines : LinesFit False (flagFloor (putLine i { lineOf i s with state := .running } s)) := by
      obtain ⟨hqueue, hconfirm, hslot, hflight⟩ := (h.lines i).downEmpty hdown
      refine LinesFit.flagFloor (h.lines.putLine (lineFits_empty hqueue hconfirm hslot ?_ nofun))
      rw [hflight]
      exact fun f hf => absurd hf (Option.not_mem_none f)
    by_cases hj : keyLine j = i
    · refine deliveredAt_fullRefresh hlines (fun l hl => ?_) hj
      exact composed_of_currentAt (hcurrent.all j) l ((lum?_putLine i _ s j).symm.trans hl)
    · have hkept : DeliveredAt (flagFloor (putLine i { lineOf i s with state := .running } s)) j :=
        (h.all j).of_eq (lum?_putLine i _ s j) (by rw [lineOf_flagFloor, lineOf_putLine_ne hj])
      exact hkept.fullRefresh hlines i
  | pinRose i =>
    exact harbitrated (line := { lineOf i s with rxHigh := true }) rfl rfl rfl
  | pinFell i => exact (h.all j).putAlike rfl rfl rfl
  | filled i =>
    unfold fillScanSlot
    split
    · split
      · rename_i k _
        exact harbitrated (line := { lineOf i s with slot := some k, mark := some (keyAddress k) }) rfl rfl rfl
      · exact h.all j
    · exact h.all j

/-- R148, R149: the refresh of a line after a warm reset. -/
theorem deliveredAt_warmRefresh (hs : LinesFit False s) (hcurrent : ∀ k, CurrentAt s k) (hj : keyLine j = i) :
    DeliveredAt (warmRefresh i s) j := by
  unfold warmRefresh
  split
  · exact deliveredAt_fullRefresh hs (composed_of_currentAt (hcurrent j)) hj
  · rename_i hdown
    intro l _ _ hup
    exact absurd (hj ▸ hup) hdown

theorem DeliveredAt.warmRefresh (h : DeliveredAt s j) (hs : LinesFit False s) (i : LineId) : DeliveredAt (warmRefresh i s) j := by
  unfold Machine.warmRefresh
  split
  · exact h.fullRefresh hs i
  · exact h

/-- R128: every act keeps every promise. -/
theorem Act.delivered (hact : Act s t) (hcurrent : AllCurrent s) (h : AllDelivered s) : AllDelivered t := by
  have hlines := (linesFit_keptByParts False).act hact h.lines
  cases hact with
  | event hacts => exact h.event hacts
  | quiet hrecord => exact h.sameFixtures hrecord.recordsOnly.fixtures
  | fixture hfixture => exact hfixture.delivered hcurrent h
  | recapped c =>
    exact forEachFree_keeps (P := AllDelivered) (fun _ _ hu => hu.sameFixtures ⟨rfl, rfl, rfl⟩)
      (fun i _ u hu => hu.event (.single (.seg (.recapped i)))) (h.sameFixtures ⟨rfl, rfl, rfl⟩)
  | warmReset =>
    have hcomposed := warmComposed_current hcurrent
    have hcomposedLines : LinesFit False (warmComposed s) :=
      (linesFit_keptByParts False).composeAll ((linesFit_keptByParts False).raiseRow 4 ((linesFit_keptByParts False).raiseRow 3
        ((linesFit_keptByParts False).raiseRow 2 h.lines.warmBlocks)))
    refine ⟨hlines, fun j => ?_⟩
    rw [warmReset_eq]
    have hrefreshed := (linesFit_keptByParts False).warmRefresh .a hcomposedLines
    cases hj : keyLine j with
    | a => exact (deliveredAt_warmRefresh hcomposedLines hcomposed hj).warmRefresh hrefreshed .b
    | b => exact deliveredAt_warmRefresh hrefreshed (warmRefresh_current .a hcomposed) hj
  | coldReset low => exact ⟨hlines, fun k => deliveredAt_of_none rfl⟩
  | _ => exact h.sameFixtures ⟨rfl, rfl, rfl⟩

/-- Settles O22, by what every act makes of the promise of each luminaire's line. -/
theorem composedCodesAreDelivered : Obligations.ComposedCodesAreDelivered := by
  rintro s t ⟨htables, hrefs, hlines, hcurrent⟩ hdelivered hstep
  have hkept : KeptByStep fun s => AllCurrent s ∧ AllDelivered s :=
    keptByStep_of_acts
      (fun _ _ h => ⟨⟨h.1.tables, h.1.refs, fun k => (h.1.all k).of_eq rfl rfl rfl⟩, h.2.sameFixtures ⟨rfl, rfl, rfl⟩⟩)
      fun _ _ hact h => ⟨hact.current h.1, hact.delivered h.1 h.2⟩
  obtain ⟨hcurrent', hdelivered'⟩ := hkept s t
    ⟨⟨htables, hrefs, (currentOk_all_iff htables.1).mp hcurrent⟩, linesFit_iff.mpr ⟨hlines, False.elim⟩,
      (deliveryOk_iff htables.1).mp hdelivered⟩ hstep
  exact (deliveryOk_iff hcurrent'.tables.1).mpr hdelivered'.all

end Delivery

end Sys2Proof.Machine
end

section
/-! SUPPORT. The seven stages of the composition as numbers (R103, R125, R126). -/

namespace Sys2Proof.Machine

section Stages

variable {s : State} {g : Segment} {p : Place}

/-- R103: the record covers the position. -/
abbrev Covers (p : Place) (o : Override) : Prop :=
  o.scope.segment = p.segment ∧ o.scope.first ≤ p.position ∧ p.position ≤ o.scope.last

theorem governing_none (h : ∀ o ∈ s.overrides.records, ¬Covers p o) : governing s p.segment p.position = none := by
  refine List.find?_eq_none.mpr fun o ho hc => h o ho ?_
  simpa [and_assoc] using hc

/-- R103: the governing record is the one that covers the position with none before it that does. -/
theorem governing_at {before after : List Override} {o : Override} (hlist : s.overrides.records = before ++ o :: after)
    (ho : Covers p o) (hbefore : ∀ q ∈ before, ¬Covers p q) : governing s p.segment p.position = some o := by
  have hnone : before.find? (fun o =>
      o.scope.segment == p.segment && decide (o.scope.first ≤ p.position) && decide (p.position ≤ o.scope.last)) = none :=
    List.find?_eq_none.mpr fun q hq hc => hbefore q hq (by simpa [and_assoc] using hc)
  rw [governing, hlist, List.find?_append, hnone, Option.none_or, List.find?_cons_of_pos]
  simpa [and_assoc] using ho

/-- R125: the base of the mode, limited by the activity state. -/
theorem activityLevel_eq (g : Segment) :
    activityLevel g =
      let base := if g.cfg.mode = .manual then g.cfg.manualLevel else g.h
      if g.activity = .occupied then base else if g.activity = .setback then min base g.cfg.setbackLevel else 0 := by
  unfold activityLevel baseLevel
  cases g.cfg.mode <;> cases g.activity <;> rfl

/-- R125: a NUDGE stays between 0 and 1000. -/
theorem overrideLevel_nudge (v : Nat) (d : Int) :
    overrideLevel v (some (.nudge d)) = if (v : Int) + d < 0 then 0 else min 1000 ((v : Int) + d).toNat := by
  simp only [overrideLevel]
  split_ifs <;> omega

/-- R126 stage 4: a trim of 50 or more leaves a lit value lit. -/
theorem trimLevel_pos {trim v : Nat} (htrim : 50 ≤ trim) (hv : v ≠ 0) : trimLevel trim v ≠ 0 := by
  have hproduct : 50 ≤ v * trim := le_trans htrim (Nat.le_mul_of_pos_left trim (Nat.pos_of_ne_zero hv))
  rw [trimLevel, if_neg hv, divNearest]
  omega

theorem trimLevel_eq (trim v : Nat) :
    trimLevel trim v = if v = 0 then 0 else min 1000 ((v * trim * 2 + 100) / 200) := by
  rw [trimLevel, divNearest, Nat.mul_comm 2]

/-- R126 stage 6: a lit level lies between the minimum and the smaller of the maximum and the effective cap. -/
theorem limitLevel_bounds {lo hi cap v : Nat} (hlohi : lo ≤ hi) (hcap : v ≤ cap) :
    limitLevel lo hi cap v = 0 ∨ (lo ≤ limitLevel lo hi cap v ∧ limitLevel lo hi cap v ≤ min hi cap) := by
  unfold limitLevel
  split_ifs <;> omega

end Stages

/-- Settles O23, by the record that governs a position and by the bounds of each stage. -/
theorem compositionObeysItsStages : Obligations.CompositionObeysItsStages := by
  refine ⟨fun s g p => ⟨fun hnone => ?_, fun before after o hlist ho hbefore => ?_⟩, fun l cap v hl => ?_⟩
  · rw [requestedLevel, governing_none hnone]
    exact activityLevel_eq g
  · rw [requestedLevel, governing_at hlist ho hbefore, activityLevel_eq]
    refine ⟨fun v hv => ?_, fun hoff => ?_, fun d hd => ?_⟩
    · rw [Option.map_some, hv, overrideLevel]
    · rw [Option.map_some, hoff, overrideLevel]
    · rw [Option.map_some, hd, overrideLevel_nudge]
  · obtain ⟨htrim, -, -, -, hlohi, hhi⟩ := hl
    intro trimmed capped level
    have htrimmed : trimmed = trimLevel l.trim v := (trimLevel_eq l.trim v).symm
    have hlevel : level = limitLevel l.minLevel l.maxLevel cap (min (trimLevel l.trim v) cap) := by rw [← htrimmed]; rfl
    have hbounds : level = 0 ∨ (l.minLevel ≤ level ∧ level ≤ min l.maxLevel cap) :=
      hlevel ▸ limitLevel_bounds hlohi (min_le_right _ _)
    refine ⟨?_, fun hv => htrimmed ▸ trimLevel_pos htrim hv, hbounds, ?_, ?_⟩
    · rw [hlevel]
      rfl
    all_goals omega

end Sys2Proof.Machine
end

section
/-! SUPPORT. The frame of a request is taken as that request (R164, R172, R173). -/

namespace Sys2Proof.Machine

theorem requestOf_requestParts {c : Instr} {code : Nat} {body : List Byte} (h : requestParts c = some (code, body)) :
    requestOf code body = some c ∧ code < 256 := by
  unfold requestParts at h
  split at h <;> cases h <;> exact ⟨rfl, by decide⟩

/-- R164: the body of a well-formed request fits its frame. -/
theorem bodyFits_of_wf {c : Instr} {code : Nat} {body : List Byte} (h : requestParts c = some (code, body))
    (hwf : c.wf = true) : body.length ≤ 40 := by
  unfold requestParts at h
  split at h <;> cases h <;> exact decide_eq_true_eq.mp hwf

/-- Settles O2: the frame carries the code and the length, and a length of at most 40 fits a byte. -/
theorem requestFramesDecode : Obligations.RequestFramesDecode := by
  intro c trailing hwf hrequest
  obtain ⟨⟨code, body⟩, hparts⟩ := Option.isSome_iff_exists.mp hrequest
  obtain ⟨hof, hcode⟩ := requestOf_requestParts hparts
  have hlen := bodyFits_of_wf hparts hwf
  have hcode' : (BitVec.ofNat 8 code).toNat = code := by rw [BitVec.toNat_ofNat]; omega
  have hlen' : (BitVec.ofNat 8 body.length).toNat = body.length := by rw [BitVec.toNat_ofNat]; omega
  refine ⟨BitVec.ofNat 8 code :: BitVec.ofNat 8 body.length :: body, by rw [encodeFrame, hparts]; rfl, ?_⟩
  have hfits : body.length ≤ 40 ∧ body.length ≤ (body ++ trailing).length := ⟨hlen, by simp⟩
  simp only [List.cons_append, decodeFrame, hlen', hcode', if_pos hfits, List.take_left', hof, Option.getD_some]

end Sys2Proof.Machine
end

section
/-! SUPPORT. Line bytes bit by bit, the frames on the lines, the replies read back (R174 to R176). -/

namespace Sys2Proof.Machine

/-! ## One byte on a line (R174, R175) -/

theorem lineByte_bits (b : LineByte) :
    b.bits = [false, b.data[0], b.data[1], b.data[2], b.data[3], b.data[4], b.data[5], b.data[6], b.data[7],
      b.parity, b.stop] := by
  simp [LineByte.bits, List.range_succ, BitVec.getElem_eq_testBit_toNat]

theorem lineByteOf_bits (b : LineByte) : lineByteOf b.bits = some b := by
  rw [lineByte_bits]
  simp only [lineByteOf, Option.some.injEq]
  obtain ⟨data, parity, stop⟩ := b
  simp only [LineByte.mk.injEq, and_true]
  refine BitVec.eq_of_getLsbD_eq fun i hi => ?_
  have hi : i < 8 := hi
  rw [BitVec.getLsbD_ofBoolListLE, BitVec.getLsbD_eq_getElem hi]
  interval_cases i <;> rfl

/-- R175: the ones among the data and the parity bits. -/
theorem count_dataBits (b : LineByte) : ((b.bits.drop 1).take 9).count true = onesOf b.data + b.parity.toNat := by
  have hbits : (b.bits.drop 1).take 9 = (List.range 8).map (fun k => b.data.toNat.testBit k) ++ [b.parity] := rfl
  have hdata : ((List.range 8).map fun k => b.data.toNat.testBit k).count true = onesOf b.data := by
    rw [List.count, List.countP_map, List.countP_eq_length_filter, onesOf]
    congr 2
    funext k
    simp
  rw [hbits, List.count_append, hdata]
  cases b.parity <;> rfl

theorem good_iff_odd (b : LineByte) :
    b.good = true ↔ b.stop = true ∧ ((b.bits.drop 1).take 9).count true % 2 = 1 := by
  rw [count_dataBits, LineByte.good, Bool.and_eq_true, beq_iff_eq]

/-- R174, R175: a byte is good exactly with the parity and the stop bit that it is sent with. -/
theorem good_iff_sent (b : LineByte) : b.good = true ↔ b = LineByte.sent b.data := by
  obtain ⟨data, parity, stop⟩ := b
  simp only [LineByte.good, LineByte.sent, Bool.and_eq_true, beq_iff_eq, LineByte.mk.injEq, true_and]
  cases parity <;> cases stop <;> simp
  omega

@[simp] theorem good_sent (d : Byte) : (LineByte.sent d).good = true := (good_iff_sent _).mpr rfl

@[simp] theorem data_sent (d : Byte) : (LineByte.sent d).data = d := rfl

/-! ## A frame on a line (R174, R176) -/

theorem levelAt_byte (frame : List LineByte) (n j : Nat) (b : LineByte) (hb : frame[n]? = some b) (hj : j < 11) :
    levelAt frame (11 * n + j) = b.bits.getD j true := by
  induction frame generalizing n with
  | nil => cases hb
  | cons c frame ih =>
    rw [levelAt_cons]
    cases n with
    | zero =>
      cases hb
      rw [Nat.mul_zero, Nat.zero_add, if_pos hj, List.getD_eq_getElem?_getD]
      rfl
    | succ n =>
      rw [if_neg (by omega), show 11 * (n + 1) + j - 11 = 11 * n + j by omega]
      exact ih n hb

theorem levelAt_after (frame : List LineByte) (n : Nat) (hn : 11 * frame.length ≤ n) : levelAt frame n = true := by
  induction frame generalizing n with
  | nil => rfl
  | cons c frame ih =>
    rw [List.length_cons] at hn
    rw [levelAt_cons, if_neg (by omega)]
    exact ih _ (by omega)

/-! ## Replies read back (R176) -/

/-- R176: the two fault bits of a driver reply. -/
theorem faultBits (x y : Bool) :
    (BitVec.ofNat 8 (x.toNat + 2 * y.toNat)).toNat.testBit 0 = x ∧ (BitVec.ofNat 8 (x.toNat + 2 * y.toNat)).toNat.testBit 1 = y := by
  cases x <;> cases y <;> decide

theorem decodeDriverReply_bytes {a : Nat} (ha : a < 64) {d : DriverReply} (hd : d.echo < 256) (more : List LineByte) :
    decodeDriverReply a ((d.bytes a).map LineByte.sent ++ more) = some d := by
  have hmark : (BitVec.ofNat 8 (192 + a)).toNat = 192 + a := by rw [BitVec.toNat_ofNat]; omega
  have hecho : (BitVec.ofNat 8 d.echo).toNat = d.echo := by rw [BitVec.toNat_ofNat]; omega
  have hthree : (192 + a) / 64 = 3 := by omega
  have haddress : (192 + a) % 64 = a := by omega
  simp only [DriverReply.bytes, List.map_cons, List.map_nil, List.cons_append, List.nil_append, decodeDriverReply, good_sent,
    data_sent, hmark, hecho, hthree, haddress, beq_self_eq_true, Bool.and_self, if_true, faultBits]

theorem kindOfCode_code (k : InputKind) : kindOfCode k.code = some k := by cases k <;> rfl

theorem decodeInputReply_bytes {a : Nat} (ha : a < 48) {v : InputValue} (hphoto : ∀ x, v = .photo x → x < 65536)
    (hstation : ∀ q b, v = .station q b → q < 16) (more : List LineByte) :
    decodeInputReply a ((v.bytes a).map LineByte.sent ++ more) = some v := by
  have haddress : (BitVec.ofNat 8 a).toNat = a := by rw [BitVec.toNat_ofNat]; omega
  have hkind : (BitVec.ofNat 8 v.kind.code).toNat = v.kind.code := by cases v <;> rfl
  have hvalue (b2 b3 : Byte) (hbytes : v.bytes a = [BitVec.ofNat 8 v.kind.code, BitVec.ofNat 8 a, b2, b3]) :
      decodeInputReply a ((v.bytes a).map LineByte.sent ++ more) = some (inputValueOf v.kind b2 b3) := by
    rw [hbytes]
    simp only [List.map_cons, List.map_nil, List.cons_append, List.nil_append, decodeInputReply, good_sent, data_sent,
      haddress, hkind, beq_self_eq_true, Bool.and_self, if_true, kindOfCode_code, Option.map_some]
  cases v with
  | photo x =>
    have hx := hphoto x rfl
    rw [hvalue _ _ rfl]
    simp only [InputValue.kind, inputValueOf, BitVec.toNat_ofNat, Option.some.injEq, InputValue.photo.injEq]
    omega
  | presence isMotion =>
    rw [hvalue _ _ rfl]
    cases isMotion <;> rfl
  | station q b =>
    have hq := hstation q b rfl
    rw [hvalue _ _ rfl]
    simp only [InputValue.kind, inputValueOf, BitVec.toNat_ofNat, Option.some.injEq, InputValue.station.injEq, and_true]
    omega

/-- R134: fewer bytes than a driver reply has, or a bad one among them, are no driver reply. -/
theorem decodeDriverReply_none {a : Nat} {bytes : List LineByte}
    (h : bytes.length < 3 ∨ ∃ b ∈ bytes.take 3, b.good = false) : decodeDriverReply a bytes = none := by
  match bytes with
  | [] | [_] | [_, _] => rfl
  | b0 :: b1 :: b2 :: rest =>
    rcases h with hshort | ⟨b, hb, hbad⟩
    · simp only [List.length_cons] at hshort
      omega
    · simp only [List.take_succ_cons, List.take_zero, List.mem_cons, List.not_mem_nil, or_false] at hb
      rcases hb with rfl | rfl | rfl <;> simp [decodeDriverReply, hbad]

/-- R150: fewer bytes than an input reply has, or a bad one among them, are no input reply. -/
theorem decodeInputReply_none {a : Nat} {bytes : List LineByte}
    (h : bytes.length < 4 ∨ ∃ b ∈ bytes.take 4, b.good = false) : decodeInputReply a bytes = none := by
  match bytes with
  | [] | [_] | [_, _] | [_, _, _] => rfl
  | b0 :: b1 :: b2 :: b3 :: rest =>
    rcases h with hshort | ⟨b, hb, hbad⟩
    · simp only [List.length_cons] at hshort
      omega
    · simp only [List.take_succ_cons, List.take_zero, List.mem_cons, List.not_mem_nil, or_false] at hb
      rcases hb with rfl | rfl | rfl | rfl <;> simp [decodeInputReply, hbad]

/-- Settles O8, from the bits of one byte to whole frames and replies. -/
theorem lineFramesAreFramedAndRead : Obligations.LineFramesAreFramedAndRead := by
  refine ⟨fun b => ⟨lineByte_bits b, lineByteOf_bits b, good_iff_odd b, good_iff_sent b⟩, fun f => ?frame,
    fun a mark => ⟨rfl, rfl⟩, fun frame n j => ⟨fun b hb hj => levelAt_byte frame n j b hb hj, levelAt_after frame n⟩,
    fun s i n => ⟨fun f hf => ?tx, fun hf => fixtureTx_idle hf n, fun f hf => ?intx, fun hf => inputTx_idle hf n⟩,
    fun a d more ha hd => decodeDriverReply_bytes ha hd more,
    fun a v more ha hphoto hstation => decodeInputReply_bytes ha hphoto hstation more,
    fun a bytes => ⟨decodeDriverReply_none, decodeInputReply_none⟩⟩
  case frame =>
    obtain ⟨kind, key, retired⟩ := f
    cases kind <;> rfl
  case tx =>
    have hf : (lineOf i s).flight = some f := hf
    rw [fixtureTx, hf]
    rfl
  case intx =>
    have hf : s.inputLine.flight = some f := hf
    rw [inputTx, hf]
    rfl

end Sys2Proof.Machine
end

section
/-! SUPPORT. What sets no change flag of a record (R4): the operations that the requests are made of. -/

namespace Sys2Proof.Machine

/-- Every change flag of a luminaire, a segment or an input that is set was set already, in the same record. -/
structure NoNewFlags (s t : State) : Prop where
  lums : ∀ k l, lum? t k = some l → l.changed = true → (lum? s k).map (·.changed) = some true
  segs : ∀ i g, seg? t i = some g → g.changed = true → (seg? s i).map (·.changed) = some true
  inputs : ∀ a n, input? t a = some n → n.changed = true → (input? s a).map (·.changed) = some true

section Flags

variable {s t u : State} {i k a : Nat} {g new : Segment} {l m : Luminaire} {n : Input}

theorem NoNewFlags.of_eq (hlums : t.lums = s.lums) (hsegs : t.segs = s.segs) (hinputs : t.inputs = s.inputs) : NoNewFlags s t where
  lums k l hl hflag := by
    rw [lum?, hlums] at hl
    rw [lum?, hl, Option.map_some, hflag]
  segs i g hg hflag := by
    rw [seg?, hsegs] at hg
    rw [seg?, hg, Option.map_some, hflag]
  inputs a n hn hflag := by
    rw [input?, hinputs] at hn
    rw [input?, hn, Option.map_some, hflag]

theorem NoNewFlags.refl (s : State) : NoNewFlags s s := .of_eq rfl rfl rfl

theorem NoNewFlags.trans (h : NoNewFlags s t) (k : NoNewFlags t u) : NoNewFlags s u where
  lums j l hl hflag := by
    obtain ⟨m, hm, hset⟩ := Option.map_eq_some_iff.mp (k.lums j l hl hflag)
    exact h.lums j m hm hset
  segs i g hg hflag := by
    obtain ⟨m, hm, hset⟩ := Option.map_eq_some_iff.mp (k.segs i g hg hflag)
    exact h.segs i m hm hset
  inputs a n hn hflag := by
    obtain ⟨m, hm, hset⟩ := Option.map_eq_some_iff.mp (k.inputs a n hn hflag)
    exact h.inputs a m hm hset

theorem noNewFlags_putSeg (h : new.changed = true → (seg? s i).map (·.changed) = some true) : NoNewFlags s (putSeg i new s) where
  lums := (NoNewFlags.refl s).lums
  inputs := (NoNewFlags.refl s).inputs
  segs j g hg hflag := by
    by_cases hj : j = i
    · rw [hj, seg?_putSeg_self] at hg
      cases hg
      exact hj ▸ h hflag
    · rw [seg?_putSeg_ne _ _ hj] at hg
      exact (NoNewFlags.refl s).segs j g hg hflag

/-- A segment's record put with the change flag that it had. -/
theorem noNewFlags_putSame (hg : seg? s i = some g) (h : new.changed = g.changed) : NoNewFlags s (putSeg i new s) :=
  noNewFlags_putSeg fun hflag => by rw [hg, Option.map_some, ← h, hflag]

theorem noNewFlags_putLum (h : m.changed = true → (lum? s k).map (·.changed) = some true) : NoNewFlags s (putLum k m s) where
  segs := (NoNewFlags.refl s).segs
  inputs := (NoNewFlags.refl s).inputs
  lums j l hl hflag := by
    by_cases hj : j = k
    · rw [hj, lum?_putLum_self] at hl
      cases hl
      exact hj ▸ h hflag
    · rw [lum?_putLum_ne _ _ hj] at hl
      exact (NoNewFlags.refl s).lums j l hl hflag

theorem noNewFlags_putInput (h : n.changed = true → (input? s a).map (·.changed) = some true) : NoNewFlags s (putInput a n s) where
  lums := (NoNewFlags.refl s).lums
  segs := (NoNewFlags.refl s).segs
  inputs b m hm hflag := by
    by_cases hb : b = a
    · rw [hb, input?_putInput_self] at hm
      cases hm
      exact hb ▸ h hflag
    · rw [input?_putInput_ne _ _ hb] at hm
      exact (NoNewFlags.refl s).inputs b m hm hflag

theorem noNewFlags_onSeg {f : Segment → State → State} (h : ∀ g, seg? s i = some g → NoNewFlags s (f g s)) :
    NoNewFlags s (onSeg i f s) := onSeg_rel (R := NoNewFlags) (.refl s) h

theorem noNewFlags_onLum {f : Luminaire → State → State} (h : ∀ l, lum? s k = some l → NoNewFlags s (f l s)) :
    NoNewFlags s (onLum k f s) := onLum_rel (R := NoNewFlags) (.refl s) h

theorem noNewFlags_forEach {f : Nat → State → State} (h : ∀ k s, NoNewFlags s (f k s)) (ks : List Nat) (s : State) :
    NoNewFlags s (forEach ks f s) := forEach_rel (R := NoNewFlags) .refl .trans (fun k _ t => h k t) s

theorem noNewFlags_draws (s : State) (n : Nat) : NoNewFlags s { s with draws := n } := .of_eq rfl rfl rfl

/-! ## Controllers -/

theorem afterRaise_changed (h : Nat) (g : Segment) : (afterRaise h g).changed = g.changed := by
  unfold afterRaise
  dsimp only
  split
  · rfl
  · cases g.ctl
    case dwell => dsimp only; split <;> rfl
    all_goals rfl

theorem raised_changed (h : raised s g = some new) : new.changed = g.changed := by
  have heq : new = afterRaise (linkedH s g) g := by rw [← raised_getD, h]; rfl
  rw [heq, afterRaise_changed]

theorem depthRaise_noNewFlags (n : Nat) : ∀ (i : Nat) (s : State), NoNewFlags s (depthRaise n i s) := by
  induction n with
  | zero => exact fun _ s => .refl s
  | succ n ih =>
    intro i s
    cases hg : seg? s i with
    | none =>
      rw [depthRaise_noSegment hg]
      exact .refl s
    | some g =>
      cases hr : raised s g with
      | none =>
        rw [depthRaise_unraised hg hr]
        exact .refl s
      | some new =>
        rw [depthRaise_raised hg hr]
        exact (noNewFlags_putSame hg (raised_changed hr)).trans (noNewFlags_forEach ih _ _)

theorem raiseInner_noNewFlags (i : Nat) (s : State) : NoNewFlags s (raiseInner i s) :=
  noNewFlags_forEach (depthRaise_noNewFlags 3) _ s

theorem enterHarvest_noNewFlags (i : Nat) (s : State) : NoNewFlags s (enterHarvest i s) := by
  have hentered : NoNewFlags s (onSeg i (fun g => putSeg i (enteredHarvest g)) s) :=
    noNewFlags_onSeg fun _ hg => noNewFlags_putSame hg rfl
  exact (hentered.trans (depthRaise_noNewFlags 4 i _)).trans (raiseInner_noNewFlags i _)

theorem modeChange_noNewFlags (i : Nat) (old new : Mode) (s : State) : NoNewFlags s (modeChange i old new s) := by
  cases old <;> cases new
  case manual.harvest => exact enterHarvest_noNewFlags i s
  case harvest.manual => exact noNewFlags_onSeg fun _ hg => noNewFlags_putSame hg rfl
  all_goals exact .refl s

theorem capChange_noNewFlags (i old : Nat) (s : State) : NoNewFlags s (capChange i old s) := by
  refine noNewFlags_onSeg fun g hg => ?_
  split
  · split
    · refine noNewFlags_putSame hg ?_
      unfold capClamped
      split <;> rfl
    · split
      · exact depthRaise_noNewFlags 4 i s
      · exact .refl s
  · exact .refl s

theorem recomputeCap_noNewFlags (i : Nat) (s : State) : NoNewFlags s (recomputeCap i s) := by
  refine noNewFlags_onSeg fun g hg => ?_
  dsimp only
  split
  · exact .refl s
  · exact (noNewFlags_putSame (new := { g with effCap := effectiveCap s.composer g.cfg.cap }) hg rfl).trans
      (capChange_noNewFlags i g.effCap _)

theorem recomputeHeld_noNewFlags (i : Nat) (s : State) : NoNewFlags s (recomputeHeld i s) := by
  refine noNewFlags_onSeg fun g hg => ?_
  dsimp only
  split <;> exact noNewFlags_putSame hg rfl

theorem noNewFlags_putHeld (hg : seg? s i = some g) (h : new.changed = g.changed) :
    NoNewFlags s (recomputeHeld i (putSeg i new s)) :=
  (noNewFlags_putSame hg h).trans (recomputeHeld_noNewFlags i _)

/-- R4: motion by request. -/
theorem motion_noNewFlags (i : Nat) (s : State) : NoNewFlags s (motion true i s) := by
  refine noNewFlags_onSeg fun g hg => ?_
  split
  · exact noNewFlags_putHeld hg (Bool.or_false _)
  · exact .refl s

/-- R4: a re-resolution by request. -/
theorem reResolve_noNewFlags (i : Nat) (s : State) : NoNewFlags s (reResolve true i s) := by
  refine noNewFlags_onSeg fun g hg => ?_
  split
  · exact noNewFlags_putHeld hg (Bool.or_false _)
  · exact .refl s

theorem noNewFlags_ite {p : Prop} [Decidable p] {s t u : State} (ht : NoNewFlags s t) (hu : NoNewFlags t u) :
    NoNewFlags s (if p then t else u) := by
  split
  · exact ht
  · exact ht.trans hu

theorem amendSeg_noNewFlags (hg : seg? s i = some g) (c : SegConfig) (clear : Bool) :
    NoNewFlags s (amendSeg i g c clear s) := by
  have hput : NoNewFlags s (putSeg i { g with cfg := c } s) := noNewFlags_putSame hg rfl
  have hcut (u : State) : NoNewFlags u (cutOffChanged i u) := by
    refine noNewFlags_onSeg fun g hg => ?_
    split
    · exact noNewFlags_putSame hg rfl
    · exact .refl u
  have hsensing (u : State) : NoNewFlags u (sensingChanged i u) := by
    refine noNewFlags_onSeg fun g hg => ?_
    split
    · exact noNewFlags_putSame hg rfl
    · exact noNewFlags_putHeld hg rfl
  have hcapStep (u : State) : NoNewFlags u (capStep i g.effCap u) := by
    refine noNewFlags_onSeg fun g hg => ?_
    split
    · exact .refl u
    · exact capChange_noNewFlags i _ u
  have hstored : NoNewFlags s (if c.cap = g.cfg.cap then putSeg i { g with cfg := c } s
      else storeCap i (putSeg i { g with cfg := c } s)) :=
    noNewFlags_ite hput (noNewFlags_onSeg fun _ hg => noNewFlags_putSame hg rfl)
  have hcapped := (hstored.trans (modeChange_noNewFlags i g.cfg.mode c.mode _)).trans (hcapStep _)
  have hsensed := noNewFlags_ite (p := c.sensing = g.cfg.sensing)
    (noNewFlags_ite (p := c.cutOff = g.cfg.cutOff) hcapped (hcut _)) (hsensing _)
  have heffects : NoNewFlags s (amendEffects i g c (putSeg i { g with cfg := c } s)) :=
    noNewFlags_ite hsensed (depthRaise_noNewFlags 4 i _)
  unfold amendSeg
  dsimp only
  split
  · exact heffects.trans (noNewFlags_onSeg fun _ hg => noNewFlags_putSame hg rfl)
  · exact heffects

theorem defineSeg_noNewFlags (i : Nat) (c : SegConfig) (s : State) : NoNewFlags s (defineSeg i c s) := by
  have hput : NoNewFlags s (putSeg i (freshSeg c (effectiveCap s.composer c.cap)) s) := noNewFlags_putSeg nofun
  unfold defineSeg
  cases c.mode with
  | manual => exact hput
  | harvest => exact hput.trans (enterHarvest_noNewFlags i _)

/-! ## The override list -/

theorem noNewFlags_putOverrides (o : OverrideList) (s : State) : NoNewFlags s (putOverrides o s) := .of_eq rfl rfl rfl

theorem retireRecords_noNewFlags (p : Override → Bool) (flag : Bool) (s : State) : NoNewFlags s (retireRecords p flag s) :=
  (noNewFlags_putOverrides _ s).trans (noNewFlags_forEach recomputeHeld_noNewFlags _ _)

theorem placeRecord_noNewFlags (origin : Origin) (cls : OvClass) (scope : Scope) (action : OvAction) (hold : Option Nat)
    (s : State) : NoNewFlags s (placeRecord origin cls scope action hold s) := by
  unfold placeRecord
  split
  · exact noNewFlags_putOverrides _ s
  · have hroom : NoNewFlags s (makeRoom s) := by
      unfold makeRoom
      split
      · exact .refl s
      · split
        · exact retireRecords_noNewFlags _ true s
        · exact .refl s
    exact hroom.trans ((noNewFlags_putOverrides _ _).trans (recomputeHeld_noNewFlags _ _))

theorem placeFloor_noNewFlags (cls : OvClass) (scope : Scope) (action : OvAction) (hold : Option Nat) (s : State) :
    NoNewFlags s (placeFloor cls scope action hold s) := by
  cases cls with
  | facility => exact placeRecord_noNewFlags _ _ _ _ _ s
  | occupant => exact (motion_noNewFlags scope.segment s).trans (placeRecord_noNewFlags _ _ _ _ _ _)

/-! ## Luminaires and inputs -/

theorem putLine_noNewFlags (z : LineId) (line : FixtureLine) (s : State) : NoNewFlags s (putLine z line s) :=
  .of_eq (putLine_lums z line s) (putLine_segs z line s) (putLine_inputs z line s)

theorem handOver_noNewFlags (k code : Nat) (s : State) : NoNewFlags s (handOver k code s) := by
  have hput : NoNewFlags s (onLum k (fun l => putLum k { l with unconfirmed := false, mismatchCount := 0 }) s) :=
    noNewFlags_onLum fun l hl => noNewFlags_putLum fun hflag => by rw [hl, Option.map_some, hflag]
  refine (hput.trans ?_).trans (putLine_noNewFlags _ _ _)
  rw [enqueue_eq]
  exact putLine_noNewFlags _ _ _

theorem recomposeLum_noNewFlags (k : Nat) (s : State) : NoNewFlags s (recomposeLum k s) := by
  unfold recomposeLum
  refine noNewFlags_onLum fun l hl => ?_
  split
  · exact .refl s
  · refine noNewFlags_onSeg fun g _ => ?_
    have hput (c : Composed) : NoNewFlags s (putLum k { l with composed := some c } s) :=
      noNewFlags_putLum fun hflag => by rw [hl, Option.map_some, hflag]
    dsimp only
    split
    · exact hput _
    · exact (hput _).trans (handOver_noNewFlags k _ _)

/-- R127: the recompositions at the end of an event. -/
theorem settle_noNewFlags (s t : State) : NoNewFlags t (settle s t) :=
  forEachFree_rel (R := NoNewFlags) .trans noNewFlags_draws
    (fun i _ u => noNewFlags_forEach recomposeLum_noNewFlags (members u i) u) t

theorem NoNewFlags.event {f : State → State} (h : NoNewFlags s (f s)) : NoNewFlags s (event f s) :=
  h.trans (settle_noNewFlags s (f s))

theorem recomputeAllCaps_noNewFlags (s : State) : NoNewFlags s (recomputeAllCaps s) :=
  forEachFree_rel (R := NoNewFlags) .trans noNewFlags_draws (fun i _ t => (recomputeCap_noNewFlags i t).event) s

theorem amendLum_noNewFlags (hl : lum? s k = some l) (hflag : m.changed = l.changed) : NoNewFlags s (amendLum k l m s) := by
  have hput (c : Option Composed) : NoNewFlags s (putLum k { m with composed := c } s) :=
    noNewFlags_putLum fun hset => by rw [hl, Option.map_some, ← hflag]; exact congrArg some hset
  unfold amendLum
  split
  · exact .refl s
  · split
    · exact (hput none).trans (putLine_noNewFlags _ _ _)
    · exact (hput m.composed).trans (recomposeLum_noNewFlags k _)

theorem noNewFlags_tabDel_lums (k : Nat) (s : State) : NoNewFlags s { s with lums := tabDel s.lums k } where
  segs := (NoNewFlags.refl s).segs
  inputs := (NoNewFlags.refl s).inputs
  lums j l hl hflag := by
    by_cases hj : j = k
    · rw [hj, lum?, tabGet_del_self] at hl
      cases hl
    · rw [lum?, tabGet_del_ne _ hj] at hl
      exact (NoNewFlags.refl s).lums j l hl hflag

theorem noNewFlags_tabDel_segs (i : Nat) (s : State) : NoNewFlags s { s with segs := tabDel s.segs i } where
  lums := (NoNewFlags.refl s).lums
  inputs := (NoNewFlags.refl s).inputs
  segs j g hg hflag := by
    by_cases hj : j = i
    · rw [hj, seg?, tabGet_del_self] at hg
      cases hg
    · rw [seg?, tabGet_del_ne _ hj] at hg
      exact (NoNewFlags.refl s).segs j g hg hflag

theorem noNewFlags_tabDel_inputs (a : Nat) (s : State) : NoNewFlags s { s with inputs := tabDel s.inputs a } where
  lums := (NoNewFlags.refl s).lums
  segs := (NoNewFlags.refl s).segs
  inputs b n hn hflag := by
    by_cases hb : b = a
    · rw [hb, input?, tabGet_del_self] at hn
      cases hn
    · rw [input?, tabGet_del_ne _ hb] at hn
      exact (NoNewFlags.refl s).inputs b n hn hflag

theorem retireInput_noNewFlags (a : Nat) (n : Input) (s : State) : NoNewFlags s (retireInput a n s) := by
  have hgone : NoNewFlags s { forgetInput a s with inputs := tabDel (forgetInput a s).inputs a } :=
    NoNewFlags.trans (t := forgetInput a s) (.of_eq rfl rfl rfl) (noNewFlags_tabDel_inputs a _)
  unfold retireInput
  dsimp only
  split
  · exact hgone
  · exact hgone.trans (noNewFlags_forEach reResolve_noNewFlags _ _)
  · exact hgone.trans (retireRecords_noNewFlags _ true _)

theorem amendInputRecord_noNewFlags {old new : Input} (hn : input? s a = some old) (hflag : new.changed = old.changed) :
    NoNewFlags s (amendInputRecord a old new s) :=
  (noNewFlags_putInput fun hset => by rw [hn, Option.map_some, ← hflag, hset]).trans
    (noNewFlags_forEach reResolve_noNewFlags _ _)

theorem clearFlag_noNewFlags (f : FlagKey) (s : State) : NoNewFlags s (clearFlag f s) := by
  cases f with
  | floor => exact .of_eq rfl rfl rfl
  | list => exact .of_eq rfl rfl rfl
  | lum k => exact noNewFlags_onLum fun l _ => noNewFlags_putLum nofun
  | segment i => exact noNewFlags_onSeg fun g _ => noNewFlags_putSeg nofun
  | input a => exact onInput_rel (R := NoNewFlags) (.refl s) fun n _ => noNewFlags_putInput nofun

/-! ## A warm reset -/

theorem warmSeg_changed (c : Composer) (g : Segment) : (warmSeg c g).changed = false := by
  unfold warmSeg
  dsimp only
  split <;> rfl

theorem warmBlocks_noNewFlags (s : State) : NoNewFlags s (warmBlocks s) where
  lums k l hl hflag := by
    obtain ⟨m, _, rfl⟩ := Option.map_eq_some_iff.mp ((tabGet_map s.lums warmLum k).symm.trans hl)
    cases hflag
  segs i g hg hflag := by
    obtain ⟨u, _, rfl⟩ := Option.map_eq_some_iff.mp ((tabGet_map s.segs (warmSeg s.composer) i).symm.trans hg)
    rw [warmSeg_changed] at hflag
    cases hflag
  inputs a n hn hflag := by
    obtain ⟨m, _, rfl⟩ := Option.map_eq_some_iff.mp ((tabGet_map s.inputs (warmInput _) a).symm.trans hn)
    cases hflag

theorem raiseRow_noNewFlags (row : Nat) (s : State) : NoNewFlags s (raiseRow row s) := by
  refine noNewFlags_forEach (fun i t => noNewFlags_onSeg fun g hg => ?_) _ s
  split
  · rename_i hr
    exact noNewFlags_putSame hg (raised_changed hr)
  · exact .refl t

theorem composeOnly_changed (s : State) (l : Luminaire) : (composeOnly s l).changed = l.changed := by
  unfold composeOnly
  split
  · rfl
  · split <;> rfl

theorem composeAll_noNewFlags (s : State) : NoNewFlags s (composeAll s) where
  segs := (NoNewFlags.refl s).segs
  inputs := (NoNewFlags.refl s).inputs
  lums k l hl hflag := by
    obtain ⟨m, hm, rfl⟩ := Option.map_eq_some_iff.mp ((tabGet_map s.lums (composeOnly s) k).symm.trans hl)
    rw [composeOnly_changed] at hflag
    exact Option.map_eq_some_iff.mpr ⟨m, hm, hflag⟩

theorem warmRefresh_noNewFlags (z : LineId) (s : State) : NoNewFlags s (warmRefresh z s) := by
  unfold warmRefresh
  split
  · have hsame := (fullRefresh_lumsOnly z s).records
    exact .of_eq (fullRefresh_lums z s) hsame.1 hsame.2.2.1
  · exact .refl s

theorem warmReset_noNewFlags (s : State) : NoNewFlags s (warmReset s) :=
  ((((((warmBlocks_noNewFlags s).trans (raiseRow_noNewFlags 2 _)).trans (raiseRow_noNewFlags 3 _)).trans
    (raiseRow_noNewFlags 4 _)).trans (composeAll_noNewFlags _)).trans (warmRefresh_noNewFlags .a _)).trans
    (warmRefresh_noNewFlags .b _)

end Flags

end Sys2Proof.Machine
end

section
/-! SUPPORT. Every request is refused, or taken and answered OK or CLAMPED (R166); which change flags it may set (R4). -/

namespace Sys2Proof.Machine

/-- R166: a request is refused, or it makes a state that meets `R` and is answered OK or CLAMPED. -/
inductive Answered (s : State) (code : Nat) (R : State → Prop) : Host.Outcome State Fault Refusal → Prop
  | refused (st : Status) : Answered s code R (deny st code s)
  | taken {u : State} (clamped : Bool) (bytes : List Byte) (h : R u) :
      Answered s code R (done (answer (okOr clamped) code bytes u))

/-- R4, R166: the change flags that a request of a code may set stand. -/
structure FlagsAllowed (s : State) (code : Nat) (u : State) : Prop where
  records : NoNewFlags s u
  list : u.overrides.changed = true → s.overrides.changed = true ∨ code ∈ [0x50, 0x23, 0x33]
  floor : u.port.floorChanged = true → s.port.floorChanged = true ∨ code ∈ [0x7F, 0x41]

section Requests

variable {s t u : State} {code : Nat} {R : State → Prop} {bytes body : List Byte}

theorem Answered.ok (h : R u) : Answered s code R (done (answer .ok code bytes u)) := .taken false bytes h

/-- A request that leaves the list's change flag and the floor's. -/
theorem flagsAllowed_of_same (h : NoNewFlags s u) (hlist : u.overrides.changed = s.overrides.changed)
    (hfloor : u.port.floorChanged = s.port.floorChanged) : FlagsAllowed s code u :=
  ⟨h, fun hset => .inl (hlist ▸ hset), fun hset => .inl (hfloor ▸ hset)⟩

theorem flagsAllowed_refl (s : State) (code : Nat) : FlagsAllowed s code s := flagsAllowed_of_same (.refl s) rfl rfl

/-- A request on the fixtures. -/
theorem flagsAllowed_of_lums (h : NoNewFlags s u) (hrest : LumsOnly s u) (hfloor : u.port.floorChanged = s.port.floorChanged) :
    FlagsAllowed s code u := flagsAllowed_of_same h (congrArg (·.changed) hrest.records.2.1) hfloor

/-- A request on the segments, as one event. -/
theorem flagsAllowed_of_segs {f : State → State} (h : NoNewFlags s (f s)) (hsegs : SegsOnly s (f s)) :
    FlagsAllowed s code (event f s) := by
  obtain ⟨⟨_, _, hlist, _⟩, hport⟩ := event_same f s
  obtain ⟨_, ⟨_, hlist', _⟩, hport', _⟩ := hsegs.same
  exact flagsAllowed_of_same h.event (by rw [hlist, hlist']) (by rw [hport, hport'])

/-- A request on the override list, as one event. -/
theorem flagsAllowed_of_list {f : State → State} (h : NoNewFlags s (f s)) (hport : (f s).port = s.port)
    (hlist : (f s).overrides.changed = true → s.overrides.changed = true ∨ code ∈ [0x50, 0x23, 0x33]) :
    FlagsAllowed s code (event f s) := by
  obtain ⟨⟨_, _, hsame, _⟩, hkept⟩ := event_same f s
  exact ⟨h.event, fun hset => hlist (hsame ▸ hset), fun hset => .inl (by rw [hkept, hport] at hset; exact hset)⟩

/-! ## The luminaire table -/

theorem enrolLuminaire_answered : Answered s 0x10 (FlagsAllowed s 0x10) (execEnrolLuminaire body s) := by
  unfold execEnrolLuminaire
  dsimp only
  split
  · exact .refused _
  · split
    · exact .refused _
    · split
      · exact .refused _
      · exact .taken _ _ (flagsAllowed_of_same (noNewFlags_putLum nofun) rfl rfl)

theorem amendLum_port (k : Nat) (old new : Luminaire) (s : State) :
    (amendLum k old new s).port = s.port := by
  unfold amendLum
  split
  · rfl
  · split
    · exact putLine_port _ _ _
    · exact (recomposeLum_recomposes k _).1.same.2

theorem amendLuminaire_answered : Answered s 0x11 (FlagsAllowed s 0x11) (execAmendLuminaire body s) := by
  unfold execAmendLuminaire
  dsimp only
  split
  · exact .refused _
  · split
    · exact .refused _
    · rename_i l hl
      split
      · exact .refused _
      · split
        · exact .refused _
        · exact .taken _ _ (flagsAllowed_of_lums (amendLum_noNewFlags hl rfl) (amendLum_lumsOnly _ _ _ _)
            (congrArg (·.floorChanged) (amendLum_port _ _ _ _)))

theorem readLuminaire_answered : Answered s 0x12 (FlagsAllowed s 0x12) (execReadLuminaire body s) := by
  unfold execReadLuminaire
  dsimp only
  split
  · exact .refused _
  · split
    · exact .refused _
    · exact .ok (flagsAllowed_refl s _)

theorem retireLuminaire_answered : Answered s 0x13 (FlagsAllowed s 0x13) (execRetireLuminaire body s) := by
  unfold execRetireLuminaire
  dsimp only
  split
  · exact .refused _
  · split
    · exact .refused _
    · refine .ok (flagsAllowed_of_same ((putLine_noNewFlags _ _ s).trans (noNewFlags_tabDel_lums _ _)) ?_ ?_)
      · exact congrArg (·.changed) (putLine_overrides _ _ s)
      · exact congrArg (·.floorChanged) (putLine_port _ _ s)

/-! ## The segment table -/

theorem defineSegment_answered : Answered s 0x20 (FlagsAllowed s 0x20) (execDefineSegment body s) := by
  unfold execDefineSegment
  dsimp only
  split
  · exact .refused _
  · split
    · exact .refused _
    · split
      · exact .refused _
      · split
        · exact .refused _
        · exact .taken _ _ (flagsAllowed_of_segs (defineSeg_noNewFlags _ _ s) (defineSeg_segsOnly _ _ s))

theorem amendSegment_answered : Answered s 0x21 (FlagsAllowed s 0x21) (execAmendSegment body s) := by
  unfold execAmendSegment
  dsimp only
  split
  · exact .refused _
  · split
    · exact .refused _
    · split
      · exact .refused _
      · rename_i g hg
        split
        · exact .refused _
        · split
          · exact .refused _
          · exact .taken _ _ (flagsAllowed_of_segs (amendSeg_noNewFlags hg _ _) (amendSeg_segsOnly _ _ _ _ s))

theorem readSegment_answered : Answered s 0x22 (FlagsAllowed s 0x22) (execReadSegment body s) := by
  unfold execReadSegment
  dsimp only
  split
  · exact .refused _
  · split
    · exact .refused _
    · split
      · exact .refused _
      · exact .ok (flagsAllowed_refl s _)

theorem retireSegment_answered : Answered s 0x23 (FlagsAllowed s 0x23) (execRetireSegment body s) := by
  unfold execRetireSegment
  dsimp only
  split
  · exact .refused _
  · split
    · exact .refused _
    · split
      · exact .refused _
      · split
        · exact .refused _
        · refine .ok (flagsAllowed_of_list ?_ (retireSeg_listOnly _ s).same.2.2.2.1 fun _ => .inr (by decide))
          exact (retireRecords_noNewFlags _ true s).trans (noNewFlags_tabDel_segs _ _)

/-! ## The input table -/

theorem enrolInput_answered : Answered s 0x30 (FlagsAllowed s 0x30) (execEnrolInput body s) := by
  unfold execEnrolInput
  dsimp only
  split
  · exact .refused _
  · split
    · exact .refused _
    · split
      · exact .refused _
      · split
        · exact .refused _
        · split
          · exact .refused _
          · split
            · exact .refused _
            · exact .taken _ _ (flagsAllowed_of_same (noNewFlags_putInput nofun) rfl rfl)

theorem amendInput_answered : Answered s 0x31 (FlagsAllowed s 0x31) (execAmendInput body s) := by
  unfold execAmendInput
  dsimp only
  split
  · exact .refused _
  · split
    · exact .refused _
    · split
      · exact .refused _
      · rename_i n hn
        split
        · exact .refused _
        · split
          · exact .refused _
          · refine .taken _ _ (flagsAllowed_of_list (amendInputRecord_noNewFlags hn rfl) ?_ fun hset => .inl ?_)
            · exact (forEach_reResolve_segsOnly true _ _).same.2.2.1
            · rw [amendInputRecord, (forEach_reResolve_segsOnly true _ _).same.2.1.2.1] at hset
              exact hset

theorem readInput_answered : Answered s 0x32 (FlagsAllowed s 0x32) (execReadInput body s) := by
  unfold execReadInput
  dsimp only
  split
  · exact .refused _
  · split
    · exact .refused _
    · split
      · exact .refused _
      · exact .ok (flagsAllowed_refl s _)

theorem retireInput_port (a : Nat) (n : Input) (s : State) : (retireInput a n s).port = s.port := by
  unfold retireInput
  dsimp only
  split
  · rfl
  · exact (forEach_reResolve_segsOnly true _ _).same.2.2.1
  · exact (retireRecords_listOnly _ true _).same.2.2.2.1

theorem retireInput_answered : Answered s 0x33 (FlagsAllowed s 0x33) (execRetireInput body s) := by
  unfold execRetireInput
  dsimp only
  split
  · exact .refused _
  · split
    · exact .refused _
    · split
      · exact .refused _
      · split
        · exact .refused _
        · exact .ok (flagsAllowed_of_list (retireInput_noNewFlags _ _ s) (retireInput_port _ _ s) fun _ => .inr (by decide))

/-- A photosensor's record put with the change flag that it had. -/
theorem flagsAllowed_putDevice {a : Nat} {n : Input} (hn : input? s a = some n) (d : Device) :
    FlagsAllowed s code (putInput a { n with device := d } s) :=
  flagsAllowed_of_same (noNewFlags_putInput fun hset => by rw [hn, Option.map_some]; exact congrArg some hset) rfl rfl

theorem reinstateInput_answered : Answered s 0x34 (FlagsAllowed s 0x34) (execReinstateInput body s) := by
  unfold execReinstateInput
  dsimp only
  split
  · exact .refused _
  · split
    · exact .refused _
    · split
      · exact .refused _
      · rename_i n hn
        split
        · split
          · exact .ok (flagsAllowed_putDevice hn _)
          · exact .refused _
        · exact .refused _

theorem calibrate_answered : Answered s 0x40 (FlagsAllowed s 0x40) (execCalibrate body s) := by
  unfold execCalibrate
  dsimp only
  split
  · exact .refused _
  · split
    · exact .refused _
    · split
      · exact .refused _
      · split
        · exact .refused _
        · split
          · exact .refused _
          · rename_i n hn
            split
            · split
              · exact .refused _
              · exact .taken _ _ (flagsAllowed_putDevice hn _)
            · exact .refused _

/-! ## Spot reads and overrides -/

theorem spotRead_answered : Answered s 0x41 (FlagsAllowed s 0x41) (execSpotRead body s) := by
  unfold execSpotRead
  dsimp only
  split
  · exact .refused _
  · split
    · exact .refused _
    · split
      · exact .refused _
      · split
        · exact .ok (flagsAllowed_of_same (.of_eq rfl rfl rfl) rfl rfl)
        · exact .ok ⟨.of_eq rfl rfl rfl, .inl, fun _ => .inr (by decide)⟩

theorem fetchSpot_answered : Answered s 0x42 (FlagsAllowed s 0x42) (execFetchSpot body s) := by
  unfold execFetchSpot
  split
  · exact .refused _
  · exact .refused _
  · exact .ok (flagsAllowed_refl s _)

theorem placeOverride_answered : Answered s 0x50 (FlagsAllowed s 0x50) (execPlaceOverride body s) := by
  unfold execPlaceOverride
  dsimp only
  split
  · exact .refused _
  · split
    · exact .refused _
    · split
      · split
        · exact .refused _
        · exact .taken _ _ (flagsAllowed_of_list (placeFloor_noNewFlags _ _ _ _ s)
            (placeFloor_listOnly _ _ _ _ s).same.2.2.2.1 fun _ => .inr (by decide))
      · exact .refused _

theorem cancelOverride_answered : Answered s 0x51 (FlagsAllowed s 0x51) (execCancelOverride body s) := by
  unfold execCancelOverride
  dsimp only
  split
  · exact .refused _
  · split
    · exact .refused _
    · split
      · refine .ok (flagsAllowed_of_list (retireRecords_noNewFlags _ false s)
          (retireRecords_listOnly _ false s).same.2.2.2.1 fun hset => .inl ?_)
        rw [retireRecords_overrides] at hset
        simpa using hset
      · exact .refused _

theorem readOverrides_answered : Answered s 0x52 (FlagsAllowed s 0x52) (execReadOverrides body s) := by
  unfold execReadOverrides
  dsimp only
  split
  · exact .refused _
  · split
    · exact .refused _
    · exact .ok (flagsAllowed_refl s _)

/-! ## The floor -/

theorem recomputeAllCaps_overrides (s : State) : (recomputeAllCaps s).overrides = s.overrides :=
  forEachFree_rel (R := fun s t => t.overrides = s.overrides) (fun h k => k.trans h) (fun _ _ => rfl)
    (fun i _ t => (event_same (recomputeCap i) t).1.2.2.1.trans (recomputeCap_segsOnly i t).same.2.1.2.1) s

theorem setFloorCap_answered : Answered s 0x60 (FlagsAllowed s 0x60) (execSetFloorCap body s) := by
  unfold execSetFloorCap
  dsimp only
  split
  · exact .refused _
  · split
    · exact .refused _
    · refine .taken _ _ (flagsAllowed_of_same ?_ ?_ ?_)
      · refine NoNewFlags.trans ?_ (recomputeAllCaps_noNewFlags _)
        exact .of_eq rfl rfl rfl
      · rw [recomputeAllCaps_overrides]
      · exact congrArg (·.floorChanged) (recomputeAllCaps_eventOnly _).same.2.2

theorem clearFlags_allowed (fs : List FlagKey) (s : State) : FlagsAllowed s code (clearFlags fs s) := by
  have hrecords : NoNewFlags s (clearFlags fs s) := by
    unfold clearFlags
    induction fs generalizing s with
    | nil => exact .refl s
    | cons f fs ih => exact (clearFlag_noNewFlags f s).trans (ih (clearFlag f s))
  have hcleared := clearFlags_cleared fs s
  have hlist := hcleared.flagSet_eq .list
  have hfloor := hcleared.flagSet_eq .floor
  simp only [flagSet] at hlist hfloor
  refine ⟨hrecords, fun hset => .inl ?_, fun hset => .inl ?_⟩
  · exact (Bool.and_eq_true_iff.mp (hlist ▸ hset)).1
  · exact (Bool.and_eq_true_iff.mp (hfloor ▸ hset)).1

theorem readTally_answered : Answered s 0x64 (FlagsAllowed s 0x64) (execReadTally body s) := by
  unfold execReadTally
  dsimp only
  split
  · exact .refused _
  · split
    · exact .refused _
    · exact .ok (flagsAllowed_refl s _)

theorem warmReset_list (s : State) : (warmReset s).overrides.changed = false := by
  have hraise (row : Nat) {u : State} (hu : u.overrides.changed = false) : (raiseRow row u).overrides.changed = false :=
    forEach_keeps (P := fun v => v.overrides.changed = false)
      (fun i _ v hv => (congrArg (·.changed) (raiseOnce_segsOnly i v).same.2.1.2.1).trans hv) hu
  have hrefresh (z : LineId) {u : State} (hu : u.overrides.changed = false) : (warmRefresh z u).overrides.changed = false := by
    unfold warmRefresh
    split
    · exact (congrArg (·.changed) (fullRefresh_lumsOnly z u).records.2.1).trans hu
    · exact hu
  exact hrefresh .b (hrefresh .a (hraise 4 (hraise 3 (hraise 2 rfl))))

/-- R164, R166: every request. -/
theorem request_answered {c : Instr} (h : requestParts c = some (code, body)) (s : State) :
    Answered s code (FlagsAllowed s code) (exec c s) := by
  cases c <;> cases h
  case nop => exact .ok (flagsAllowed_refl s _)
  case enrolLuminaire => exact enrolLuminaire_answered
  case amendLuminaire => exact amendLuminaire_answered
  case readLuminaire => exact readLuminaire_answered
  case retireLuminaire => exact retireLuminaire_answered
  case defineSegment => exact defineSegment_answered
  case amendSegment => exact amendSegment_answered
  case readSegment => exact readSegment_answered
  case retireSegment => exact retireSegment_answered
  case enrolInput => exact enrolInput_answered
  case amendInput => exact amendInput_answered
  case readInput => exact readInput_answered
  case retireInput => exact retireInput_answered
  case reinstateInput => exact reinstateInput_answered
  case calibrate => exact calibrate_answered
  case spotRead => exact spotRead_answered
  case fetchSpot => exact fetchSpot_answered (body := body)
  case placeOverride => exact placeOverride_answered
  case cancelOverride => exact cancelOverride_answered
  case readOverrides => exact readOverrides_answered
  case setFloorCap => exact setFloorCap_answered
  case readFloor => exact .ok (flagsAllowed_of_same (.of_eq rfl rfl rfl) rfl rfl)
  case readChanges => exact .ok (clearFlags_allowed _ s)
  case snapshotTally => exact .ok (flagsAllowed_of_same (.of_eq rfl rfl rfl) rfl rfl)
  case readTally => exact readTally_answered
  case warmReset =>
    exact .ok ⟨warmReset_noNewFlags s, fun hset => absurd ((warmReset_list s).symm.trans hset) nofun,
      fun _ => .inr (by decide)⟩

/-- What every request makes, as its answer is read. -/
theorem answered_of_exec {c : Instr} (hrequest : (requestParts c).isSome = true) (h : exec c s = .next t) :
    ∃ code, (requestParts c).map (·.1) = some code ∧ Answered s code (FlagsAllowed s code) (.next t) := by
  obtain ⟨⟨code, body⟩, hparts⟩ := Option.isSome_iff_exists.mp hrequest
  exact ⟨code, by rw [hparts]; rfl, h ▸ request_answered hparts s⟩

/-- Settles O5: a request that is not taken is denied, and a denial replaces the offered response alone. -/
theorem refusedRequestsChangeNothing : Obligations.RefusedRequestsChangeNothing := by
  intro s t c hrequest hexec hok hclamped
  obtain ⟨code, _, hanswered⟩ := answered_of_exec hrequest hexec
  generalize hnext : (Host.Outcome.next t : Host.Outcome State Fault Refusal) = o at hanswered
  cases hanswered with
  | refused st =>
    cases hnext
    exact ⟨rfl, rfl⟩
  | taken clamped bytes h =>
    cases hnext
    cases clamped with
    | true => exact absurd rfl hclamped
    | false => exact absurd rfl hok

/-- Settles O6: a denial sets no flag, and what every request that is taken makes is known. -/
theorem requestsSetNoRecordFlags : Obligations.RequestsSetNoRecordFlags := by
  intro s t c hrequest hexec
  obtain ⟨code, hcode, hanswered⟩ := answered_of_exec hrequest hexec
  rw [hcode]
  have hend : FlagsAllowed s code t := by
    generalize hnext : (Host.Outcome.next t : Host.Outcome State Fault Refusal) = o at hanswered
    cases hanswered with
    | refused st =>
      cases hnext
      exact flagsAllowed_of_same (.of_eq rfl rfl rfl) rfl rfl
    | taken clamped bytes h =>
      cases hnext
      exact ⟨h.records.trans (.of_eq rfl rfl rfl), h.list, h.floor⟩
  refine ⟨fun k l hl => hend.records.lums k l hl, fun i g hg => hend.records.segs i g hg,
    fun a n hn => hend.records.inputs a n hn, fun hset => ?_, fun hset => ?_⟩
  · simpa using hend.list hset
  · simpa using hend.floor hset

end Requests

end Sys2Proof.Machine
end

section
/-! SUPPORT. The bytes of every record, and the answers of the reads (R22, R110, R169, R173). -/

namespace Sys2Proof.Machine

section Records

theorem bitAt_eq (n : Nat) (b : Bool) : bitAt n b = 2 ^ n * b.toNat := by cases b <;> simp [bitAt]

theorem byte_mod (n : Nat) : byte (n % 256) = byte n := by
  refine BitVec.eq_of_toNat_eq ?_
  simp only [byte, BitVec.toNat_ofNat]
  omega

theorem refByte_map {α : Type} (o : Option α) (f : α → Nat) : refByte (o.map f) = byte ((o.map f).getD 0xFF) := rfl

theorem lumRecord_bytes {k : Nat} (hk : k < 128) (l : Luminaire) : lumRecord k l =
    let level := (l.composed.map (·.level)).getD 0xFFFF
    let reported := l.reportedCode.getD 0xFFFF
    let link := if l.link = .responding then 1 else if l.link = .silent then 2 else 0
    [byte (if k < 64 then k else 128 + (k - 64)),
     byte ((l.place.map (·.segment)).getD 0xFF), byte ((l.place.map (·.position)).getD 0xFF), byte l.trim,
     byte (l.minLevel / 256), byte l.minLevel, byte (l.maxLevel / 256), byte l.maxLevel,
     byte (level / 256), byte level, byte ((l.composed.map (·.code)).getD 0xFF), byte (l.sentCode.getD 0xFF),
     byte (reported / 256), byte reported,
     byte (link + 4 * (l.confirmation == .awaiting).toNat + 8 * l.lampFailed.toNat + 16 * l.hot.toNat
       + 32 * l.unconfirmed.toNat + 128 * l.changed.toNat),
     byte (l.missCount + 16 * l.mismatchCount)] := by
  have hlink : l.link.code = if l.link = .responding then 1 else if l.link = .silent then 2 else 0 := by
    cases l.link <;> rfl
  simp only [lumRecord, byteOfKey_eq hk, hlink, bitAt_eq]
  rfl

theorem segRecord_bytes (i : Nat) (g : Segment) : segRecord i g =
    let c := g.cfg
    let ctl := match g.ctl with | .forced => 0 | .tracking => 1 | .dwell => 2 | .daylit => 3 | .strike => 4
    let activity := match g.activity with | .occupied => 0 | .setback => 1 | .vacant => 2
    [byte i, byte c.row, byte (c.outer.getD 0xFF), byte (c.primary.getD 0xFF), byte (c.secondary.getD 0xFF),
     byte (if c.mode = .harvest then 1 else 0), byte (c.manualLevel / 256), byte c.manualLevel, byte (c.target / 256),
     byte c.target, byte c.tolerance, byte (c.relightMargin / 256), byte c.relightMargin, byte c.upStep, byte c.downStep,
     byte c.upInterval, byte c.downInterval, byte (c.cutOff / 256), byte c.cutOff, byte (c.offDelay / 256), byte c.offDelay,
     byte (c.strikeLevel / 256), byte c.strikeLevel, byte (c.fallback / 256), byte c.fallback,
     byte (c.sensorless / 256), byte c.sensorless, byte c.shortfallTime, byte (c.cap / 256), byte c.cap,
     byte c.sensing.toNat, byte c.occupancyHold, byte c.setbackTime, byte (c.setbackLevel / 256), byte c.setbackLevel,
     byte c.stationOff.toNat, byte (ctl + 16 * activity),
     byte (g.held.toNat + 2 * g.blind.toNat + 4 * g.shortfall.toNat + 8 * g.changed.toNat),
     byte (g.h / 256), byte g.h, byte (g.effCap / 256), byte g.effCap,
     byte (g.tally / 16777216), byte (g.tally / 65536), byte (g.tally / 256), byte g.tally] := by
  have hmode : g.cfg.mode.code = if g.cfg.mode = .harvest then 1 else 0 := by cases g.cfg.mode <;> rfl
  have hctl : g.ctl.code = match g.ctl with | .forced => 0 | .tracking => 1 | .dwell => 2 | .daylit => 3 | .strike => 4 := by
    cases g.ctl <;> rfl
  have hactivity : g.activity.code = match g.activity with | .occupied => 0 | .setback => 1 | .vacant => 2 := by
    cases g.activity <;> rfl
  simp only [segRecord, segBlock, hmode, hctl, hactivity, bitAt_eq, Nat.pow_zero, Nat.one_mul, bytes2, bytes4, refByte,
    List.cons_append, List.nil_append]
  rfl

/-- R18, R173: the four coverage bytes, 0 where there is no id. -/
theorem coverageBytes (ids : List Nat) :
    (ids.map byte ++ List.replicate 4 0#8).take 4
      = [byte (ids.getD 0 0), byte (ids.getD 1 0), byte (ids.getD 2 0), byte (ids.getD 3 0)] := by
  match ids with
  | [] | [_] | [_, _] | [_, _, _] | _ :: _ :: _ :: _ :: _ => rfl

theorem inputRecord_bytes (a : Nat) (n : Input) : inputRecord a n =
    let link := (match n.link with | .absent => 0 | .reporting => 1 | .wrongKind => 2) + 128 * n.changed.toNat
    match n.device with
    | .photo c m =>
      let f := m.acc / 256
      let f0 := m.f0.getD 0
      let state := match m.state with | .unseeded => 0 | .settling => 1 | .settled => 2 | .quarantined => 3
      [byte a, byte 1, byte n.interval, byte n.missLimit, byte c.shift, byte (c.tolerance / 256), byte c.tolerance,
       byte (c.spike / 256), byte c.spike, byte (c.ratio / 256), byte c.ratio, byte link, byte n.missCount,
       byte state, byte (f / 256), byte f, byte (f0 / 256), byte f0]
    | .presence ids last =>
      let report := match last with | none => 0 | some .quiet => 1 | some .motion => 2
      [byte a, byte 2, byte n.interval, byte n.missLimit, byte ids.length, byte (ids.getD 0 0), byte (ids.getD 1 0),
       byte (ids.getD 2 0), byte (ids.getD 3 0), byte 0, byte 0, byte link, byte n.missCount,
       byte report, byte 0, byte 0, byte 0, byte 0]
    | .station x hold button _ =>
      let shown := match button with
        | none => 0 | some .raise => 1 | some .lower => 2 | some .on => 3 | some .off => 4 | some .resume => 5
      [byte a, byte 3, byte n.interval, byte n.missLimit, byte x.segment, byte x.first, byte x.last,
       byte (hold / 256), byte hold, byte 0, byte 0, byte link, byte n.missCount,
       byte shown, byte 0, byte 0, byte 0, byte 0] := by
  have hlink : n.link.code = match n.link with | .absent => 0 | .reporting => 1 | .wrongKind => 2 := by
    cases n.link <;> rfl
  obtain ⟨device, interval, missLimit, link, missCount, pollTimer, changed⟩ := n
  cases device with
  | photo c m =>
    have hstate : m.state.code = match m.state with | .unseeded => 0 | .settling => 1 | .settled => 2 | .quarantined => 3 := by
      cases m.state <;> rfl
    simp only [inputRecord, deviceBlock, deviceRuntime, hlink, hstate, bitAt_eq]
    rfl
  | presence ids last =>
    simp only [inputRecord, deviceBlock, deviceRuntime, coverageBytes, hlink, bitAt_eq]
    rcases last with _ | _ | _ <;> rfl
  | station x hold button q =>
    simp only [inputRecord, deviceBlock, deviceRuntime, hlink, bitAt_eq]
    rcases button with _ | _ | _ | _ | _ | _ <;> rfl

theorem overrideBytes_bytes (o : Override) : overrideBytes o =
    let action := match o.action with | .set _ => 1 | .nudge _ => 2 | .off => 3
    let value := match o.action with | .set v => v | .nudge d => (d % 65536).toNat | .off => 0
    let hold := o.hold.getD 0xFFFF
    [byte (o.handle / 256), byte o.handle, (match o.origin with | .floor => byte 0xFF | .station a => byte a),
     byte (if o.cls = .occupant then 1 else 0), byte o.scope.segment, byte o.scope.first, byte o.scope.last,
     byte action, byte (value / 256), byte value, byte (hold / 256), byte hold] := by
  obtain ⟨handle, origin, cls, scope, action, hold⟩ := o
  cases cls <;> cases origin <;> cases action <;> rfl

/-! ## The answers -/

variable {s : State} {body : List Byte}

/-- A request that is answered and changes nothing else. -/
theorem next_of_answer {c : Instr} {st : Status} {code : Nat} {bytes : List Byte}
    (hexec : exec c s = done (answer st code bytes s)) :
    ∃ t, exec c s = .next t ∧ PortAnswers s t st code bytes ∧ t = { s with port := t.port } :=
  ⟨_, hexec, rfl, rfl⟩

theorem exec_readLuminaire {l : Luminaire} (hlen : 1 ≤ body.length) (hl : lum? s (keyOfByte (byteAt body 0)) = some l) :
    exec (.readLuminaire body) s = done (answer .ok 0x12 (lumRecord (keyOfByte (byteAt body 0)) l) s) := by
  simp only [exec, execReadLuminaire, if_neg (Nat.not_lt.mpr hlen), hl]

theorem exec_readSegment {g : Segment} (hlen : 1 ≤ body.length) (hid : byteAt body 0 ≤ 31) (hg : seg? s (byteAt body 0) = some g) :
    exec (.readSegment body) s = done (answer .ok 0x22 (segRecord (byteAt body 0) g) s) := by
  simp only [exec, execReadSegment, if_neg (Nat.not_lt.mpr hlen), if_neg (Nat.not_lt.mpr hid), hg]

theorem exec_readInput {n : Input} (hlen : 1 ≤ body.length) (hid : byteAt body 0 ≤ 47) (hn : input? s (byteAt body 0) = some n) :
    exec (.readInput body) s = done (answer .ok 0x32 (inputRecord (byteAt body 0) n) s) := by
  simp only [exec, execReadInput, if_neg (Nat.not_lt.mpr hlen), if_neg (Nat.not_lt.mpr hid), hn]

theorem readOverrides_short (hlen : body.length < 1) : exec (.readOverrides body) s = deny .badField 0x52 s := by
  simp only [exec, execReadOverrides, if_pos hlen]

theorem readOverrides_badIndex (hlen : 1 ≤ body.length) (hid : 23 < byteAt body 0) :
    exec (.readOverrides body) s = deny .badField 0x52 s := by
  simp only [exec, execReadOverrides, if_neg (Nat.not_lt.mpr hlen), if_pos hid]

theorem readOverrides_records (hlen : 1 ≤ body.length) (hid : byteAt body 0 ≤ 23) :
    exec (.readOverrides body) s = done (answer .ok 0x52
      (byte s.overrides.records.length :: ((s.overrides.records.drop (byteAt body 0)).take 8).flatMap overrideBytes) s) := by
  simp only [exec, execReadOverrides, if_neg (Nat.not_lt.mpr hlen), if_neg (Nat.not_lt.mpr hid)]

/-- R2: the luminaires of a line, counted. -/
theorem lumCount_eq (s : State) : lumCount .a s = (s.lums.filter (·.1 < 64)).length
    ∧ lumCount .b s = (s.lums.filter (64 ≤ ·.1)).length := by
  have hline (z : LineId) (p : Nat → Bool) (hp : ∀ k, (keyLine k == z) = p k) :
      lumCount z s = (s.lums.filter fun e => p e.1).length := by
    rw [lumCount, enrolledOn, List.filter_map, List.length_map]
    congr 2
    funext e
    exact hp e.1
  refine ⟨hline .a (fun k => decide (k < 64)) fun k => ?_, hline .b (fun k => decide (64 ≤ k)) fun k => ?_⟩
  all_goals
    unfold keyLine
    by_cases hk : k < 64
    · simp [hk, Nat.not_le.mpr hk, show (LineId.a == LineId.b) = false from rfl]
    · simp [hk, Nat.not_lt.mp hk, show (LineId.b == LineId.a) = false from rfl]

theorem floorBody_bytes (s : State) : floorBody s =
    [byte 0x32, byte 0x16,
     byte (s.port.coldStart.toNat + 2 * s.composer.shedAsserted.toNat + 4 * s.composer.floorCapOn.toNat),
     byte (s.composer.floorCap / 256), byte (s.composer.floorCap % 256),
     byte ((s.lineA.state == .down).toNat + 2 * (s.lineB.state == .down).toNat + 4 * (s.inputLine.state == .down).toNat),
     byte ((s.inputLine.spotRequest.any (! ·.inFlight)).toNat + 2 * (s.inputLine.spotRequest.any (·.inFlight)).toNat
            + 4 * s.inputLine.spotResult.isSome.toNat),
     byte (s.lums.filter (·.1 < 64)).length, byte (s.lums.filter (64 ≤ ·.1)).length,
     byte s.segs.length, byte s.inputs.length] := by
  have hspot (p : SpotRequest → Bool) :
      (s.inputLine.spotRequest.map p).getD false = s.inputLine.spotRequest.any p := by
    cases s.inputLine.spotRequest <;> rfl
  simp only [floorBody, bitAt_eq, (lumCount_eq s).1, (lumCount_eq s).2, hspot, byte_mod, Nat.pow_zero, Nat.one_mul]
  rfl

/-- Settles O24, record by record and read by read. -/
theorem readsAnswerTheRecords : Obligations.ReadsAnswerTheRecords := by
  refine ⟨fun k l hk => lumRecord_bytes hk l, segRecord_bytes, inputRecord_bytes, overrideBytes_bytes,
    fun s body => ⟨next_of_answer rfl, fun hlen => ⟨fun l hl => next_of_answer (exec_readLuminaire hlen hl),
      fun hid g hg => next_of_answer (exec_readSegment hlen hid hg),
      fun hid n hn => next_of_answer (exec_readInput hlen hid hn), ?overrides⟩,
      fun hlen => next_of_answer (readOverrides_short hlen), ?floor⟩⟩
  case overrides =>
    by_cases hid : byteAt body 0 ≤ 23
    · obtain ⟨t, hexec, hport, hrest⟩ := next_of_answer (readOverrides_records (s := s) hlen hid)
      exact ⟨t, hexec, fun hbad => absurd hbad (Nat.not_lt.mpr hid), fun _ => hport, hrest⟩
    · obtain ⟨t, hexec, hport, hrest⟩ := next_of_answer (readOverrides_badIndex (s := s) hlen (Nat.not_le.mp hid))
      exact ⟨t, hexec, fun _ => hport, fun hok => absurd hok hid, hrest⟩
  case floor =>
    have hattn : attnLevel { s with port := { s.port with coldStart := false } } = anyChange s := Bool.or_false _
    refine ⟨_, rfl, ?_⟩
    rw [← floorBody_bytes, withAttn, attnLevel_answer, hattn]
    rfl

end Records

end Sys2Proof.Machine
end

section
/-! SUPPORT. Numeric settings taken from a masked body (R3, R177), and the requests on a luminaire's place (R6, R10). -/

namespace Sys2Proof.Machine

/-! ## Numeric settings -/

section Numbers

variable {lo hi held mask bit v : Nat}

theorem takeNum_carried (lo hi held mask bit v : Nat) :
    takeNum lo hi held (carriedAt mask bit v) =
      (if mask.testBit bit then max lo (min v hi) else held,
        decide (mask.testBit bit = true ∧ max lo (min v hi) ≠ v)) := by
  unfold carriedAt
  cases mask.testBit bit with
  | true =>
    simp [takeNum, clampTo]
    rfl
  | false => simp [takeNum]

theorem takeAbove_carried (lo hi held mask bit v : Nat) :
    takeAbove lo hi held (carriedAt mask bit v) =
      (if mask.testBit bit then max lo (min v hi) else max held lo,
        decide (if mask.testBit bit then max lo (min v hi) ≠ v else held < lo)) := by
  unfold carriedAt
  cases mask.testBit bit with
  | true =>
    simp [takeAbove, clampTo]
    rfl
  | false => simp [takeAbove]

/-- R3: OK where no value was clamped or adjusted. -/
theorem okOr_eq {b : Bool} {p : Prop} [Decidable p] (h : b = false ↔ p) : okOr b = if p then .ok else .clamped := by
  cases b with
  | true => rw [if_neg fun hp => absurd (h.mpr hp) nofun]; rfl
  | false => rw [if_pos (h.mp rfl)]; rfl

end Numbers

/-! ## The settings of a luminaire (R6, R7) -/

section Luminaires

variable {s : State} {body : List Byte} {l : Luminaire}

/-- R7: the minimum that a request leaves. -/
def takenMin (body : List Byte) (held : Nat) : Nat :=
  if (byteAt body 1).testBit 3 then max 1 (min (word2At body 5) 300) else held

/-- R7: a luminaire's record with the settings of a request. -/
def takenLum (body : List Byte) (l : Luminaire) : Luminaire :=
  { l with
    trim := if (byteAt body 1).testBit 2 then max 50 (min (byteAt body 4) 150) else l.trim
    minLevel := takenMin body l.minLevel
    maxLevel :=
      if (byteAt body 1).testBit 4 then max (takenMin body l.minLevel) (min (word2At body 7) 1000)
      else max l.maxLevel (takenMin body l.minLevel) }

theorem takeLumNumbers_record (body : List Byte) (l : Luminaire) :
    (takeLumNumbers (lumFields body) l).1 = takenLum body l := by
  simp only [takeLumNumbers, lumFields, takeNum_carried, takeAbove_carried]
  rfl

/-- R3, R7: no setting was clamped, and the maximum was not raised. -/
theorem takeLumNumbers_exact (body : List Byte) (l : Luminaire) :
    (takeLumNumbers (lumFields body) l).2 = false ↔
      ((byteAt body 1).testBit 2 = true → (takenLum body l).trim = byteAt body 4)
        ∧ ((byteAt body 1).testBit 3 = true → takenMin body l.minLevel = word2At body 5)
        ∧ (if (byteAt body 1).testBit 4 then (takenLum body l).maxLevel = word2At body 7
            else (takenLum body l).maxLevel = l.maxLevel) := by
  simp only [takeLumNumbers, lumFields, takeNum_carried, takeAbove_carried, takenLum, takenMin, Bool.or_eq_false_iff,
    decide_eq_false_iff_not, and_assoc]
  refine and_congr ?_ (and_congr ?_ ?_)
  · cases (byteAt body 1).testBit 2 <;> simp
  · cases (byteAt body 1).testBit 3 <;> simp
  · cases (byteAt body 1).testBit 4 <;> simp

/-- R6: the record that an enrolment creates. -/
theorem exec_enrolLuminaire (hlen : 9 ≤ body.length) (hnone : lum? s (keyOfByte (byteAt body 0)) = none)
    (hseg : (byteAt body 1).testBit 0 = false) (hpos : (byteAt body 1).testBit 1 = false) :
    exec (.enrolLuminaire body) s =
      done (answer (okOr (takeLumNumbers (lumFields body) freshLum).2) 0x10
        (lumRecord (keyOfByte (byteAt body 0)) (takenLum body freshLum))
        (putLum (keyOfByte (byteAt body 0)) (takenLum body freshLum) s)) := by
  have hcarries : ((lumFields body).segment.isSome || (lumFields body).position.isSome) = false := by
    simp [lumFields, carriedAt, hseg, hpos]
  simp only [exec, execEnrolLuminaire, if_neg (Nat.not_lt.mpr hlen), hnone, hcarries, Bool.false_eq_true, if_false,
    takeLumNumbers_record]

theorem takenMin_le (h : l.minLevel ≤ 300) (body : List Byte) : takenMin body l.minLevel ≤ 300 := by
  unfold takenMin
  split <;> omega

theorem exec_retireLuminaire (hlen : 1 ≤ body.length) (hl : (lum? s (keyOfByte (byteAt body 0))).isSome = true) :
    exec (.retireLuminaire body) s =
      done (answer .ok 0x13 []
        { forgetLum (keyOfByte (byteAt body 0)) s with
          lums := tabDel (forgetLum (keyOfByte (byteAt body 0)) s).lums (keyOfByte (byteAt body 0)) }) := by
  obtain ⟨l, hl⟩ := Option.isSome_iff_exists.mp hl
  simp only [exec, execRetireLuminaire, if_neg (Nat.not_lt.mpr hlen), hl]

/-- Settles O26: the records put and deleted, and the line that forgets. -/
theorem luminairesAreEnrolledAndRetired : Obligations.LuminairesAreEnrolledAndRetired := by
  refine ⟨fun s body hlen hnone hseg hpos => ?_, fun s body hlen hl => ?_⟩
  · intro k mask lo new exact'
    have hnew : takenLum body freshLum = new := by
      have hlo : takenMin body freshLum.minLevel ≤ 300 := takenMin_le (by decide) body
      have hmax : max freshLum.maxLevel (takenMin body freshLum.minLevel) = 1000 := max_eq_left (by
        have : freshLum.maxLevel = 1000 := rfl
        omega)
      unfold takenLum
      rw [hmax]
      rfl
    have hexact : (takeLumNumbers (lumFields body) freshLum).2 = false ↔ exact' := by
      rw [takeLumNumbers_exact, hnew]
      refine and_congr_right fun _ => and_congr_right fun _ => ?_
      by_cases hbit : mask.testBit 4 = true
      · rw [if_pos hbit]
        exact ⟨fun h _ => h, fun h => h hbit⟩
      · rw [if_neg hbit]
        refine ⟨fun _ h => absurd h hbit, fun _ => ?_⟩
        exact if_neg hbit
    refine ⟨_, exec_enrolLuminaire hlen hnone hseg hpos, ?_, fun j hj => ?_, ⟨rfl, rfl, rfl, rfl, rfl, rfl, rfl⟩, rfl, rfl, ?_⟩
    · rw [← hnew]
      exact lum?_putLum_self _ _ _
    · exact lum?_putLum_ne _ _ hj
    · rw [okOr_eq hexact, hnew]
      rfl
  · intro k line
    have hline (i : LineId) : lineOf i { forgetLum k s with lums := tabDel (forgetLum k s).lums k } = lineOf i (forgetLum k s) := by
      cases i <;> rfl
    have hlums : (forgetLum k s).lums = s.lums := putLine_lums _ _ _
    refine ⟨_, exec_retireLuminaire hlen hl, ?_, fun j hj => ?_, ?_, ?_, fun i hi => ?_, ?_⟩
    · exact tabGet_del_self _ _
    · refine (tabGet_del_ne _ hj).trans ?_
      rw [hlums]
      rfl
    · obtain ⟨hsegs, hlist, hinputs, hinput⟩ := (putLine_lumsOnly (keyLine k) _ s).records
      exact ⟨hsegs, hinputs, hlist, putLine_composer _ _ _, hinput, putLine_time _ _ _, putLine_pending _ _ _⟩
    · rw [lineOf_withAttn, lineOf_answer, hline]
      exact lineOf_putLine_self _ _ _
    · rw [lineOf_withAttn, lineOf_answer, hline]
      exact lineOf_putLine_ne hi _ _
    · exact congrArg (fun p : Port => ({ p with offered := _, attn := _ } : Port)) (putLine_port _ _ _)

end Luminaires

end Sys2Proof.Machine
end

section
/-! SUPPORT. AMEND LUMINAIRE (R7 to R9): the assignment that a request gives, and what it makes of the record and its line. -/

namespace Sys2Proof.Machine

section Amend

variable {s t : State} {body : List Byte} {k : Nat} {l m new : Luminaire} {line : FixtureLine} {p : Place} {g : Segment}

/-- A luminaire's record and its line are replaced, and nothing else changes. -/
structure LumReplaced (s : State) (k : Nat) (new : Luminaire) (line : FixtureLine) (t : State) : Prop where
  record : lum? t k = some new
  line : lineOf (keyLine k) t = line
  others : OtherLumsSame s t k
  lines : ∀ i : LineId, i ≠ keyLine k → lineOf i t = lineOf i s
  rest : SameButFixtures s t
  port : t.port = s.port

theorem lumReplaced_refl (hl : lum? s k = some l) : LumReplaced s k l (lineOf (keyLine k) s) s :=
  ⟨hl, rfl, fun _ _ => rfl, fun _ _ => rfl, ⟨rfl, rfl, rfl, rfl, rfl, rfl, rfl⟩, rfl⟩

theorem lumReplaced_put (s : State) (k : Nat) (new : Luminaire) (line : FixtureLine) :
    LumReplaced s k new line (putLine (keyLine k) line (putLum k new s)) where
  record := by rw [lum?_putLine, lum?_putLum_self]
  line := lineOf_putLine_self _ _ _
  others j hj := by rw [lum?_putLine, lum?_putLum_ne _ _ hj]
  lines i hi := by rw [lineOf_putLine_ne hi, lineOf_putLum]
  rest := ⟨putLine_segs _ _ _, putLine_inputs _ _ _, putLine_overrides _ _ _, putLine_composer _ _ _,
    putLine_inputLine _ _ _, putLine_time _ _ _, putLine_pending _ _ _⟩
  port := putLine_port _ _ _

theorem lumReplaced_putLum (s : State) (k : Nat) (new : Luminaire) :
    LumReplaced s k new (lineOf (keyLine k) s) (putLum k new s) := by
  have hput := lumReplaced_put s k new (lineOf (keyLine k) (putLum k new s))
  rw [putLine_lineOf, lineOf_putLum] at hput
  exact hput

/-- R127, R128: what an amendment that assigns a luminaire to a place makes of its record and its line. -/
theorem amendLum_assigned (hp : m.place = some p) (hg : seg? s p.segment = some g) (hm : m ≠ l) :
    LumReplaced s k (recomposedLum m (composedAt s g p m))
      (if FreshCode m (composedAt s g p m) then handedLine (lineOf (keyLine k) s) k (composedAt s g p m).code
        else lineOf (keyLine k) s)
      (amendLum k l m s) := by
  have hcomposed : composedAt (putLum k m s) g p m = composedAt s g p m := rfl
  have hamended : amendLum k l m s = recomposeLum k (putLum k m s) := by
    unfold amendLum
    rw [if_neg hm, hp]
  rw [hamended, recomposeLum_eq (lum?_putLum_self k m s) hp hg, hcomposed, putLum_putLum, lineOf_putLum]
  split
  · exact lumReplaced_put s k _ _
  · exact lumReplaced_putLum s k _

/-- R9: what an amendment that leaves a luminaire unassigned makes of its record and its line. -/
theorem amendLum_unassigned (hp : m.place = none) (hm : m ≠ l) :
    LumReplaced s k { m with composed := none }
      { lineOf (keyLine k) s with queue := (lineOf (keyLine k) s).queue.filter (·.key != k) } (amendLum k l m s) := by
  have hamended : amendLum k l m s = dropEntry k (putLum k { m with composed := none } s) := by
    unfold amendLum
    rw [if_neg hm, hp]
  rw [hamended, dropEntry, lineOf_putLum]
  exact lumReplaced_put s k _ _

/-! ## The checks of a request that passes them -/

theorem positionHeld_false (h : ∀ e ∈ s.lums, e.1 ≠ k → e.2.place ≠ some p) : positionHeld s k p = false := by
  refine List.any_eq_false.mpr fun e he hheld => ?_
  simp only [Bool.and_eq_true, bne_iff_ne, beq_iff_eq] at hheld
  exact h e he hheld.1 hheld.2

/-- R8: no other luminaire holds the position that a request names. -/
theorem amended_free (hfree : (byteAt body 1).testBit 0 = true ∨ (byteAt body 1).testBit 1 = true →
      ∀ e ∈ s.lums, e.1 ≠ k → e.2.place ≠ some p) :
    (((lumFields body).segment.isSome || (lumFields body).position.isSome)
      && ((some p).map (positionHeld s k)).getD false) = false := by
  rw [Option.map_some, Option.getD_some]
  by_cases hcarried : (byteAt body 1).testBit 0 = true ∨ (byteAt body 1).testBit 1 = true
  · rw [positionHeld_false (hfree hcarried), Bool.and_false]
  · obtain ⟨hseg, hbit⟩ := not_or.mp hcarried
    simp [lumFields, carriedAt, hseg, hbit]

/-- R3: an amendment that passes its checks. -/
theorem exec_amendLuminaire {place : Option Place} (hlen : 9 ≤ body.length) (hl : lum? s (keyOfByte (byteAt body 0)) = some l)
    (hplace : amendedPlace s l (lumFields body) = .ok place)
    (hfree : (((lumFields body).segment.isSome || (lumFields body).position.isSome)
      && (place.map (positionHeld s (keyOfByte (byteAt body 0)))).getD false) = false) :
    exec (.amendLuminaire body) s =
      done (answer (okOr (takeLumNumbers (lumFields body) { l with place := place }).2) 0x11
        (lumAnswer (keyOfByte (byteAt body 0))
          (amendLum (keyOfByte (byteAt body 0)) l (takenLum body { l with place := place }) s))
        (amendLum (keyOfByte (byteAt body 0)) l (takenLum body { l with place := place }) s)) := by
  simp only [exec, execAmendLuminaire, if_neg (Nat.not_lt.mpr hlen), hl, hplace, hfree, Bool.false_eq_true, if_false,
    takeLumNumbers_record]

/-- R8, R7: the assignment of a request that names a place, or that keeps the one there is. -/
theorem amendedPlace_named (hg : (seg? s p.segment).isSome = true)
    (hpos : (byteAt body 1).testBit 1 = true → p.position ≤ 15)
    (hp : (if (byteAt body 1).testBit 0 then
        (if (byteAt body 1).testBit 1 ∧ byteAt body 2 ≤ 31 then some (⟨byteAt body 2, byteAt body 3⟩ : Place) else none)
      else if (byteAt body 1).testBit 1 then l.place.map fun q => ⟨q.segment, byteAt body 3⟩
      else l.place) = some p) :
    amendedPlace s l (lumFields body) = .ok (some p) := by
  cases hseg : (byteAt body 1).testBit 0 with
  | true =>
    simp only [hseg, if_true, Option.ite_none_right_eq_some, Option.some.injEq] at hp
    obtain ⟨⟨hbit, hid⟩, rfl⟩ := hp
    have h255 : byteAt body 2 ≠ 255 := by omega
    simp [amendedPlace, lumFields, carriedAt, hseg, hbit, h255, hid, hg, hpos hbit]
  | false =>
    cases hbit : (byteAt body 1).testBit 1 with
    | true =>
      simp only [hseg, hbit, Bool.false_eq_true, if_false, if_true, Option.map_eq_some_iff] at hp
      obtain ⟨q, hq, rfl⟩ := hp
      simp [amendedPlace, lumFields, carriedAt, hseg, hbit, hq, hpos hbit]
    | false =>
      simp only [hseg, hbit, Bool.false_eq_true, if_false] at hp
      simp [amendedPlace, lumFields, carriedAt, hseg, hbit, hp]

/-- R9, R7: none as the segment, or nothing at an unassigned luminaire. -/
theorem amendedPlace_none
    (h : ((byteAt body 1).testBit 0 = true ∧ (byteAt body 1).testBit 1 = false ∧ byteAt body 2 = 255)
      ∨ ((byteAt body 1).testBit 0 = false ∧ (byteAt body 1).testBit 1 = false ∧ l.place = none)) :
    amendedPlace s l (lumFields body) = .ok none := by
  rcases h with ⟨hseg, hbit, h255⟩ | ⟨hseg, hbit, hnone⟩
  · simp [amendedPlace, lumFields, carriedAt, hseg, hbit, h255]
  · simp [amendedPlace, lumFields, carriedAt, hseg, hbit, hnone]

/-- R3: the answer to an amendment whose record and line are known. -/
theorem next_of_amended {clamped : Bool} {p : Prop} [Decidable p]
    (hexec : exec (.amendLuminaire body) s = done (answer (okOr clamped) 0x11 (lumAnswer k t) t))
    (ht : LumReplaced s k new line t) (hexact : clamped = false ↔ p) :
    ∃ u, exec (.amendLuminaire body) s = .next u ∧ lum? u k = some new ∧ lineOf (keyLine k) u = line
      ∧ OtherLumsSame s u k ∧ SameButFixtures s u ∧ (∀ i : LineId, i ≠ keyLine k → lineOf i u = lineOf i s)
      ∧ PortAnswers s u (if p then .ok else .clamped) 0x11 (lumRecord k new) := by
  refine ⟨_, hexec, ht.record, ?_, ht.others, ht.rest, fun i hi => ?_, ?_⟩
  · rw [lineOf_withAttn, lineOf_answer, ht.line]
  · rw [lineOf_withAttn, lineOf_answer, ht.lines i hi]
  · rw [lumAnswer, ht.record, okOr_eq hexact]
    exact congrArg (fun q : Port => ({ q with offered := _, attn := _ } : Port)) ht.port

/-- R127: the record recomposed, where the amended record holds the old composed fields and the amendment moves something. -/
theorem recomposedLum_moved {q : Prop} [Decidable q] (hc : m.composed = l.composed) (hu : m.unconfirmed = l.unconfirmed)
    (hn : m.mismatchCount = l.mismatchCount) (hq : q) (c : Composed) :
    recomposedLum m c =
      { m with
        composed := some c
        unconfirmed := if q ∧ l.composed.map (·.code) ≠ some c.code then false else l.unconfirmed
        mismatchCount := if q ∧ l.composed.map (·.code) ≠ some c.code then 0 else l.mismatchCount } := by
  have hfresh : (q ∧ l.composed.map (·.code) ≠ some c.code) ↔ FreshCode m c := by rw [FreshCode, hc]; exact and_iff_right hq
  simp only [recomposedLum, hfresh, hu, hn]

theorem if_freshCode {q : Prop} [Decidable q] {c : Composed} (hq : q) (m : Luminaire) (handed kept : FixtureLine) :
    (if FreshCode m c then handed else kept) = if q ∧ m.composed.map (·.code) ≠ some c.code then handed else kept := by
  simp only [FreshCode, hq, true_and]

/-- Settles O25, by the place that the request gives and by what the amendment makes of the record there. -/
theorem amendLuminaireAssignsAndUnassigns : Obligations.AmendLuminaireAssignsAndUnassigns := by
  intro s body hlen k mask line l hl lo taken exact' named leaves stays rest
  have hl : lum? s k = some l := hl
  have htaken (place : Option Place) : takenLum body { l with place := place } = { taken with place := place } := rfl
  have hexact (place : Option Place) :
      (takeLumNumbers (lumFields body) { l with place := place }).2 = false ↔ exact' := takeLumNumbers_exact body _
  refine ⟨fun p hp g hg hpos hfree => ?_, fun hnone => ?_⟩
  · have hg : seg? s p.segment = some g := hg
    have hexec := exec_amendLuminaire hlen hl (amendedPlace_named (by rw [hg]; rfl) hpos hp) (amended_free hfree)
    rw [htaken] at hexec
    by_cases hmoves : { taken with place := some p } = l
    · have hsame : amendLum k l { taken with place := some p } s = s := if_pos hmoves
      rw [hsame] at hexec
      obtain ⟨t, ht, hrecord, hline, hrest⟩ := next_of_amended hexec (lumReplaced_refl hl) (hexact (some p))
      exact ⟨t, ht, by rw [hrecord, if_neg (not_not_intro hmoves)], by rw [hline, if_neg fun h => h.1 hmoves],
        by rw [if_neg (not_not_intro hmoves)]; exact ⟨hrest.1, hrest.2.1, hrest.2.2.1, hrest.2.2.2⟩⟩
    · obtain ⟨t, ht, hrecord, hline, hrest⟩ :=
        next_of_amended hexec (amendLum_assigned (m := { taken with place := some p }) rfl hg hmoves) (hexact (some p))
      have hnew := recomposedLum_moved (l := l) (m := { taken with place := some p }) (q := { taken with place := some p } ≠ l) rfl rfl rfl hmoves
        (composedAt s g p { taken with place := some p })
      rw [hnew] at hrecord hrest
      exact ⟨t, ht, by rw [hrecord, if_pos hmoves]; rfl, hline.trans (if_freshCode hmoves _ _ _),
        by rw [if_pos hmoves]; exact ⟨hrest.1, hrest.2.1, hrest.2.2.1, hrest.2.2.2⟩⟩
  · have hexec := exec_amendLuminaire hlen hl (amendedPlace_none hnone) (Bool.and_false _)
    rw [htaken] at hexec
    by_cases hbare : { taken with place := none } = l
    · have hsame : amendLum k l { taken with place := none } s = s := if_pos hbare
      rw [hsame] at hexec
      obtain ⟨t, ht, hrecord, hline, hrest⟩ := next_of_amended hexec (lumReplaced_refl hl) (hexact none)
      exact ⟨t, ht, by rw [hrecord, if_pos hbare], by rw [hline, if_pos hbare],
        by rw [if_pos hbare]; exact ⟨hrest.1, hrest.2.1, hrest.2.2.1, hrest.2.2.2⟩⟩
    · obtain ⟨t, ht, hrecord, hline, hrest⟩ :=
        next_of_amended hexec (amendLum_unassigned (m := { taken with place := none }) rfl hbare) (hexact none)
      exact ⟨t, ht, by rw [hrecord, if_neg hbare], by rw [hline, if_neg hbare],
        by rw [if_neg hbare]; exact ⟨hrest.1, hrest.2.1, hrest.2.2.1, hrest.2.2.2⟩⟩

end Amend

end Sys2Proof.Machine
end

section
/-! SUPPORT. A fixture line goes DOWN and recovers (R147, R148): its luminaires, and the queue of a full refresh. -/

namespace Sys2Proof.Machine

section Refresh

variable {s : State} {i : LineId} {k : Nat}

/-- R148: the entry that a full refresh makes of a place of the table. -/
def refreshEntry (i : LineId) (e : Nat × Luminaire) : Option QueueEntry :=
  if keyLine e.1 = i ∧ e.2.place.isSome = true then e.2.composed.map fun c => ⟨e.1, c.code⟩ else none

theorem key_of_refreshEntry {e : Nat × Luminaire} {q : QueueEntry} (h : refreshEntry i e = some q) : q.key = e.1 := by
  simp only [refreshEntry, Option.ite_none_right_eq_some, Option.map_eq_some_iff] at h
  obtain ⟨_, c, _, rfl⟩ := h
  rfl

theorem coalesce_new {q : List QueueEntry} (h : ∀ e ∈ q, e.key ≠ k) (code : Nat) : coalesce q k code = q ++ [⟨k, code⟩] :=
  if_neg fun hany => by
    obtain ⟨e, he, hkey⟩ := List.any_eq_true.mp hany
    exact h e he (beq_iff_eq.mp hkey)

theorem putLine_unqueued (i : LineId) (s : State) :
    putLine i { lineOf i s with queue := (lineOf i s).queue ++ [] } s = s := by
  rw [List.append_nil]
  exact putLine_lineOf i s

theorem refreshOne_eq {l : Luminaire} (hl : lum? s k = some l) (hk : keyLine k = i) (hrun : (lineOf i s).state = .running)
    (hnew : ∀ q ∈ (lineOf i s).queue, q.key ≠ k) :
    refreshOne k s =
      putLine i { lineOf i s with queue := (lineOf i s).queue ++ (refreshEntry i (k, l)).toList } s := by
  unfold refreshOne refreshEntry
  rw [onLum_some hl]
  cases hp : l.place with
  | none =>
    simp only [Option.isSome_none, Bool.false_eq_true, and_false, if_false, Option.toList_none]
    exact (putLine_unqueued i s).symm
  | some p =>
    cases hc : l.composed with
    | none =>
      simp only [Option.map_none, ite_self, Option.toList_none]
      exact (putLine_unqueued i s).symm
    | some c =>
      subst hk
      simp only [enqueue_eq, if_pos hrun, coalesce_new hnew, Option.isSome_some, and_self, if_true, Option.map_some,
        Option.toList_some]

/-- R148: the entries join a RUNNING line one after another, as the table has them. -/
theorem forEach_refreshOne {places : Tab Luminaire} (hl : ∀ e ∈ places, lum? s e.1 = some e.2)
    (hkeys : places.Pairwise fun a b => a.1 < b.1) (hrun : (lineOf i s).state = .running)
    (hnew : ∀ e ∈ places, ∀ q ∈ (lineOf i s).queue, q.key ≠ e.1) :
    forEach ((places.map (·.1)).filter fun k => keyLine k == i) refreshOne s =
      putLine i { lineOf i s with queue := (lineOf i s).queue ++ places.filterMap (refreshEntry i) } s := by
  induction places generalizing s with
  | nil => exact (putLine_unqueued i s).symm
  | cons e places ih =>
    obtain ⟨hlt, hkeys⟩ := List.pairwise_cons.mp hkeys
    have hrest : ∀ f ∈ places, lum? s f.1 = some f.2 := fun f hf => hl f (List.mem_cons_of_mem _ hf)
    have hnewRest : ∀ f ∈ places, ∀ q ∈ (lineOf i s).queue, q.key ≠ f.1 := fun f hf => hnew f (List.mem_cons_of_mem _ hf)
    by_cases hk : keyLine e.1 = i
    · have hjoined := ih (s := putLine i { lineOf i s with queue := (lineOf i s).queue ++ (refreshEntry i e).toList } s)
        (fun f hf => (lum?_putLine i _ s f.1).trans (hrest f hf)) hkeys (by rw [lineOf_putLine_self]; exact hrun)
        (by
          rw [lineOf_putLine_self]
          intro f hf q hq
          rcases List.mem_append.mp hq with hq | hq
          · exact hnewRest f hf q hq
          · rw [key_of_refreshEntry (Option.mem_toList.mp hq)]
            exact Nat.ne_of_lt (hlt f hf))
      rw [lineOf_putLine_self, putLine_putLine, List.append_assoc] at hjoined
      rw [List.map_cons, List.filter_cons_of_pos (by simpa using hk), forEach_cons,
        refreshOne_eq (hl e List.mem_cons_self) hk hrun (hnew e List.mem_cons_self), hjoined]
      cases hentry : refreshEntry i e <;> simp [hentry]
    · have hskip : refreshEntry i e = none := if_neg fun h => hk h.1
      rw [List.map_cons, List.filter_cons_of_neg (by simpa using hk), List.filterMap_cons_none hskip]
      exact ih hrest hkeys hrun hnewRest

/-- R148: the full refresh of a RUNNING line with an empty queue. -/
theorem fullRefresh_running (ht : tabWf 128 s.lums) (hrun : (lineOf i s).state = .running) (hq : (lineOf i s).queue = []) :
    fullRefresh i s = putLine i (chooseFrame { lineOf i s with queue := s.lums.filterMap (refreshEntry i) }) s := by
  rw [fullRefresh_eq, enrolledOn,
    forEach_refreshOne (fun e he => tabGet_of_mem ht.1 he) ht.1 hrun (by simp [hq]), hq, List.nil_append, arbitrate_putLine]

/-- R147: what a DOWN line makes of the luminaires of a list. -/
theorem lum?_forEach_lumDown (ks : List Nat) (s : State) (j : Nat) :
    lum? (forEach ks (fun k => onLum k fun l => putLum k (lumDown l)) s) j =
      (lum? s j).map fun l => if j ∈ ks then lumDown l else l := by
  induction ks generalizing s with
  | nil => simp [forEach]
  | cons k ks ih =>
    rw [forEach_cons, ih]
    have hone : lum? (onLum k (fun l => putLum k (lumDown l)) s) j =
        (lum? s j).map fun l => if j = k then lumDown l else l := by
      cases hk : lum? s k with
      | none =>
        rw [onLum_none hk]
        by_cases hj : j = k
        · rw [hj, hk, Option.map_none]
        · simp [hj]
      | some l =>
        rw [onLum_some hk, lum?_putLum]
        by_cases hj : j = k
        · rw [if_pos hj, hj, hk, Option.map_some, if_pos rfl]
        · simp [hj]
    rw [hone, Option.map_map]
    congr 1
    funext l
    by_cases hk : j = k <;> by_cases hj : j ∈ ks <;> simp [hk, hj, lumDown]

theorem lineOf_forEach_lumDown (ks : List Nat) (s : State) (z : LineId) :
    lineOf z (forEach ks (fun k => onLum k fun l => putLum k (lumDown l)) s) = lineOf z s :=
  forEach_keeps (P := fun u => lineOf z u = lineOf z s)
    (fun k _ u hu => onLum_rel (R := fun _ v => lineOf z v = lineOf z s) hu fun l _ => by rw [lineOf_putLum, hu]) rfl

theorem mem_enrolledOn {l : Luminaire} (hl : lum? s k = some l) : k ∈ enrolledOn i s ↔ keyLine k = i := by
  have hmem : k ∈ s.lums.map (·.1) := List.mem_map_of_mem (mem_of_tabGet hl)
  simp [enrolledOn, hmem]

/-! ## The line's own events -/

theorem goDown_rest (i : LineId) (s : State) : SameButFixtures s (goDown i s) := by
  obtain ⟨hsegs, hlist, hinputs, hline⟩ := (goDown_lumsOnly i s).records
  obtain ⟨hcomposer, htime, hpending, _⟩ := (goDown_lumsOnly i s).rest
  exact ⟨hsegs, hinputs, hlist, hcomposer, hline, htime, hpending⟩

theorem lum?_goDown (i : LineId) (s : State) (k : Nat) :
    lum? (goDown i s) k = (lum? s k).map fun l => if keyLine k = i then lumDown l else l := by
  have hforEach : lum? (goDown i s) k = (lum? s k).map fun l => if k ∈ enrolledOn i s then lumDown l else l :=
    (lum?_putLine i _ _ k).trans (lum?_forEach_lumDown _ s k)
  rw [hforEach]
  cases hl : lum? s k with
  | none => rfl
  | some l => simp only [Option.map_some, mem_enrolledOn hl]

theorem lineOf_goDown (i : LineId) (s : State) (z : LineId) :
    lineOf z (goDown i s) =
      if z = i then { lineOf i s with state := .down, queue := [], confirm := [], slot := none, flight := none }
      else lineOf z s := by
  rw [goDown, lineOf_flagFloor, lineOf_putLine, lineOf_forEach_lumDown]

theorem goDown_port (i : LineId) (s : State) : (goDown i s).port = { s.port with floorChanged := true } := by
  have hport := goDown_lumsOnly i s
  unfold LumsOnly at hport
  rw [hport]
  rfl

/-- ATTN is asserted while the floor change flag is set (R169). -/
theorem withAttn_flagged {t : State} {p : Port} (h : t.port = { p with floorChanged := true }) :
    (withAttn t).port = { p with floorChanged := true, attn := true } := by
  have hattn : attnLevel t = true := by simp [attnLevel, anyChange, h]
  rw [withAttn_port, hattn, h]

theorem sameButFixtures_withAttn {t : State} (h : SameButFixtures s t) : SameButFixtures s (withAttn t) := h

/-- R148: a line whose queue is empty recovers. -/
theorem recovery_eq (ht : tabWf 128 s.lums) (hq : (lineOf i s).queue = []) :
    fullRefresh i (flagFloor (putLine i { lineOf i s with state := .running } s)) =
      putLine i (chooseFrame { lineOf i s with state := .running, queue := s.lums.filterMap (refreshEntry i) })
        (flagFloor s) := by
  have hline : lineOf i (flagFloor (putLine i { lineOf i s with state := .running } s)) =
      { lineOf i s with state := .running } := by rw [lineOf_flagFloor, lineOf_putLine_self]
  have hlums : (flagFloor (putLine i { lineOf i s with state := .running } s)).lums = s.lums := by cases i <;> rfl
  have hput (m n : FixtureLine) : putLine i m (flagFloor (putLine i n s)) = putLine i m (flagFloor s) := by cases i <;> rfl
  rw [fullRefresh_running (hlums ▸ ht) (by rw [hline]) (by rw [hline]; exact hq), hline, hlums, hput]

/-- Settles O60, event by event. -/
theorem fixtureLinesGoDownAndRecover : Obligations.FixtureLinesGoDownAndRecover := by
  intro s i htables hlines line others
  refine ⟨fun hstate hrx => ?_, fun hstate hrx => ?_, fun hrx => ?_, ?_⟩
  · have hexec : exec (.fixtureLineDown i) s = done (goDown i s) := if_pos ⟨hstate, hrx⟩
    refine ⟨_, hexec, ?_, fun k => lum?_goDown i s k, withAttn_flagged (goDown_port i s), goDown_rest i s, fun j hj => ?_⟩
    · rw [lineOf_withAttn, lineOf_goDown, if_pos rfl]
    · rw [lineOf_withAttn, lineOf_goDown, if_neg hj]
  · have hq : (lineOf i s).queue = [] := by
      cases i with
      | a => exact (hlines.1.2.2.2.2.2.2 hstate).1
      | b => exact (hlines.2.2.2.2.2.2.2 hstate).1
    have hexec : exec (.fixtureLineRecovery i) s =
        done (fullRefresh i (flagFloor (putLine i { lineOf i s with state := .running } s))) := if_pos ⟨hstate, hrx⟩
    rw [recovery_eq htables.1 hq] at hexec
    refine ⟨_, hexec, ?_, ?_, withAttn_flagged ?_, ?_, fun j hj => ?_⟩
    · rw [lineOf_withAttn, lineOf_putLine_self]
      rfl
    · rw [withAttn_lums, putLine_lums, flagFloor_lums]
    · rw [putLine_port]
      rfl
    · cases i <;> exact ⟨rfl, rfl, rfl, rfl, rfl, rfl, rfl⟩
    · rw [lineOf_withAttn, lineOf_putLine_ne hj, lineOf_flagFloor]
  · have hexec : exec (.fixtureRxReturnsHigh i) s = done (arbitrate i (putLine i { lineOf i s with rxHigh := true } s)) :=
      if_neg (by rw [hrx]; exact Bool.false_ne_true)
    obtain ⟨t, ht, hlums, hline, hrest, hport, hothers⟩ := next_of_arbitrateLine hexec
    exact ⟨t, ht, hline, hlums, hport, hrest, hothers⟩
  · refine ⟨_, rfl, by rw [lineOf_withAttn, lineOf_putLine_self], by rw [withAttn_lums, putLine_lums], ?_, ?_, fun j hj => ?_⟩
    · cases i <;> rfl
    · cases i <;> exact ⟨rfl, rfl, rfl, rfl, rfl, rfl, rfl⟩
    · rw [lineOf_withAttn, lineOf_putLine_ne hj]

end Refresh

end Sys2Proof.Machine
end

section
/-! SUPPORT. The small events of segments and inputs (R73, R38, R152), and the spot reads (R159, R160). -/

namespace Sys2Proof.Machine

variable {s t : State} {i a : Nat} {g : Segment} {n : Input} {l : InputLine} {bytes : List LineByte}

/-! ## Changed records and ATTN -/

theorem mem_of_seg? (h : seg? s i = some g) : (i, g) ∈ s.segs := mem_of_tabGet h

theorem mem_of_input? (h : input? s a = some n) : (a, n) ∈ s.inputs := mem_of_tabGet h

/-- R169: ATTN is asserted while a segment's change flag is set. -/
theorem attnLevel_of_seg (h : seg? s i = some g) (hc : g.changed = true) : attnLevel s = true := by
  have hany : s.segs.any (·.2.changed) = true := List.any_eq_true.mpr ⟨_, mem_of_seg? h, hc⟩
  simp [attnLevel, anyChange, hany]

/-- R169: ATTN is asserted while an input's change flag is set. -/
theorem attnLevel_of_input (h : input? s a = some n) (hc : n.changed = true) : attnLevel s = true := by
  have hany : s.inputs.any (·.2.changed) = true := List.any_eq_true.mpr ⟨_, mem_of_input? h, hc⟩
  simp [attnLevel, anyChange, hany]

/-! ## The poll timer -/

/-- R152: an input whose poll timer has run down joins the due list of a RUNNING line. -/
theorem exec_pollTimerExpiry (hn : input? s a = some n) (hdue : timerDue n.pollTimer = true) :
    exec (.pollTimerExpiry a) s =
      done (putInputLine
        (if s.inputLine.state = .running then
          choosePoll { s.inputLine with
            due := if a ∈ s.inputLine.due then s.inputLine.due else s.inputLine.due ++ [a] }
         else s.inputLine)
        (putInput a { n with pollTimer := some n.interval } s)) := by
  have hexec : exec (.pollTimerExpiry a) s =
      done (if s.inputLine.state = .running then
        arbitrateInput (if s.inputLine.due.contains a then putInput a (restartPoll n) s
          else putInputLine { s.inputLine with due := s.inputLine.due ++ [a] } (putInput a (restartPoll n) s))
        else putInput a (restartPoll n) s) :=
    congrArg done ((onInput_some hn _).trans (if_pos hdue))
  rw [hexec]
  by_cases hrun : s.inputLine.state = .running
  · by_cases hmem : a ∈ s.inputLine.due
    · rw [if_pos hrun, if_pos hrun, if_pos hmem, if_pos (List.contains_iff_mem.mpr hmem)]
      rfl
    · rw [if_pos hrun, if_pos hrun, if_neg hmem, if_neg fun h => hmem (List.contains_iff_mem.mp h)]
      rfl
  · rw [if_neg hrun, if_neg hrun]
    rfl

/-- R38: a photosensor whose quarantine has run down. -/
theorem exec_quarantineTimerExpiry {c : PhotoConfig} {m : Measurement} (hn : input? s a = some n)
    (hd : n.device = .photo c m) (hdue : timerDue m.quarantineTimer = true) :
    exec (.quarantineTimerExpiry a) s =
      done (putInput a { n with device := .photo c unseeded, changed := true } s) := by
  simp only [exec, execQuarantineTimerExpiry, onInput_some hn, hd, hdue, if_true]

/-- R73: a segment whose shortfall timer has run down. -/
theorem exec_shortfallTimerExpiry (hg : seg? s i = some g) (hdue : timerDue g.shortTimer = true) :
    exec (.shortfallTimerExpiry i) s =
      done (putSeg i { g with shortfall := true, changed := true, shortTimer := none } s) :=
  congrArg done (segExpiry_due (timer := (·.shortTimer)) hg hdue)

/-- Settles O50: each of the three puts the one record that it names. -/
theorem shortfallQuarantineAndPollExpiries : Obligations.ShortfallQuarantineAndPollExpiries := by
  intro s i
  refine ⟨fun g hg hdue => ?_, fun n hn c m hd hdue => ?_, fun n hn hdue => ?_⟩
  · have hput := seg?_putSeg_self i { g with shortfall := true, changed := true, shortTimer := none } s
    refine ⟨_, exec_shortfallTimerExpiry hg hdue, hput, fun j hj => seg?_putSeg_ne _ s hj, ⟨rfl, rfl, rfl⟩,
      ⟨rfl, rfl, rfl, rfl, rfl, rfl⟩, ?_⟩
    rw [withAttn_port, attnLevel_of_seg hput rfl]
    rfl
  · have hput := input?_putInput_self i { n with device := .photo c unseeded, changed := true } s
    have hport : (withAttn (putInput i { n with device := .photo c unseeded, changed := true } s)).port =
        { s.port with attn := true } := by
      rw [withAttn_port, attnLevel_of_input hput rfl]
      rfl
    exact ⟨_, exec_quarantineTimerExpiry hn hd hdue, hput, fun j hj => input?_putInput_ne _ s hj, hport, rfl⟩
  · exact ⟨_, exec_pollTimerExpiry hn hdue, input?_putInput_self i _ s, fun j hj => input?_putInput_ne _ s hj, rfl, rfl, rfl⟩

/-! ## Spot reads -/

/-- R159: a spot read taken on a RUNNING line waits there for the arbiter. -/
theorem exec_spotRead_running {body : List Byte} (hlen : 1 ≤ body.length) (ha : byteAt body 0 ≤ 47)
    (hnone : s.inputLine.spotRequest = none) (hrun : s.inputLine.state = .running) :
    exec (.spotRead body) s =
      done (answer .ok 0x41 []
        (putInputLine (choosePoll { s.inputLine with spotRequest := some ⟨byteAt body 0, false⟩ }) s)) := by
  simp only [exec, execSpotRead, if_neg (Nat.not_lt.mpr hlen), if_neg (Nat.not_lt.mpr ha), hnone, hrun, Option.isSome_none,
    Bool.false_eq_true, if_false]
  rfl

/-- R159: a spot read on a line that is DOWN ends at once with NO REPLY. -/
theorem exec_spotRead_down {body : List Byte} (hlen : 1 ≤ body.length) (ha : byteAt body 0 ≤ 47)
    (hnone : s.inputLine.spotRequest = none) (hdown : s.inputLine.state = .down) :
    exec (.spotRead body) s =
      done (answer .ok 0x41 []
        (flagFloor (putInputLine { s.inputLine with spotResult := some ⟨byteAt body 0, none⟩ } s))) := by
  simp only [exec, execSpotRead, if_neg (Nat.not_lt.mpr hlen), if_neg (Nat.not_lt.mpr ha), hnone, hdown, Option.isSome_none,
    Bool.false_eq_true, if_false, endSpot]

/-- R159: a spot read that is refused. -/
theorem exec_spotRead_refused {body : List Byte} (hlen : 1 ≤ body.length) :
    (47 < byteAt body 0 → exec (.spotRead body) s = deny .badField 0x41 s)
    ∧ (byteAt body 0 ≤ 47 → s.inputLine.spotRequest.isSome = true → exec (.spotRead body) s = deny .notNow 0x41 s) := by
  refine ⟨fun ha => ?_, fun ha hwaits => ?_⟩
  · simp only [exec, execSpotRead, if_neg (Nat.not_lt.mpr hlen), if_pos ha]
  · simp only [exec, execSpotRead, if_neg (Nat.not_lt.mpr hlen), if_neg (Nat.not_lt.mpr ha), if_pos hwaits]

/-- R160: the end of a spot poll. -/
theorem exec_spotPollEnd (hf : s.inputLine.flight = some (.spot a)) :
    exec (.spotPollEnd bytes) s =
      done (putInputLine
        (choosePoll { s.inputLine with
          flight := none, spotRequest := none, spotResult := some ⟨a, decodeInputReply a bytes⟩ }) (flagFloor s)) := by
  simp only [exec, execSpotPollEnd, hf]
  rfl

/-- R160: FETCH SPOT by the request and the result that stand. -/
theorem exec_fetchSpot (body : List Byte) (s : State) :
    (s.inputLine.spotRequest.isSome = true → exec (.fetchSpot body) s = deny .pending 0x42 s)
    ∧ (s.inputLine.spotRequest = none → s.inputLine.spotResult = none → exec (.fetchSpot body) s = deny .noRecord 0x42 s)
    ∧ (s.inputLine.spotRequest = none → ∀ r ∈ s.inputLine.spotResult,
        exec (.fetchSpot body) s = done (answer .ok 0x42 (spotBytes r) s)) := by
  refine ⟨fun hwaits => ?_, fun hnone hempty => ?_, fun hnone r hr => ?_⟩
  · obtain ⟨r, hr⟩ := Option.isSome_iff_exists.mp hwaits
    simp only [exec, execFetchSpot, hr]
  · simp only [exec, execFetchSpot, hnone, hempty]
  · simp only [exec, execFetchSpot, hnone, Option.mem_def.mp hr]

theorem fetchSpot_answers (body : List Byte) (s : State) : ∃ t, exec (.fetchSpot body) s = .next t ∧
    (s.inputLine.spotRequest.isSome = true → PortAnswers s t .pending 0x42 [])
    ∧ (s.inputLine.spotRequest = none → s.inputLine.spotResult = none → PortAnswers s t .noRecord 0x42 [])
    ∧ (s.inputLine.spotRequest = none → ∀ r ∈ s.inputLine.spotResult, PortAnswers s t .ok 0x42 (spotBytes r))
    ∧ t = { s with port := t.port } := by
  obtain ⟨hpending, hempty, hfound⟩ := exec_fetchSpot body s
  cases hreq : s.inputLine.spotRequest with
  | some r =>
    obtain ⟨t, ht, hport, hrest⟩ := refused_of_deny (hpending (by rw [hreq]; rfl))
    exact ⟨t, ht, fun _ => hport, nofun, nofun, hrest⟩
  | none =>
    cases hres : s.inputLine.spotResult with
    | none =>
      obtain ⟨t, ht, hport, hrest⟩ := refused_of_deny (hempty hreq hres)
      exact ⟨t, ht, nofun, fun _ _ => hport, nofun, hrest⟩
    | some r =>
      obtain ⟨t, ht, hport, hrest⟩ := next_of_answer (hfound hreq r hres)
      refine ⟨t, ht, nofun, nofun, fun _ q hq => ?_, hrest⟩
      obtain rfl := Option.some.inj hq
      exact hport

/-- Settles O37: the table of SPOT READ row by row, the end of the poll, and FETCH SPOT. -/
theorem spotReadsAreTakenEndedAndFetched : Obligations.SpotReadsAreTakenEndedAndFetched := by
  refine ⟨fun a => ⟨rfl, fun _ => rfl, fun _ => rfl, fun _ _ => rfl⟩, fun s body bytes => ?_⟩
  intro a l refuses
  refine ⟨fun hlen => ?_, fun hlen => ⟨fun ha => ?_, fun ha hwaits => ?_, fun ha hnone hrun => ?_, fun ha hnone hdown => ?_⟩,
    fun b hf => ?_, ?_⟩
  · exact refused_of_deny (if_pos hlen)
  · exact refused_of_deny ((exec_spotRead_refused hlen).1 ha)
  · exact refused_of_deny ((exec_spotRead_refused hlen).2 ha hwaits)
  · exact ⟨_, exec_spotRead_running hlen ha hnone hrun, rfl, rfl, rfl⟩
  · exact ⟨_, exec_spotRead_down hlen ha hnone hdown, rfl, rfl, rfl⟩
  · exact ⟨_, exec_spotPollEnd hf, rfl, withAttn_flagged rfl, rfl⟩
  · exact fetchSpot_answers body s

end Sys2Proof.Machine
end

section
/-! SUPPORT. What an event that changes records leaves after the recompositions, and what the re-resolution of presence (R96)
leaves at every segment. -/

namespace Sys2Proof.Machine

section Events

variable {s t u : State} {f : State → State} {c : Instr} {i j : Nat} {g : Segment} {byRequest : Bool}

/-- The state after an event whose own change leads from `s` to `u`: the records of `u`, with recompositions at the most. -/
structure EventLeaves (s u t : State) : Prop where
  segs : t.segs = u.segs
  inputs : t.inputs = u.inputs
  overrides : t.overrides = u.overrides
  inputLine : t.inputLine = u.inputLine
  composer : t.composer = s.composer
  time : t.time = s.time
  pending : t.pending = s.pending
  recomposed : OnlyRecomposed s t

/-- The state after such an event, its port as the event's own change leaves it, but for ATTN. -/
structure AfterEvent (s u t : State) : Prop extends EventLeaves s u t where
  port : t.port = { u.port with attn := t.port.attn }

theorem eventLeaves (h : RecordsOnly s (f s)) : EventLeaves s (f s) (event f s) := by
  obtain ⟨⟨hsegs, hinputs, hoverrides, hcomposer, hline, htime, hpending⟩, _⟩ := event_same f s
  obtain ⟨hlums, hlineA, hlineB⟩ := h.fixtures
  obtain ⟨hrecomposed, hrecA, hrecB⟩ := (settle_recomposes s (f s)).2
  refine ⟨hsegs, hinputs, hoverrides, hline, hcomposer.trans h.composer, htime.trans h.time, hpending.trans h.pending,
    fun k => (hrecomposed k).trans ?_, hrecA.trans (by rw [hlineA]), hrecB.trans (by rw [hlineB])⟩
  rw [lum?, hlums, lum?]

theorem EventLeaves.of_port (h : EventLeaves s u t) (p : Port) : EventLeaves s u { t with port := p } :=
  ⟨h.segs, h.inputs, h.overrides, h.inputLine, h.composer, h.time, h.pending, h.recomposed⟩

theorem EventLeaves.input? (h : EventLeaves s u t) (a : Nat) : input? t a = input? u a := by
  unfold Machine.input?
  rw [h.inputs]

theorem EventLeaves.seg? (h : EventLeaves s u t) (j : Nat) : seg? t j = seg? u j := by
  unfold Machine.seg?
  rw [h.segs]

theorem afterEvent (h : RecordsOnly s (f s)) : AfterEvent s (f s) (event f s) :=
  { eventLeaves h with port := by rw [(event_same f s).2] }

theorem AfterEvent.withAttn (h : AfterEvent s u t) : AfterEvent s u (withAttn t) :=
  { h.toEventLeaves.of_port _ with port := by rw [withAttn_port, h.port] }

/-- A command that is one event on records. -/
theorem next_of_recordsEvent (hexec : exec c s = done (event f s)) (h : RecordsOnly s (f s)) :
    ∃ t, exec c s = .next t ∧ AfterEvent s (f s) t ∧ t.port.attn = attnLevel (event f s) :=
  ⟨_, hexec, (afterEvent h).withAttn, rfl⟩

/-- A request that is one event on records, and its answer. -/
theorem next_of_answeredEvent {st : Status} {code : Nat} {bytes : List Byte}
    (hexec : exec c s = done (answer st code bytes (event f s))) (h : RecordsOnly s (f s)) (hport : (f s).port = s.port) :
    ∃ t, exec c s = .next t ∧ EventLeaves s (f s) t ∧ PortAnswers s t st code bytes := by
  refine ⟨_, hexec, (eventLeaves h).of_port _, ?_⟩
  have hkept : (event f s).port = s.port := (event_same f s).2.trans hport
  exact congrArg (fun p : Port => ({ p with offered := _, attn := _ } : Port)) hkept

/-- R64: a segment is held while it is not OCCUPIED or an override names it. -/
theorem isHeld_eq (s : State) (i : Nat) (g : Segment) :
    isHeld s i g = (g.activity != .occupied || s.overrides.records.any fun o => o.scope.segment == i) := by
  have hany (l : List Override) : (!(l.filter fun o => o.scope.segment == i).isEmpty) = l.any fun o => o.scope.segment == i := by
    rw [Bool.eq_iff_iff]
    simp
  rw [isHeld, recordsOf, hany]

/-- An operation at each of a list of segments that changes the record of its own segment alone, by a change that depends on nothing
it changes and that is not made a second time. -/
theorem seg?_forEach_ownSeg {f : Nat → State → State} {change : State → Nat → Segment → Segment}
    (hown : ∀ i s j, seg? (f i s) j = if j = i then (seg? s i).map (change s i) else seg? s j)
    (hcongr : ∀ k s i, change (f k s) i = change s i) (htwice : ∀ s i g, change s i (change s i g) = change s i g)
    (ks : List Nat) (s : State) (j : Nat) :
    seg? (forEach ks f s) j = (seg? s j).map fun g => if j ∈ ks then change s j g else g := by
  induction ks generalizing s with
  | nil => simp [forEach]
  | cons k ks ih =>
    rw [forEach_cons, ih, hown, hcongr]
    by_cases hj : j = k
    · subst hj
      rw [if_pos rfl, Option.map_map]
      congr 1
      funext g
      by_cases hmem : j ∈ ks <;> simp [hmem, htwice]
    · rw [if_neg hj]
      congr 1
      funext g
      simp [hj]

/-! ## Presence re-resolved (R96) -/

/-- R96: the record of a segment that re-resolves. -/
def resolvedSeg (byRequest : Bool) (s : State) (i : Nat) (g : Segment) : Segment :=
  if g.cfg.sensing = true ∧ g.activity ≠ .occupied ∧ watched s i = false then
    heldAgain s i
      { g with
        activity := .occupied
        holdTimer := some (g.cfg.occupancyHold * 600)
        setbackTimer := none
        changed := activityFlag byRequest g }
  else g

theorem seg?_reResolve (byRequest : Bool) (i : Nat) (s : State) (j : Nat) :
    seg? (reResolve byRequest i s) j = if j = i then (seg? s i).map (resolvedSeg byRequest s i) else seg? s j := by
  cases hg : seg? s i with
  | none =>
    rw [reResolve, onSeg_none hg]
    by_cases hj : j = i
    · rw [if_pos hj, hj, hg, Option.map_none]
    · rw [if_neg hj]
  | some g =>
    rw [reResolve, onSeg_some hg, Option.map_some, resolvedSeg]
    by_cases hresolves : g.cfg.sensing = true ∧ g.activity ≠ .occupied ∧ watched s i = false
    · rw [if_pos hresolves, if_pos hresolves, seg?_recomputeHeld, seg?_putSeg_self, Option.map_some]
      by_cases hj : j = i
      · rw [if_pos hj, if_pos hj]
        exact congrArg some (heldAgain_congr (s := s) (t := putSeg i _ s) rfl i _)
      · rw [if_neg hj, if_neg hj, seg?_putSeg_ne _ s hj]
    · rw [if_neg hresolves, if_neg hresolves]
      by_cases hj : j = i
      · rw [if_pos hj, hj, hg]
      · rw [if_neg hj]

theorem resolvedSeg_congr (hlist : t.overrides = s.overrides) (hinputs : t.inputs = s.inputs) (i : Nat) :
    resolvedSeg byRequest t i = resolvedSeg byRequest s i := by
  funext g
  simp only [resolvedSeg, watched_congr hinputs, heldAgain_congr hlist]

theorem resolvedSeg_twice (s : State) (i : Nat) (g : Segment) :
    resolvedSeg byRequest s i (resolvedSeg byRequest s i g) = resolvedSeg byRequest s i g := by
  by_cases hresolves : g.cfg.sensing = true ∧ g.activity ≠ .occupied ∧ watched s i = false
  · have hoccupied : (resolvedSeg byRequest s i g).activity = .occupied := by
      rw [resolvedSeg, if_pos hresolves]
      exact (heldAgain_activity s i _).2.1
    rw [resolvedSeg, if_neg fun h => h.2.1 hoccupied]
  · rw [resolvedSeg, resolvedSeg, if_neg hresolves, if_neg hresolves]

theorem seg?_forEach_reResolve (byRequest : Bool) (ks : List Nat) (s : State) (j : Nat) :
    seg? (forEach ks (reResolve byRequest) s) j =
      (seg? s j).map fun g => if j ∈ ks then resolvedSeg byRequest s j g else g := by
  refine seg?_forEach_ownSeg (seg?_reResolve byRequest) (fun k s i => ?_) resolvedSeg_twice ks s j
  obtain ⟨_, ⟨hinputs, hlist, _⟩, _⟩ := (reResolve_segsOnly byRequest k s).same
  exact resolvedSeg_congr hlist hinputs i

/-- R64: a segment that was dimmed stands held; re-resolved, it is held while an override names it. -/
theorem resolvedSeg_held (hs : HeldOk s) (hg : seg? s i = some g) (hlist : u.overrides = s.overrides) :
    resolvedSeg byRequest u i g =
      if g.cfg.sensing = true ∧ g.activity ≠ .occupied ∧ watched u i = false then
        { g with
          activity := .occupied, holdTimer := some (g.cfg.occupancyHold * 600), setbackTimer := none,
          changed := activityFlag byRequest g, held := s.overrides.records.any fun o => o.scope.segment == i }
      else g := by
  unfold resolvedSeg
  split
  · rename_i hresolves
    have hheld : g.held = true := by
      rw [hs (i, g) (mem_of_seg? hg), isHeld_eq, bne_iff_ne.mpr hresolves.2.1, Bool.true_or]
    have hnow : isHeld u i
        { g with
          activity := .occupied, holdTimer := some (g.cfg.occupancyHold * 600), setbackTimer := none,
          changed := activityFlag byRequest g } = s.overrides.records.any fun o => o.scope.segment == i := by
      rw [isHeld_eq, hlist, bne_self_eq_false, Bool.false_or]
    rw [heldAgain, hnow, hheld, Bool.not_true, Bool.and_false, if_neg Bool.false_ne_true]
  · rfl

end Events

end Sys2Proof.Machine
end

section
/-! SUPPORT. The input line goes DOWN and recovers (R161, R162): its inputs and the segments that they covered. -/

namespace Sys2Proof.Machine

section InputLine

variable {s t u : State} {a i j : Nat} {g : Segment} {n : Input}

/-- R161: what the line's own break leaves, before the segments re-resolve. -/
def lineGone (s : State) : State :=
  flagFloor
    { s with
      inputs := tabMap s.inputs inputDown
      inputLine :=
        { s.inputLine with
          state := .down, due := [], flight := none, spotRequest := none
          spotResult := if s.inputLine.spotRequest = none then s.inputLine.spotResult
            else s.inputLine.spotRequest.map fun r => ⟨r.address, none⟩ } }

theorem goDownInput_eq (s : State) :
    goDownInput s = forEach (s.inputs.flatMap fun e => coverageOf e.2.device) (reResolve false) (lineGone s) := by
  obtain ⟨_, _, _, _, _, _, _, ⟨_, _, request, _, _, _⟩, _, _, _, _⟩ := s
  cases request <;> rfl

theorem lineGone_unwatched (s : State) (i : Nat) : watched (lineGone s) i = false := by
  refine List.any_eq_false.mpr fun e he => ?_
  obtain ⟨d, _, rfl⟩ := List.mem_map.mp he
  dsimp only
  split
  · simp [inputDown]
  · exact Bool.false_ne_true

theorem input?_lineGone (s : State) (a : Nat) : input? (lineGone s) a = (input? s a).map inputDown :=
  tabGet_map s.inputs inputDown a

/-- R161, R96: the segments at a line that goes DOWN. -/
theorem seg?_goDownInput (hs : HeldOk s) (hg : seg? s j = some g) :
    seg? (goDownInput s) j = some
      (if (∃ e ∈ s.inputs, j ∈ coverageOf e.2.device) ∧ g.cfg.sensing = true ∧ g.activity ≠ .occupied then
        { g with
          activity := .occupied, holdTimer := some (g.cfg.occupancyHold * 600), setbackTimer := none, changed := true,
          held := s.overrides.records.any fun o => o.scope.segment == j }
       else g) := by
  rw [goDownInput_eq, seg?_forEach_reResolve, show seg? (lineGone s) j = some g from hg, Option.map_some,
    resolvedSeg_held (u := lineGone s) hs hg rfl, lineGone_unwatched]
  congr 1
  have hcovered : (j ∈ s.inputs.flatMap fun e => coverageOf e.2.device) ↔ ∃ e ∈ s.inputs, j ∈ coverageOf e.2.device :=
    List.mem_flatMap
  by_cases hmem : ∃ e ∈ s.inputs, j ∈ coverageOf e.2.device
  · rw [if_pos (hcovered.mpr hmem)]
    by_cases hdim : g.cfg.sensing = true ∧ g.activity ≠ .occupied
    · have hflag : activityFlag false g = true := by
        rw [activityFlag, bne_iff_ne.mpr hdim.2]
        simp
      rw [if_pos ⟨hdim.1, hdim.2, rfl⟩, if_pos ⟨hmem, hdim⟩, hflag]
    · rw [if_neg fun h => hdim ⟨h.1, h.2.1⟩, if_neg fun h => hdim h.2]
  · rw [if_neg fun h => hmem (hcovered.mp h), if_neg fun h => hmem h.1]

/-- R162: an input line recovers. -/
theorem exec_inputLineRecovery (hdown : s.inputLine.state = .down) (hrx : s.inputLine.rxHigh = true) :
    exec .inputLineRecovery s =
      done (flagFloor (putInputLine (choosePoll { s.inputLine with state := .running })
        { s with inputs := tabMap s.inputs restartPoll })) := if_pos ⟨hdown, hrx⟩

/-- Settles O57, event by event. -/
theorem inputLineGoesDownAndRecovers : Obligations.InputLineGoesDownAndRecovers := by
  intro s l
  refine ⟨fun hrun hrx => ?_, fun hdown hrx => ?_, fun hrx => ?_, ?_⟩
  · have hexec : exec .inputLineDown s = done (event goDownInput s) := if_pos ⟨hrun, hrx⟩
    obtain ⟨_, ⟨hinputs, hlist, _, hline, _⟩, hport, _⟩ :=
      (forEach_reResolve_segsOnly false (s.inputs.flatMap fun e => coverageOf e.2.device) (lineGone s)).same
    rw [← goDownInput_eq] at hinputs hlist hline hport
    obtain ⟨t, ht, hafter, hattn⟩ := next_of_recordsEvent hexec (goDownInput_recordsOnly s)
    have hflagged : attnLevel (event goDownInput s) = true := by
      have heventPort := (event_same goDownInput s).2
      rw [hport] at heventPort
      simp [attnLevel, anyChange, heventPort, lineGone, flagFloor]
    refine ⟨t, ht, hafter.inputLine.trans hline, fun a => ?_, fun hs j g hg => ?_, ?_, hafter.overrides.trans hlist,
      hafter.composer, hafter.time, hafter.pending, hafter.recomposed⟩
    · rw [hafter.input?, input?, hinputs]
      exact input?_lineGone s a
    · rw [hafter.seg?, seg?_goDownInput hs hg]
    · rw [PortFlagsFloor, hafter.port, hport, hattn, hflagged]
      rfl
  · exact ⟨_, exec_inputLineRecovery hdown hrx, rfl, fun a => tabGet_map s.inputs restartPoll a, withAttn_flagged rfl, rfl⟩
  · exact ⟨_, if_neg (by rw [hrx]; exact Bool.false_ne_true), rfl, rfl, rfl⟩
  · exact ⟨_, rfl, rfl, rfl, rfl⟩

end InputLine

end Sys2Proof.Machine
end

section
/-! SUPPORT. The end of a due poll, and what is lost with a link (R156 to R158). -/

namespace Sys2Proof.Machine

section DuePolls

variable {s t u w : State} {f : State → State} {c : Instr} {a i j misses : Nat} {g : Segment} {n : Input}
  {link : InputLink} {mark : PollMark} {bytes : List LineByte} {v : InputValue}

/-- The state after the end of a due poll whose effect on the records leads to `u`: recompositions at the most, and the arbiter of
the input line has chosen. -/
structure PollEnded (s u t : State) : Prop where
  segs : t.segs = u.segs
  inputs : t.inputs = u.inputs
  overrides : t.overrides = u.overrides
  inputLine : t.inputLine = choosePoll { s.inputLine with flight := none }
  composer : t.composer = s.composer
  time : t.time = s.time
  pending : t.pending = s.pending
  port : SamePort s t
  recomposed : OnlyRecomposed s t

theorem PollEnded.input? (h : PollEnded s u t) (a : Nat) : input? t a = input? u a := by
  unfold Machine.input?
  rw [h.inputs]

theorem PollEnded.seg? (h : PollEnded s u t) (j : Nat) : seg? t j = seg? u j := by
  unfold Machine.seg?
  rw [h.segs]

/-- The arbiter of the input line chooses where the poll's effect has been taken. -/
theorem AfterEvent.pollEnded (h : AfterEvent (clearPoll s) u w) (hline : u.inputLine = (clearPoll s).inputLine)
    (hport : u.port = s.port) : PollEnded s u (Machine.withAttn (arbitrateInput w)) where
  segs := h.segs
  inputs := h.inputs
  overrides := h.overrides
  inputLine := congrArg choosePoll (h.inputLine.trans hline)
  composer := h.composer
  time := h.time
  pending := h.pending
  port := by
    have hkept := h.port
    rw [hport] at hkept
    rw [SamePort, withAttn_port, show (arbitrateInput w).port = w.port from rfl, hkept]
  recomposed := h.recomposed

/-- The end of a due poll that is one event on records. -/
theorem next_of_duePoll (hexec : exec c s = done (endDuePoll (event f) s)) (h : RecordsOnly (clearPoll s) (f (clearPoll s)))
    (hline : (f (clearPoll s)).inputLine = (clearPoll s).inputLine) (hport : (f (clearPoll s)).port = s.port) :
    ∃ t, exec c s = .next t ∧ PollEnded s (f (clearPoll s)) t :=
  ⟨_, hexec, (afterEvent h).pollEnded hline hport⟩

/-- R20, R163: the end of a due poll that acts on nothing. -/
theorem next_of_idlePoll (hexec : exec c s = done (endDuePoll id s)) :
    ∃ t, exec c s = .next t
      ∧ t = { s with inputLine := choosePoll { s.inputLine with flight := none }, port := t.port } ∧ SamePort s t :=
  ⟨_, hexec, rfl, rfl⟩

/-! ## A link is lost -/

/-- R156 to R158: the record of an input whose link is lost. -/
def droppedInput (link : InputLink) (misses : Nat) (n : Input) : Input :=
  { n with
    link := link, missCount := misses
    device := if n.link = .reporting then deviceLost n.device else n.device
    changed := n.changed || n.link != link }

theorem dropLink_eq (link : InputLink) (misses : Nat) (hn : input? s a = some n) :
    dropLink a link misses s =
      if n.link = .reporting then
        forEach (coverageOf n.device) (reResolve false) (putInput a (droppedInput link misses n) s)
      else putInput a (droppedInput link misses n) s := by
  rw [dropLink, onInput_some hn, droppedInput]
  simp only [beq_iff_eq]

theorem dropLink_inputs (link : InputLink) (misses : Nat) (hn : input? s a = some n) :
    (dropLink a link misses s).inputs = (putInput a (droppedInput link misses n) s).inputs := by
  rw [dropLink_eq link misses hn]
  split
  · exact forEach_reResolve_inputs false _ _
  · rfl

/-- R96, R98: the segments at a link that is lost. -/
theorem seg?_dropLink (hs : HeldOk s) (hn : input? s a = some n) (hg : seg? s j = some g)
    (hw : watched (dropLink a link misses s) j = watched t j) :
    seg? (dropLink a link misses s) j = some
      (if n.link = .reporting ∧ j ∈ coverageOf n.device ∧ g.cfg.sensing = true ∧ g.activity ≠ .occupied
          ∧ watched t j = false then
        { g with
          activity := .occupied, holdTimer := some (g.cfg.occupancyHold * 600), setbackTimer := none, changed := true,
          held := s.overrides.records.any fun o => o.scope.segment == j }
       else g) := by
  rw [watched_congr (dropLink_inputs link misses hn)] at hw
  have hput : seg? (putInput a (droppedInput link misses n) s) j = some g := hg
  rw [dropLink_eq link misses hn]
  by_cases hlost : n.link = .reporting
  · rw [if_pos hlost, seg?_forEach_reResolve, hput, Option.map_some, resolvedSeg_held (u := putInput a _ s) hs hg rfl, hw]
    by_cases hmem : j ∈ coverageOf n.device
    · rw [if_pos hmem]
      by_cases hdim : g.cfg.sensing = true ∧ g.activity ≠ .occupied ∧ watched t j = false
      · have hflag : activityFlag false g = true := by
          rw [activityFlag, bne_iff_ne.mpr hdim.2.1]
          simp
        rw [if_pos hdim, if_pos ⟨hlost, hmem, hdim⟩, hflag]
      · rw [if_neg hdim, if_neg fun h => hdim h.2.2]
    · rw [if_neg hmem, if_neg fun h => hmem h.2.1]
  · rw [if_neg hlost, if_neg fun h => hlost h.1, hput]

theorem dropLink_rest (a : Nat) (link : InputLink) (misses : Nat) (s : State) :
    (dropLink a link misses s).overrides = s.overrides ∧ (dropLink a link misses s).inputLine = s.inputLine
      ∧ (dropLink a link misses s).port = s.port := by
  refine onInput_rel (R := fun s t => t.overrides = s.overrides ∧ t.inputLine = s.inputLine ∧ t.port = s.port)
    ⟨rfl, rfl, rfl⟩ fun n _ => ?_
  dsimp only
  split
  · obtain ⟨_, ⟨_, hlist, _, hline, _⟩, hport, _⟩ := (forEach_reResolve_segsOnly false (coverageOf n.device) (putInput a _ s)).same
    exact ⟨hlist, hline, hport⟩
  · exact ⟨rfl, rfl, rfl⟩

/-- R158: what a device keeps of its records when its link leaves REPORTING. -/
theorem deviceLost_photo (c : PhotoConfig) (m : Measurement) : deviceLost (.photo c m) =
    .photo c (if m.state = .settling ∨ m.state = .settled then unseeded else m) := by
  rw [deviceLost, linkLost]
  cases m.state <;> simp

/-! ## The three ends of a due poll without a reading -/

theorem exec_inputReplyWrongKind_idle (hf : s.inputLine.flight = some (.due a mark)) (hmark : mark ≠ .live)
    (hv : decodeInputReply a bytes = some v) : exec (.inputReplyWrongKind bytes) s = done (endDuePoll id s) := by
  simp only [exec, execInputReplyWrongKind, hf, hv, if_neg hmark]

theorem exec_inputReply_idle (hf : s.inputLine.flight = some (.due a mark)) (hmark : mark ≠ .live)
    (hv : decodeInputReply a bytes = some v) : exec (.inputReply bytes) s = done (endDuePoll id s) := by
  simp only [exec, execInputReply, hf, hv, if_neg hmark]

theorem exec_inputReplyWrongKind_live (hf : s.inputLine.flight = some (.due a .live)) (hv : decodeInputReply a bytes = some v)
    (hn : input? s a = some n) (hkind : v.kind ≠ deviceKind n.device) :
    exec (.inputReplyWrongKind bytes) s = done (endDuePoll (event (dropLink a .wrongKind 0)) s) := by
  have hother : kindAt s a ≠ some v.kind := by
    rw [kindAt, hn]
    exact fun h => hkind (Option.some.inj h).symm
  simp only [exec, execInputReplyWrongKind, hf, hv, if_true, if_neg hother]

theorem exec_pollNoReply (hf : s.inputLine.flight = some (.due a mark)) :
    exec .pollNoReply s = done (endDuePoll (if mark = .retired then id else event (pollMissed a)) s) := by
  simp only [exec, execPollNoReply, hf]

/-- R157: a miss that does not end the link. -/
theorem pollMissed_kept (hn : input? s a = some n) (h : n.link = .absent ∨ n.missCount + 1 < n.missLimit) :
    pollMissed a s = putInput a { n with missCount := min (n.missCount + 1) n.missLimit } s := by
  rw [pollMissed, onInput_some hn]
  exact if_neg fun hends => h.elim hends.2 (by omega)

/-- R157: the miss at the limit. -/
theorem pollMissed_lost (hn : input? s a = some n) (hlink : n.link ≠ .absent) (hlimit : n.missLimit ≤ n.missCount + 1) :
    pollMissed a s = dropLink a .absent n.missLimit s := by
  rw [pollMissed, onInput_some hn]
  simp only [Nat.min_eq_right hlimit]
  exact if_pos ⟨Nat.le_refl _, hlink⟩

/-- A due poll that ends in a lost link. -/
theorem next_of_lostPoll (hexec : exec c s = done (endDuePoll (event (dropLink a link misses)) s)) (hn : input? s a = some n) :
    ∃ t, exec c s = .next t ∧ input? t a = some (droppedInput link misses n) ∧ PollEnded s t t
      ∧ OtherInputsSame s t a ∧ t.overrides = s.overrides
      ∧ (HeldOk s → ∀ j : Nat, ∀ g ∈ seg? s j, seg? t j = some
          (if n.link = .reporting ∧ j ∈ coverageOf n.device ∧ g.cfg.sensing = true ∧ g.activity ≠ .occupied
              ∧ watched t j = false then
            { g with
              activity := .occupied, holdTimer := some (g.cfg.occupancyHold * 600), setbackTimer := none, changed := true,
              held := s.overrides.records.any fun o => o.scope.segment == j }
           else g)) := by
  obtain ⟨hlist, hline, hport⟩ := dropLink_rest a link misses (clearPoll s)
  obtain ⟨t, ht, hended⟩ := next_of_duePoll hexec (dropLink_recordsOnly a link misses _) hline hport
  have hinputs : t.inputs = (putInput a (droppedInput link misses n) (clearPoll s)).inputs :=
    hended.inputs.trans (dropLink_inputs (s := clearPoll s) link misses hn)
  refine ⟨t, ht, ?_, { hended with segs := rfl, inputs := rfl, overrides := rfl }, fun b hb => ?_,
    hended.overrides.trans hlist, fun hs j g hg => ?_⟩
  · rw [input?, hinputs]
    exact input?_putInput_self a _ _
  · rw [input?, hinputs]
    exact input?_putInput_ne _ _ hb
  · rw [hended.seg?]
    exact seg?_dropLink (s := clearPoll s) hs hn hg (watched_congr hended.inputs.symm j)

/-- Settles O56: the poll's end by its mark, and then by what the reply or the miss makes of the link. -/
theorem lostLinksAreHandedOn : Obligations.LostLinksAreHandedOn := by
  intro s a bytes mark hf free rest nothing
  refine ⟨fun hmark => ?_, fun hmark hv => ?_, fun n hn => ?_⟩
  · exact next_of_idlePoll (by rw [exec_pollNoReply hf, if_pos hmark])
  · obtain ⟨v, hv⟩ := Option.isSome_iff_exists.mp hv
    exact ⟨next_of_idlePoll (exec_inputReply_idle hf hmark hv), next_of_idlePoll (exec_inputReplyWrongKind_idle hf hmark hv)⟩
  · have hn : input? s a = some n := hn
    refine ⟨fun hmark v hv hkind => ?_, fun hmark hstays => ?_, fun hmark hlink hlimit => ?_,
      fun c m hd => by rw [hd, deviceLost_photo]; rfl, fun x last hd => by rw [hd]; rfl, fun x h b q hd => by rw [hd]; rfl⟩
    · obtain ⟨t, ht, hinput, hended, hothers, hlist, hsegs⟩ :=
        next_of_lostPoll (exec_inputReplyWrongKind_live (hmark ▸ hf) hv hn hkind) hn
      exact ⟨t, ht, hinput, ⟨hended.inputLine, hothers, hlist, hended.composer, hended.time, hended.port, hended.recomposed⟩,
        hsegs⟩
    · have hkept := pollMissed_kept (s := clearPoll s) hn hstays
      have hexec := exec_pollNoReply hf
      rw [if_neg hmark] at hexec
      obtain ⟨t, ht, hended⟩ := next_of_duePoll hexec (by rw [hkept]; rfl) (by rw [hkept]; rfl) (by rw [hkept]; rfl)
      rw [hkept] at hended
      exact ⟨t, ht, (hended.input? a).trans (input?_putInput_self a _ _), hended.segs,
        ⟨hended.inputLine, fun b hb => (hended.input? b).trans (input?_putInput_ne _ _ hb), hended.overrides, hended.composer,
          hended.time, hended.port, hended.recomposed⟩⟩
    · have hexec : exec .pollNoReply s = done (endDuePoll (event (dropLink a .absent n.missLimit)) s) := by
        rw [exec_pollNoReply hf, if_neg hmark]
        simp only [endDuePoll, event, pollMissed_lost (s := clearPoll s) hn hlink hlimit]
      obtain ⟨t, ht, hinput, hended, hothers, hlist, hsegs⟩ := next_of_lostPoll hexec hn
      exact ⟨t, ht, hinput, ⟨hended.inputLine, hothers, hlist, hended.composer, hended.time, hended.port, hended.recomposed⟩,
        hsegs⟩

end DuePolls

end Sys2Proof.Machine
end

section
/-! SUPPORT. Motion at segments (R92), and the reply of a presence sensor (R90). -/

namespace Sys2Proof.Machine

section Motion

variable {s t u w : State} {c : Instr} {a i j : Nat} {g : Segment} {n new : Input} {byRequest : Bool}
  {bytes : List LineByte} {v : InputValue}

/-- R64: where the held flag stood and the segment was not held, or is no longer, the flag alone changes. -/
theorem heldAgain_loosened (h : g.held = false → isHeld s i g = false) : heldAgain s i g = { g with held := isHeld s i g } := by
  refine if_neg fun hnewly => ?_
  simp only [Bool.and_eq_true, Bool.not_eq_true'] at hnewly
  rw [h hnewly.2] at hnewly
  exact Bool.false_ne_true hnewly.1

/-- R92: a record made OCCUPIED, its hold timer started. -/
def occupiedSeg (byRequest : Bool) (g : Segment) : Segment :=
  { g with
    activity := .occupied
    holdTimer := some (g.cfg.occupancyHold * 600)
    setbackTimer := none
    changed := activityFlag byRequest g }

theorem occupiedSeg_settled (hactivity : g.activity = .occupied) (hhold : g.holdTimer = some (g.cfg.occupancyHold * 600))
    (hsetback : g.setbackTimer = none) : occupiedSeg byRequest g = g := by
  have hflag : activityFlag byRequest g = g.changed := by simp [activityFlag, hactivity]
  rw [occupiedSeg, hflag, ← hactivity, ← hhold, ← hsetback]

/-- R92: the record of a segment where motion has been seen. -/
def motionSeg (byRequest : Bool) (s : State) (i : Nat) (g : Segment) : Segment :=
  if g.cfg.sensing = true then
    heldAgain s i (occupiedSeg byRequest g)
  else g

theorem seg?_motion (byRequest : Bool) (i : Nat) (s : State) (j : Nat) :
    seg? (motion byRequest i s) j = if j = i then (seg? s i).map (motionSeg byRequest s i) else seg? s j := by
  cases hg : seg? s i with
  | none =>
    rw [motion, onSeg_none hg]
    by_cases hj : j = i
    · rw [if_pos hj, hj, hg, Option.map_none]
    · rw [if_neg hj]
  | some g =>
    rw [motion, onSeg_some hg, Option.map_some, motionSeg]
    by_cases hsensing : g.cfg.sensing = true
    · rw [if_pos hsensing, if_pos hsensing, seg?_recomputeHeld, seg?_putSeg_self, Option.map_some]
      by_cases hj : j = i
      · rw [if_pos hj, if_pos hj]
        exact congrArg some (heldAgain_congr (s := s) (t := putSeg i _ s) rfl i _)
      · rw [if_neg hj, if_neg hj, seg?_putSeg_ne _ s hj]
    · rw [if_neg hsensing, if_neg hsensing]
      by_cases hj : j = i
      · rw [if_pos hj, hj, hg]
      · rw [if_neg hj]

theorem motionSeg_congr (hlist : t.overrides = s.overrides) (i : Nat) : motionSeg byRequest t i = motionSeg byRequest s i := by
  funext g
  simp only [motionSeg, heldAgain_congr hlist]

/-- R92: a segment that motion has made OCCUPIED is not changed by motion again. -/
theorem motionSeg_twice (s : State) (i : Nat) (g : Segment) :
    motionSeg byRequest s i (motionSeg byRequest s i g) = motionSeg byRequest s i g := by
  by_cases hsensing : g.cfg.sensing = true
  · obtain ⟨hcfg, hactivity, hhold, hsetback⟩ := heldAgain_activity s i (occupiedSeg byRequest g)
    have hmoved : motionSeg byRequest s i g = heldAgain s i (occupiedSeg byRequest g) := if_pos hsensing
    have hstill : motionSeg byRequest s i (heldAgain s i (occupiedSeg byRequest g)) =
        heldAgain s i (occupiedSeg byRequest (heldAgain s i (occupiedSeg byRequest g))) := if_pos (by rw [hcfg]; exact hsensing)
    rw [hmoved, hstill, occupiedSeg_settled (g := heldAgain s i (occupiedSeg byRequest g)) hactivity (by rw [hhold, hcfg]; rfl)
      hsetback, heldAgain_twice]
  · have hkept : motionSeg byRequest s i g = g := if_neg hsensing
    rw [hkept, hkept]

/-- R92, R64: under the law of the held flag, motion leaves the segment held while an override names it. -/
theorem motionSeg_held (hs : HeldOk s) (hg : seg? s i = some g) (hlist : u.overrides = s.overrides) :
    motionSeg byRequest u i g =
      if g.cfg.sensing = true then
        { g with
          activity := .occupied, holdTimer := some (g.cfg.occupancyHold * 600), setbackTimer := none,
          changed := activityFlag byRequest g, held := s.overrides.records.any fun o => o.scope.segment == i }
      else g := by
  unfold motionSeg
  split
  · have hnow : isHeld u i (occupiedSeg byRequest g) = s.overrides.records.any fun o => o.scope.segment == i := by
      rw [isHeld_eq, hlist]
      exact Bool.false_or _
    rw [heldAgain_loosened fun hfree => ?_, hnow]
    · rfl
    · have hkept : isHeld s i g = false := (hs (i, g) (mem_of_seg? hg)).symm.trans hfree
      rw [isHeld_eq, Bool.or_eq_false_iff] at hkept
      exact hnow.trans hkept.2
  · rfl

/-- R90, R92: motion at each of a list of segments, each an event of its own. -/
theorem seg?_forEach_motion (ks : List Nat) (s : State) (j : Nat) :
    seg? (forEach ks (fun i => event (motion byRequest i)) s) j =
      (seg? s j).map fun g => if j ∈ ks then motionSeg byRequest s j g else g := by
  refine seg?_forEach_ownSeg (f := fun i => event (motion byRequest i)) (fun i s j => ?_) (fun k s i => ?_) motionSeg_twice ks s j
  · rw [seg?_event, seg?_motion]
  · exact motionSeg_congr ((event_same _ s).1.2.2.1.trans (motion_list byRequest k s)) i

/-- Motion at each of a list of segments changes segments alone, but for recompositions. -/
theorem forEachFree_motion_rest (ks : List Nat) (s : State) :
    EventOnly s (forEachFree ks (fun i => event (motion byRequest i)) s)
      ∧ (forEachFree ks (fun i => event (motion byRequest i)) s).overrides = s.overrides :=
  forEachFree_rel (R := fun s t => EventOnly s t ∧ t.overrides = s.overrides) (fun h k => ⟨h.1.trans k.1, k.2.trans h.2⟩)
    (fun s _ => ⟨⟨rfl, onlyRecomposed_refl s⟩, rfl⟩)
    (fun k _ t => ⟨event_eventOnly (motion_segsOnly byRequest k t).eventOnly,
      (event_same _ t).1.2.2.1.trans (motion_list byRequest k t)⟩) s

theorem seg?_forEachFree_motion (ks : List Nat) (s : State) (j : Nat) :
    seg? (forEachFree ks (fun i => event (motion byRequest i)) s) j =
      (seg? s j).map fun g => if j ∈ ks then motionSeg byRequest s j g else g := by
  obtain ⟨ls, draws, hperm, heq⟩ := forEachFree_eq ks (fun i => event (motion byRequest i)) s
  rw [heq, seg?_forEach_motion]
  simp only [hperm.mem_iff, motionSeg_congr (s := s) (t := { s with draws := draws }) rfl]
  rfl

/-! ## A valid reply -/

/-- R154: the record of an input that has replied. -/
def heardInput (n : Input) : Input :=
  { n with link := .reporting, missCount := 0, changed := n.changed || n.link != .reporting }

/-- R154: a valid reply of the enrolled kind is dispatched on the record of an input that reports. -/
theorem exec_inputReply_live (hf : s.inputLine.flight = some (.due a .live)) (hv : decodeInputReply a bytes = some v)
    (hn : input? s a = some n) (hkind : v.kind = deviceKind n.device) :
    exec (.inputReply bytes) s =
      done (arbitrateInput (dispatchValue a v (putInput a (heardInput n) (clearPoll s)))) := by
  have hsame : kindAt s a = some v.kind := by
    rw [kindAt, hn, hkind]
    rfl
  simp only [exec, execInputReply, hf, hv, if_true, if_pos hsame]
  rw [endDuePoll, takeReply, onInput_some (show input? (clearPoll s) a = some n from hn)]
  rfl

/-- A poll whose effect is records taken and segments changed by events. -/
theorem EventOnly.pollEnded (h : EventOnly (putInput a new (clearPoll s)) w) :
    PollEnded s w (withAttn (arbitrateInput w)) := by
  obtain ⟨hinputs, ⟨hcomposer, hline, htime, hpending⟩, hport⟩ := h.same
  exact AfterEvent.pollEnded ⟨⟨rfl, rfl, rfl, rfl, hcomposer, htime, hpending, h.2⟩, by rw [hport]⟩ hline hport

theorem EventOnly.input?_put (h : EventOnly (putInput a new (clearPoll s)) w) :
    input? w a = some new ∧ OtherInputsSame s w a := by
  have hinputs (b : Nat) : input? w b = input? (putInput a new (clearPoll s)) b := by
    unfold Machine.input?
    rw [h.same.1]
  exact ⟨(hinputs a).trans (input?_putInput_self a new _), fun b hb => (hinputs b).trans (input?_putInput_ne new _ hb)⟩

theorem putInput_putInput (a : Nat) (n m : Input) (s : State) : putInput a m (putInput a n s) = putInput a m s := by
  rw [putInput, putInput, putInput, tabPut_tabPut]

/-- R90: a presence report that is QUIET changes its own record alone. -/
theorem presenceReport_eq {coverage : List Nat} {last : Option Report} (isMotion : Bool) (hn : input? s a = some n)
    (hd : n.device = .presence coverage last) :
    presenceReport a isMotion s =
      if isMotion then
        forEachFree coverage (fun i => event (motion false i))
          (putInput a { n with device := .presence coverage (some .motion) } s)
      else putInput a { n with device := .presence coverage (some .quiet) } s := by
  rw [presenceReport, onInput_some hn]
  simp only [hd]
  cases isMotion <;> rfl

/-- Settles O54: the report that shows motion, and the one that shows none. -/
theorem presenceRepliesGiveMotion : Obligations.PresenceRepliesGiveMotion := by
  intro s a bytes htables hs hf n hn coverage last hd v hv hkind isMotion
  have hn : input? s a = some n := hn
  obtain ⟨moved, rfl⟩ : ∃ moved, v = .presence moved := by
    cases v with
    | presence moved => exact ⟨moved, rfl⟩
    | photo x => cases hkind
    | station q b => cases hkind
  have hreport := presenceReport_eq (s := putInput a (heardInput n) (clearPoll s)) (n := heardInput n) moved
    (input?_putInput_self a _ _) hd
  rw [putInput_putInput, putInput_putInput] at hreport
  have hexec := exec_inputReply_live hf hv hn (by rw [hd]; rfl)
  rw [dispatchValue, hreport] at hexec
  cases moved with
  | true =>
    obtain ⟨honly, hlist⟩ := forEachFree_motion_rest (byRequest := false) coverage
      (putInput a { heardInput n with device := .presence coverage (some .motion) } (clearPoll s))
    obtain ⟨hinput, hothers⟩ := honly.input?_put
    have hended := honly.pollEnded
    refine ⟨_, hexec, hinput, hothers, hended.inputLine, fun j g hg => ?_, fun h => absurd h (by decide), hlist, hended.composer,
      hended.time, hended.pending, hended.port, hended.recomposed⟩
    refine (seg?_forEachFree_motion coverage _ j).trans ?_
    rw [show seg? (putInput a _ (clearPoll s)) j = some g from hg, Option.map_some, motionSeg_held (s := s) (u := putInput a _ (clearPoll s)) hs hg rfl]
    have hflag : activityFlag false g = (g.changed || g.activity != .occupied) := rfl
    by_cases hmem : j ∈ coverage
    · by_cases hsensing : g.cfg.sensing = true
      · rw [if_pos hmem, if_pos hsensing, if_pos ⟨rfl, hmem, hsensing⟩, hflag]
      · rw [if_pos hmem, if_neg hsensing, if_neg fun h => hsensing h.2.2]
    · rw [if_neg hmem, if_neg fun h => hmem h.2.1]
  | false =>
    refine ⟨_, hexec, input?_putInput_self a _ _, fun b hb => input?_putInput_ne _ _ hb, rfl, fun j g hg => ?_,
      fun _ => ⟨rfl, rfl, rfl⟩, rfl, rfl, rfl, rfl, rfl, onlyRecomposed_refl s⟩
    exact hg

end Motion

end Sys2Proof.Machine
end

section
/-! SUPPORT. Records retired from the override list (R118), and the expiries of the occupancy timers (R93, R94). -/

namespace Sys2Proof.Machine

section Retire

variable {s t u : State} {i j : Nat} {g : Segment} {p : Override → Bool} {flag : Bool}

theorem seg?_forEach_recomputeHeld (ks : List Nat) (s : State) (j : Nat) :
    seg? (forEach ks recomputeHeld s) j = (seg? s j).map fun g => if j ∈ ks then heldAgain s j g else g :=
  seg?_forEach_ownSeg (fun i s j => seg?_recomputeHeld i j s)
    (fun k s i => funext fun g => heldAgain_congr (recomputeHeld_overrides k s) i g) heldAgain_twice ks s j

/-- R118: the segments where records are retired. -/
theorem seg?_retireRecords (p : Override → Bool) (flag : Bool) (s : State) (j : Nat) :
    seg? (retireRecords p flag s) j =
      (seg? s j).map fun g =>
        if s.overrides.records.any (fun o => p o && o.scope.segment == j) then heldAgain (retireRecords p flag s) j g
        else g := by
  have hheld (g : Segment) : heldAgain (retireRecords p flag s) j g =
      heldAgain (putOverrides (listWithout p flag s.overrides) s) j g :=
    heldAgain_congr (retireRecords_list p flag s) j g
  have hnamed : j ∈ (s.overrides.records.filter p).map (·.scope.segment) ↔
      s.overrides.records.any (fun o => p o && o.scope.segment == j) = true := by
    simp [and_assoc]
  have hsegs : seg? (retireRecords p flag s) j = (seg? s j).map fun g =>
      if j ∈ (s.overrides.records.filter p).map (·.scope.segment) then
        heldAgain (putOverrides (listWithout p flag s.overrides) s) j g
      else g := seg?_forEach_recomputeHeld _ _ j
  rw [hsegs]
  simp only [hnamed, hheld]

/-- R64, R65: the record of a segment that is dimmed stands held, and its off-delay and shortfall timers stop where it was not. -/
theorem heldAgain_dimmed (s : State) (i : Nat) (h : g.activity ≠ .occupied) :
    heldAgain s i g =
      { g with
        held := true
        offTimer := if g.held then g.offTimer else none
        shortTimer := if g.held then g.shortTimer else none } := by
  have hheld : isHeld s i g = true := by
    rw [isHeld_eq, bne_iff_ne.mpr h, Bool.true_or]
  rw [heldAgain, hheld]
  cases g.held <;> rfl

/-- R94: the record of a segment that goes VACANT. -/
theorem seg?_goVacant (i : Nat) (g : Segment) (s : State) (j : Nat) :
    seg? (goVacant i g s) j =
      if j = i then
        some
          { g with
            activity := .vacant, setbackTimer := none, changed := true, held := true,
            offTimer := if g.held then g.offTimer else none, shortTimer := if g.held then g.shortTimer else none }
      else seg? s j := by
  have hdim (u : State) : heldAgain u i { g with activity := .vacant, setbackTimer := none, changed := true } =
      { g with
        activity := .vacant, setbackTimer := none, changed := true, held := true,
        offTimer := if g.held then g.offTimer else none, shortTimer := if g.held then g.shortTimer else none } :=
    heldAgain_dimmed u i nofun
  rw [goVacant, seg?_recomputeHeld]
  by_cases hj : j = i
  · rw [if_pos hj, if_pos hj, seg?_retireRecords, seg?_putSeg_self, Option.map_some, Option.map_some, ← hdim s]
    split
    · rw [hdim, ← hdim (retireRecords _ true _), heldAgain_twice, hdim, hdim]
    · rw [hdim, hdim]
  · rw [if_neg hj, if_neg hj, seg?_retireRecords, seg?_putSeg_ne _ s hj]
    have hnone : (s.overrides.records.any fun o => (o.scope.segment == i && !isFacility o) && o.scope.segment == j) = false := by
      refine List.any_eq_false.mpr fun o _ h => hj ?_
      simp only [Bool.and_eq_true, beq_iff_eq] at h
      exact h.2.symm.trans h.1.1
    cases seg? s j with
    | none => rfl
    | some u => exact congrArg some (if_neg (by rw [Bool.not_eq_true]; exact hnone))

theorem goVacant_overrides : (goVacant i g s).overrides =
    { s.overrides with
      records := s.overrides.records.filter fun o => o.scope.segment != i || o.cls == .facility
      changed := s.overrides.changed || s.overrides.records.any fun o => o.scope.segment == i && o.cls != .facility } := by
  rw [goVacant, recomputeHeld_overrides, retireRecords_overrides]
  have hkeeps (o : Override) : (!(o.scope.segment == i && !isFacility o)) = (o.scope.segment != i || o.cls == .facility) := by
    rw [isFacility, Bool.not_and, Bool.not_not]
    rfl
  simp only [hkeeps, Bool.true_and]
  rfl

/-- R93: the record of a segment whose hold has run down. -/
theorem holdExpired_eq (i : Nat) (g : Segment) (s : State) : holdExpired i g s =
    putSeg i
      (if watched s i then
        { g with
          activity := .setback, holdTimer := none, setbackTimer := some (g.cfg.setbackTime * 600), changed := true,
          held := true, offTimer := if g.held then g.offTimer else none,
          shortTimer := if g.held then g.shortTimer else none }
       else { g with holdTimer := some (g.cfg.occupancyHold * 600) }) s := by
  have hdim (u : State) : heldAgain u i
      { g with
        activity := .setback, holdTimer := none, setbackTimer := startTimer (setbackTenths g.cfg), changed := true } =
      { g with
        activity := .setback, holdTimer := none, setbackTimer := startTimer (setbackTenths g.cfg), changed := true,
        held := true, offTimer := if g.held then g.offTimer else none,
        shortTimer := if g.held then g.shortTimer else none } := heldAgain_dimmed u i nofun
  unfold holdExpired
  split
  · rw [recomputeHeld_eq (seg?_putSeg_self i _ s), putSeg_putSeg, hdim]
    rfl
  · rfl

/-- Settles O51: the two expiries, the first by whether the segment is watched. -/
theorem occupancyTimersDimTheSegment : Obligations.OccupancyTimersDimTheSegment := by
  intro s i g hg
  have hg : seg? s i = some g := hg
  refine ⟨fun hdue => ?_, fun hdue => ?_⟩
  · have hf : segExpiry i (·.holdTimer) (holdExpired i) s = _ :=
      (segExpiry_due (timer := (·.holdTimer)) hg hdue).trans (holdExpired_eq i g s)
    obtain ⟨t, ht, hseg, hothers, haround, hport, hrecomposed⟩ := next_of_putSegEvent (c := .occupancyHoldExpiry i) rfl hf
    refine ⟨t, ht, hseg, fun hunwatched => ?_, hothers, haround, hport, hrecomposed⟩
    rw [if_neg (by rw [hunwatched]; exact Bool.false_ne_true)] at hf
    obtain ⟨t', ht', _, _, hfixtures, _⟩ := next_of_quietEvent (c := .occupancyHoldExpiry i) rfl hf hg ⟨rfl, rfl, rfl, rfl⟩
    rw [ht] at ht'
    cases ht'
    exact hfixtures
  · have hf : segExpiry i (·.setbackTimer) (goVacant i) s = goVacant i g s :=
      segExpiry_due (timer := (·.setbackTimer)) hg hdue
    obtain ⟨hfixtures, hfloor, hinputs, hport, _⟩ := (goVacant_listOnly i g s).same
    obtain ⟨t, ht, hafter, _⟩ := next_of_recordsEvent (c := .setbackTimerExpiry i) rfl
      (by rw [hf]; exact (goVacant_listOnly i g s).recordsOnly)
    rw [hf] at hafter
    refine ⟨t, ht, ?_, hafter.overrides.trans goVacant_overrides, fun j hj => ?_, hafter.inputs.trans hinputs,
      ⟨hafter.composer, hafter.inputLine.trans hfloor.2.1, hafter.time, hafter.pending⟩, ?_, hafter.recomposed⟩
    · rw [hafter.seg?, seg?_goVacant, if_pos rfl]
    · rw [hafter.seg?, seg?_goVacant, if_neg hj]
    · rw [SamePort, hafter.port, hport]

end Retire

end Sys2Proof.Machine
end

section
/-! SUPPORT. RETIRE SEGMENT (R16) and CANCEL OVERRIDE (R109). -/

namespace Sys2Proof.Machine

section Requests

variable {s t : State} {i j h : Nat} {g : Segment} {body : List Byte} {r : Override} {flag : Bool} {p : Override → Bool}

/-- R118: a segment that no retired record names is left alone. -/
theorem seg?_retireRecords_other (hnone : ∀ o ∈ s.overrides.records, p o = true → o.scope.segment ≠ j) :
    seg? (retireRecords p flag s) j = seg? s j := by
  have hany : ¬(s.overrides.records.any fun o => p o && o.scope.segment == j) = true := by
    rw [List.any_eq_true]
    rintro ⟨o, ho, hnamed⟩
    rw [Bool.and_eq_true, beq_iff_eq] at hnamed
    exact hnone o ho hnamed.1 hnamed.2
  rw [seg?_retireRecords]
  cases seg? s j with
  | none => rfl
  | some g => exact congrArg some (if_neg hany)

/-- R118, R65: a segment that a retired record names is released where nothing else holds it. -/
theorem seg?_retireRecords_named (hs : HeldOk s) (hr : r ∈ s.overrides.records) (hp : p r = true)
    (hg : seg? s r.scope.segment = some g) :
    seg? (retireRecords p flag s) r.scope.segment = some
      { g with
        held := g.activity != .occupied
          || (s.overrides.records.filter fun o => !p o).any fun o => o.scope.segment == r.scope.segment } := by
  have hany : (s.overrides.records.any fun o => p o && o.scope.segment == r.scope.segment) = true :=
    List.any_eq_true.mpr ⟨r, hr, by rw [hp, beq_self_eq_true, Bool.and_true]⟩
  have hheld : g.held = true := by
    rw [hs (r.scope.segment, g) (mem_of_seg? hg), isHeld_eq, Bool.or_eq_true]
    exact .inr (List.any_eq_true.mpr ⟨r, hr, beq_self_eq_true _⟩)
  rw [seg?_retireRecords, hg, Option.map_some, if_pos hany, heldAgain_loosened fun hfree => absurd (hfree.symm.trans hheld) nofun,
    isHeld_eq, retireRecords_overrides]

/-- R16: the segments and the list without a segment. -/
theorem seg?_retireSeg (i : Nat) (s : State) (j : Nat) : seg? (retireSeg i s) j = if j = i then none else seg? s j := by
  by_cases hj : j = i
  · rw [if_pos hj, hj]
    exact tabGet_del_self _ i
  · rw [if_neg hj]
    exact (tabGet_del_ne _ hj).trans
      (seg?_retireRecords_other fun o _ ho hoj => hj (hoj.symm.trans (beq_iff_eq.mp ho)))

/-- R127: a segment's retirement changes no input of another segment's composition. -/
theorem retireSeg_sameInputs (i : Nat) (s : State) (j : Nat) : sameInputs s (retireSeg i s) j = true := by
  unfold sameInputs
  rw [seg?_retireSeg]
  by_cases hj : j = i
  · rw [if_pos hj]
  · have hrecords : recordsOf (retireSeg i s) j = recordsOf s j := by
      have hlist : (retireSeg i s).overrides.records = s.overrides.records.filter fun o => !(o.scope.segment == i) :=
        congrArg OverrideList.records (retireRecords_overrides _ true s)
      rw [recordsOf, recordsOf, hlist, List.filter_filter]
      refine List.filter_congr fun o _ => ?_
      by_cases ho : o.scope.segment = j <;> simp [ho, hj]
    rw [if_neg hj, hrecords]
    cases seg? s j with
    | none => rfl
    | some g => simp

/-- Settles O31: the event recomposes nothing. -/
theorem retireSegmentTakesItsOverrides : Obligations.RetireSegmentTakesItsOverrides := by
  intro s body hlen hi hg href i
  obtain ⟨g, hg⟩ := Option.isSome_iff_exists.mp hg
  have hexec : exec (.retireSegment body) s = done (answer .ok 0x23 [] (event (retireSeg i) s)) := by
    simp only [exec, execRetireSegment, if_neg (Nat.not_lt.mpr hlen), if_neg (Nat.not_lt.mpr hi), hg, href, Bool.false_eq_true,
      if_false, i]
  have hquiet : event (retireSeg i) s = retireSeg i s := settle_of_sameInputs (retireSeg_sameInputs i s)
  rw [hquiet] at hexec
  obtain ⟨⟨hlums, hlineA, hlineB⟩, hfloor, hinputs, hport, _⟩ := (retireSeg_listOnly i s).same
  refine ⟨_, hexec, (seg?_retireSeg i s i).trans (if_pos rfl), fun j hj => (seg?_retireSeg i s j).trans (if_neg hj), hlums, hinputs,
    hfloor, hlineA, hlineB, ?_, congrArg (fun q : Port => ({ q with offered := _, attn := _ } : Port)) hport⟩
  have hlist : (retireSeg i s).overrides = _ := retireRecords_overrides (fun o => o.scope.segment == i) true s
  exact hlist.trans (by rw [Bool.true_and]; rfl)

/-- R104: a handle names one record. -/
theorem eq_of_handle_eq (hs : OverridesOk s) {o : Override} (hr : r ∈ s.overrides.records) (ho : o ∈ s.overrides.records)
    (heq : o.handle = r.handle) : o = r := by
  obtain ⟨_, _, hhandles, _⟩ := hs
  exact List.inj_on_of_nodup_map (List.pairwise_map.mpr hhandles) ho hr heq

/-- Settles O39: the refusals, and the retirement of the one record of the handle. -/
theorem cancelOverrideRetiresOneRecord : Obligations.CancelOverrideRetiresOneRecord := by
  intro s body refuses
  refine ⟨fun hbad => ?_, fun hlen hh hnone => ?_, fun htables hlist hheld hlen r hr hrh => ?_⟩
  · refine refused_of_deny ?_
    rcases hbad with hlen | hzero
    · exact if_pos hlen
    · simp only [exec, execCancelOverride, hzero, if_true, ite_self]
  · refine refused_of_deny ?_
    have hany : (s.overrides.records.any (·.handle == word2At body 0)) = false :=
      List.any_eq_false.mpr fun o ho => by
        rw [beq_iff_eq]
        exact hnone o ho
    simp only [exec, execCancelOverride, if_neg (Nat.not_lt.mpr hlen), if_neg hh, hany, Bool.false_eq_true, if_false]
  · have hpos : word2At body 0 ≠ 0 := by
      obtain ⟨_, _, _, _, hrecords, _⟩ := hlist
      have hok := hrecords r hr
      simp only [recordOk, Bool.and_eq_true, decide_eq_true_eq] at hok
      omega
    have hany : (s.overrides.records.any (·.handle == word2At body 0)) = true :=
      List.any_eq_true.mpr ⟨r, hr, beq_iff_eq.mpr hrh⟩
    have hexec : exec (.cancelOverride body) s =
        done (answer .ok 0x51 [] (event (retireRecords (fun o => o.handle == word2At body 0) false) s)) := by
      simp only [exec, execCancelOverride, if_neg (Nat.not_lt.mpr hlen), if_neg hpos, hany, if_true]
    have honly := retireRecords_listOnly (fun o => o.handle == word2At body 0) false s
    obtain ⟨_, hfloor, hinputs, hport, _⟩ := honly.same
    obtain ⟨t, ht, hleaves, hanswer⟩ := next_of_answeredEvent hexec honly.recordsOnly hport
    refine ⟨t, ht, ?_, fun g hg => ?_, fun j hj => ?_, hleaves.inputs.trans hinputs,
      ⟨hleaves.composer, hleaves.inputLine.trans hfloor.2.1, hleaves.time, hleaves.pending⟩, hleaves.recomposed, hanswer⟩
    · rw [hleaves.overrides, retireRecords_overrides, Bool.false_and, Bool.or_false]
      rfl
    · rw [hleaves.seg?]
      exact seg?_retireRecords_named (p := fun o => o.handle == word2At body 0) hheld hr (beq_iff_eq.mpr hrh) hg
    · rw [hleaves.seg?]
      refine seg?_retireRecords_other fun o ho hoh hoj => hj ?_
      rw [← eq_of_handle_eq hlist hr ho ((beq_iff_eq.mp hoh).trans hrh.symm), hoj]

end Requests

end Sys2Proof.Machine
end

section
/-! SUPPORT. RETIRE INPUT (R20) by the kind of the input. -/

namespace Sys2Proof.Machine

section RetireInput

variable {s t u : State} {a i j : Nat} {g : Segment} {n : Input} {body : List Byte} {flag : Bool} {p : Override → Bool}

/-- R64: under the law of the held flag, the segments that are dimmed or that a record left in the list names are held. -/
theorem seg?_retireRecords_held (hs : HeldOk s) (hg : seg? s j = some g) :
    seg? (retireRecords p flag s) j = some
      { g with
        held := g.activity != .occupied
          || (s.overrides.records.filter fun o => !p o).any fun o => o.scope.segment == j } := by
  by_cases hnamed : ∃ r ∈ s.overrides.records, p r = true ∧ r.scope.segment = j
  · obtain ⟨r, hr, hp, rfl⟩ := hnamed
    exact seg?_retireRecords_named hs hr hp hg
  · have hkept : (s.overrides.records.filter fun o => !p o).any (fun o => o.scope.segment == j) =
        s.overrides.records.any fun o => o.scope.segment == j := by
      rw [List.any_filter, Bool.eq_iff_iff, List.any_eq_true, List.any_eq_true]
      refine ⟨fun ⟨o, ho, h⟩ => ⟨o, ho, (Bool.and_eq_true_iff.mp h).2⟩, fun ⟨o, ho, h⟩ => ⟨o, ho, ?_⟩⟩
      have hleft : p o = false := Bool.eq_false_iff.mpr fun hp => hnamed ⟨o, ho, hp, beq_iff_eq.mp h⟩
      rw [hleft, h]
      rfl
    have hheld : g.held = (g.activity != .occupied || s.overrides.records.any fun o => o.scope.segment == j) :=
      (hs (j, g) (mem_of_seg? hg)).trans (isHeld_eq s j g)
    rw [seg?_retireRecords_other fun o ho hp hoj => hnamed ⟨o, ho, hp, hoj⟩, hg, hkept, ← hheld]

/-- R20: what leaves with an input before its kind is asked. -/
def inputGone (a : Nat) (s : State) : State := { forgetInput a s with inputs := tabDel s.inputs a }

theorem retireInput_eq (a : Nat) (n : Input) (s : State) :
    retireInput a n s =
      match n.device with
      | .photo _ _ => inputGone a s
      | .presence coverage _ => forEach coverage (reResolve true) (inputGone a s)
      | .station _ _ _ _ => retireStation a (inputGone a s) := rfl

theorem inputGone_inputLine (a : Nat) (s : State) : (inputGone a s).inputLine =
    { s.inputLine with
      due := s.inputLine.due.filter fun b => b != a
      flight := s.inputLine.flight.map fun f =>
        match f with
        | .due b mark => .due b (if b = a then .retired else mark)
        | spot => spot } := by
  obtain ⟨_, _, _, _, _, _, _, ⟨_, _, _, _, flight, _⟩, _, _, _, _⟩ := s
  cases flight with
  | none => rfl
  | some f => cases f <;> rfl

/-- R127: an event that leaves the segments and the list recomposes nothing. -/
theorem event_of_sameRecords {f : State → State} (hsegs : (f s).segs = s.segs) (hlist : (f s).overrides = s.overrides) :
    event f s = f s := by
  refine settle_of_sameInputs fun j => ?_
  have hseg : seg? (f s) j = seg? s j := by rw [seg?, hsegs, seg?]
  have hrecords : recordsOf (f s) j = recordsOf s j := by rw [recordsOf, hlist, recordsOf]
  rw [sameInputs, hseg, hrecords]
  cases seg? s j with
  | none => rfl
  | some g => simp

theorem exec_retireInput (hlen : 1 ≤ body.length) (ha : byteAt body 0 ≤ 47) (hn : input? s (byteAt body 0) = some n)
    (hfree : deviceKind n.device = .photo → namedAsSensor s (byteAt body 0) = false) :
    exec (.retireInput body) s = done (answer .ok 0x33 [] (event (retireInput (byteAt body 0) n) s)) := by
  have hfree' : ¬(deviceKind n.device = .photo ∧ namedAsSensor s (byteAt body 0) = true) :=
    fun h => Bool.false_ne_true ((hfree h.1).symm.trans h.2)
  simp only [exec, execRetireInput, if_neg (Nat.not_lt.mpr hlen), if_neg (Nat.not_lt.mpr ha), hn, if_neg hfree']

/-- R96: what a request's re-resolution leaves of a segment that returns to OCCUPIED. -/
theorem resolvedSeg_byRequest (hresolves : g.cfg.sensing = true ∧ g.activity ≠ .occupied ∧ watched s i = false) :
    (resolvedSeg true s i g).activity = .occupied
      ∧ (resolvedSeg true s i g).holdTimer = some (g.cfg.occupancyHold * 600) ∧ (resolvedSeg true s i g).setbackTimer = none
      ∧ (resolvedSeg true s i g).changed = g.changed ∧ (resolvedSeg true s i g).cfg = g.cfg
      ∧ (resolvedSeg true s i g).h = g.h ∧ (resolvedSeg true s i g).ctl = g.ctl := by
  have hflag : activityFlag true g = g.changed := by simp [activityFlag]
  rw [resolvedSeg, if_pos hresolves, hflag, heldAgain]
  split <;> exact ⟨rfl, rfl, rfl, rfl, rfl, rfl, rfl⟩

/-- R96: the segments that re-resolve by a request. -/
theorem seg?_resolvedByRequest {ks : List Nat} (hg : seg? u j = some g)
    (ht : seg? t j = seg? (forEach ks (reResolve true) u) j) (hw : t.inputs = u.inputs) {q : Prop} [Decidable q]
    (hq : q ↔ j ∈ ks ∧ g.cfg.sensing = true ∧ g.activity ≠ .occupied ∧ watched t j = false) :
    if q then
      ∃ v ∈ seg? t j, v.activity = .occupied ∧ v.holdTimer = some (g.cfg.occupancyHold * 600) ∧ v.setbackTimer = none
        ∧ v.changed = g.changed ∧ v.cfg = g.cfg ∧ v.h = g.h ∧ v.ctl = g.ctl
    else seg? t j = some g := by
  rw [watched_congr hw] at hq
  rw [seg?_forEach_reResolve, hg, Option.map_some] at ht
  split
  · rename_i hresolves
    obtain ⟨hmem, hresolves⟩ := hq.mp hresolves
    rw [if_pos hmem] at ht
    exact ⟨_, ht, resolvedSeg_byRequest hresolves⟩
  · rename_i hstays
    rw [ht]
    split
    · rename_i hmem
      exact congrArg some (if_neg fun h => hstays (hq.mpr ⟨hmem, h⟩))
    · rfl

/-- Settles O34, by the kind of the input. -/
theorem retireInputForgetsIt : Obligations.RetireInputForgetsIt := by
  intro s body hlen ha a n hn hfree
  have hn : input? s a = some n := hn
  have hexec := exec_retireInput hlen ha hn hfree
  obtain ⟨t, ht, hleaves, hanswer⟩ := next_of_answeredEvent hexec (retireInput_recordsOnly a n s) (retireInput_port a n s)
  have hline : (retireInput a n s).inputLine = (inputGone a s).inputLine := retireInput_inputLine a n s
  have hinput (b : Nat) : input? t b = tabGet (tabDel s.inputs a) b := by
    rw [hleaves.input?, input?, retireInput_inputs]
  refine ⟨t, ht, (hinput a).trans (tabGet_del_self _ a), fun b hb => (hinput b).trans (tabGet_del_ne _ hb),
    hleaves.inputLine.trans (hline.trans (inputGone_inputLine a s)), fun hkind => ?_, fun hkind j g hg => ?_,
    fun hkind hs j g hg => ?_, ?_, hleaves.composer, hleaves.time, hleaves.pending, hleaves.recomposed, hanswer⟩
  · have hgone : retireInput a n s = inputGone a s := by
      rw [retireInput_eq]
      cases hd : n.device with
      | photo c m => rfl
      | presence coverage last => rw [hd] at hkind; cases hkind
      | station x h b q => rw [hd] at hkind; cases hkind
    have hquiet : event (retireInput a n) s = inputGone a s :=
      (event_of_sameRecords (f := retireInput a n) (by rw [hgone]; rfl) (by rw [hgone]; rfl)).trans hgone
    rw [hexec, hquiet] at ht
    cases ht
    exact ⟨rfl, rfl, rfl, rfl⟩
  · cases hd : n.device with
    | photo c m => rw [hd] at hkind; cases hkind
    | station x h b q => rw [hd] at hkind; cases hkind
    | presence coverage last =>
      have hgone : retireInput a n s = forEach coverage (reResolve true) (inputGone a s) := by rw [retireInput_eq, hd]
      refine seg?_resolvedByRequest (u := inputGone a s) (ks := coverage) hg (by rw [hleaves.seg?, hgone]) ?_ Iff.rfl
      rw [hleaves.inputs, retireInput_inputs]
      rfl
  · have hgone : retireInput a n s = retireStation a (inputGone a s) := by
      rw [retireInput_eq]
      cases hd : n.device with
      | photo c m => rw [hd] at hkind; cases hkind
      | presence coverage last => rw [hd] at hkind; cases hkind
      | station x h b q => rfl
    have hlist : t.overrides.records = s.overrides.records.filter fun o => !(o.origin == .station a) := by
      rw [hleaves.overrides, hgone]
      exact congrArg OverrideList.records (retireRecords_overrides _ true (inputGone a s))
    rw [hleaves.seg?, hgone, hlist]
    exact seg?_retireRecords_held (s := inputGone a s) hs hg
  · rw [hleaves.overrides, retireInput_eq]
    cases hd : n.device with
    | photo c m => rfl
    | presence coverage last => exact (forEach_reResolve_segsOnly true coverage (inputGone a s)).same.2.1.2.1
    | station x h b q => exact retireRecords_overrides (fun o => o.origin == .station a) true (inputGone a s)

end RetireInput

end Sys2Proof.Machine
end

section
/-! SUPPORT. ENROL INPUT and AMEND INPUT (R17 to R19): what a body gives the fields of an input. -/

namespace Sys2Proof.Machine

section InputFields

variable {s t : State} {body : List Byte} {a i j : Nat} {n : Input} {d : Device} {k : InputKind} {clamped : Bool}

/-- R3: a carried value that stands in its range is taken as it is. -/
theorem takeNum_exact {lo hi : Nat} (h : lo ≤ hi) (held mask bit v : Nat) :
    (takeNum lo hi held (carriedAt mask bit v)).2 = false ↔ (mask.testBit bit = true → lo ≤ v ∧ v ≤ hi) := by
  rw [takeNum_carried, decide_eq_false_iff_not, not_and, not_not]
  exact imp_congr Iff.rfl (by omega)

theorem takeNum_taken {lo hi : Nat} (held mask bit v : Nat) :
    (takeNum lo hi held (carriedAt mask bit v)).2 = false ↔
      (mask.testBit bit = true → (takeNum lo hi held (carriedAt mask bit v)).1 = v) := by
  rw [takeNum_carried, decide_eq_false_iff_not, not_and, not_not]
  cases mask.testBit bit <;> simp

theorem word2At_le (body : List Byte) (n : Nat) : word2At body n ≤ 65535 := by
  have hhigh := (body.getD n 0#8).isLt
  have hlow := (body.getD (n + 1) 0#8).isLt
  simp only [word2At, byteAt]
  omega

/-! ## Coverages and scopes (R18) -/

theorem coverageIn_iff (s : State) (body : List Byte) (ids : List Nat) : coverageIn s body = some ids ↔
    1 ≤ byteAt body 5 ∧ byteAt body 5 ≤ 4 ∧ ids.length = byteAt body 5
      ∧ (∀ j < byteAt body 5, ids[j]? = some (byteAt body (6 + j)))
      ∧ ids.Nodup ∧ ∀ i ∈ ids, (seg? s i).isSome = true := by
  have hids (hn : byteAt body 5 ≤ 4) : ((List.range 4).map fun j => byteAt body (6 + j)).take (byteAt body 5) = ids ↔
      ids.length = byteAt body 5 ∧ ∀ j < byteAt body 5, ids[j]? = some (byteAt body (6 + j)) := by
    constructor
    · rintro rfl
      refine ⟨by simp [hn], fun j hj => ?_⟩
      have hj4 : j < 4 := by omega
      simp [hj, hj4]
    · rintro ⟨hlen, hget⟩
      refine List.ext_getElem? fun j => ?_
      by_cases hj : j < byteAt body 5
      · have hj4 : j < 4 := by omega
        simp [hj, hj4, hget j hj]
      · rw [List.getElem?_eq_none (by simp; omega), List.getElem?_eq_none (by omega)]
  simp only [coverageIn, Option.ite_none_right_eq_some, Option.some.injEq, List.all_eq_true]
  constructor
  · rintro ⟨⟨hpos, hn, hnodup, hdefined⟩, heq⟩
    obtain ⟨hlen, hget⟩ := (hids hn).mp heq
    rw [heq] at hnodup hdefined
    exact ⟨hpos, hn, hlen, hget, hnodup, hdefined⟩
  · rintro ⟨hpos, hn, hlen, hget, hnodup, hdefined⟩
    have heq := (hids hn).mpr ⟨hlen, hget⟩
    exact ⟨⟨hpos, hn, by rw [heq]; exact hnodup, by rw [heq]; exact hdefined⟩, heq⟩

theorem scopeOk_iff (s : State) (x : Scope) : scopeOk s x = true ↔
    x.segment ≤ 31 ∧ (seg? s x.segment).isSome = true ∧ x.first ≤ x.last ∧ x.last ≤ 15 := by
  simp only [scopeOk, Bool.and_eq_true, decide_eq_true_eq, and_assoc]

/-! ## The device that a body gives -/

/-- R17: the photosensor settings that a body gives. -/
def takenPhoto (body : List Byte) (c : PhotoConfig) : PhotoConfig :=
  { shift := if (byteAt body 1).testBit 2 then min (byteAt body 5) 6 else c.shift
    tolerance := if (byteAt body 1).testBit 3 then max 1 (min (word2At body 6) 1000) else c.tolerance
    spike := if (byteAt body 1).testBit 4 then word2At body 8 else c.spike
    ratio := if (byteAt body 1).testBit 5 then max 1 (min (word2At body 10) 4095) else c.ratio }

/-- R17: the photosensor settings of a body stand in their ranges. -/
abbrev PhotoFits (body : List Byte) : Prop :=
  ((byteAt body 1).testBit 2 = true → byteAt body 5 ≤ 6)
    ∧ ((byteAt body 1).testBit 3 = true → 1 ≤ word2At body 6 ∧ word2At body 6 ≤ 1000)
    ∧ ((byteAt body 1).testBit 5 = true → 1 ≤ word2At body 10 ∧ word2At body 10 ≤ 4095)

theorem takeDevice_photo (s : State) (body : List Byte) (c : PhotoConfig) (m : Measurement) :
    ∃ b, takeDevice s body (.photo c m) = some (.photo (takenPhoto body c) m, b) ∧ (b = false ↔ PhotoFits body) := by
  have hspike : max 0 (min (word2At body 8) 65535) = word2At body 8 := by
    have hle := word2At_le body 8
    omega
  have hconfig : takeDevice s body (.photo c m) = some (.photo (takenPhoto body c) m,
      (takeNum 0 6 c.shift (carriedAt (byteAt body 1) 2 (byteAt body 5))).2
        || (takeNum 1 1000 c.tolerance (carriedAt (byteAt body 1) 3 (word2At body 6))).2
        || (takeNum 0 65535 c.spike (carriedAt (byteAt body 1) 4 (word2At body 8))).2
        || (takeNum 1 4095 c.ratio (carriedAt (byteAt body 1) 5 (word2At body 10))).2) := by
    simp only [takeDevice, inputMask, takeNum_carried, hspike, Nat.zero_max]
    rfl
  refine ⟨_, hconfig, ?_⟩
  simp only [Bool.or_eq_false_iff, takeNum_exact (show (0 : Nat) ≤ 6 by decide), takeNum_exact (show (1 : Nat) ≤ 1000 by decide),
    takeNum_exact (show (0 : Nat) ≤ 65535 by decide), takeNum_exact (show (1 : Nat) ≤ 4095 by decide)]
  have hle := word2At_le body 8
  constructor
  · rintro ⟨⟨⟨hshift, htolerance⟩, _⟩, hratio⟩
    exact ⟨fun h => (hshift h).2, htolerance, hratio⟩
  · rintro ⟨hshift, htolerance, hratio⟩
    exact ⟨⟨⟨fun h => ⟨Nat.zero_le _, hshift h⟩, htolerance⟩, fun _ => ⟨Nat.zero_le _, hle⟩⟩, hratio⟩

theorem takeDevice_station (x : Scope) (hold : Nat) (b : Option Button) (q : Option Nat)
    (hscope : (byteAt body 1).testBit 2 = true → scopeOk s ⟨byteAt body 5, byteAt body 6, byteAt body 7⟩ = true) :
    ∃ c, takeDevice s body (.station x hold b q) =
        some
          (.station (if (byteAt body 1).testBit 2 then ⟨byteAt body 5, byteAt body 6, byteAt body 7⟩ else x)
            (if (byteAt body 1).testBit 3 then max 1 (min (word2At body 8) 720) else hold) b q, c)
      ∧ (c = false ↔ ((byteAt body 1).testBit 3 = true → 1 ≤ word2At body 8 ∧ word2At body 8 ≤ 720)) := by
  have hstation : takeDevice s body (.station x hold b q) =
      some
        (.station (if (byteAt body 1).testBit 2 then ⟨byteAt body 5, byteAt body 6, byteAt body 7⟩ else x)
          (if (byteAt body 1).testBit 3 then max 1 (min (word2At body 8) 720) else hold) b q,
          (takeNum 1 720 hold (carriedAt (byteAt body 1) 3 (word2At body 8))).2) := by
    simp only [takeDevice, inputMask, takeNum_carried, scopeIn]
    cases hbit : (byteAt body 1).testBit 2 with
    | true => rw [if_pos rfl, if_pos rfl, if_pos (hscope hbit)]
    | false => rw [if_neg Bool.false_ne_true, if_neg Bool.false_ne_true]
  exact ⟨_, hstation, takeNum_exact (by decide) _ _ _ _⟩

theorem takeDevice_presence {ids old : List Nat} (last : Option Report)
    (hids : (if (byteAt body 1).testBit 2 then coverageIn s body else some old) = some ids) :
    takeDevice s body (.presence old last) = some (.presence ids last, false) := by
  rw [takeDevice, inputMask]
  split at hids
  · rename_i hbit
    rw [if_pos hbit, hids]
    rfl
  · rename_i hbit
    rw [if_neg hbit, Option.some.inj hids]

end InputFields

end Sys2Proof.Machine
end

section
/-! SUPPORT. ENROL INPUT creates a record, AMEND INPUT changes one (R17, R19, R46, R96). -/

namespace Sys2Proof.Machine

section Inputs

variable {s t : State} {body : List Byte} {a i j : Nat} {n : Input} {d : Device} {k : InputKind} {clamped : Bool}
  {g : Segment}

/-- R17: the poll interval and the miss limit that a body gives. -/
def takenInput (body : List Byte) (n : Input) (d : Device) : Input :=
  { n with
    device := d
    interval := if (byteAt body 1).testBit 0 then max 2 (min (byteAt body 3) 50) else n.interval
    missLimit := if (byteAt body 1).testBit 1 then max 1 (min (byteAt body 4) 15) else n.missLimit }

/-- R3: the poll interval and the miss limit were taken as they were carried. -/
abbrev InputExact (body : List Byte) (n : Input) : Prop :=
  ((byteAt body 1).testBit 0 = true → n.interval = byteAt body 3)
    ∧ ((byteAt body 1).testBit 1 = true → n.missLimit = byteAt body 4)

/-- R17, R19: whether the fields of an input were taken as they were carried. -/
theorem takenInput_exact {q : Prop} (hclamped : clamped = false ↔ q) (body : List Byte) (n : Input) (d : Device) :
    (clamped || (takeNum 2 50 n.interval (carriedAt (inputMask body) 0 (byteAt body 3))).2
      || (takeNum 1 15 n.missLimit (carriedAt (inputMask body) 1 (byteAt body 4))).2) = false ↔
      InputExact body (takenInput body n d) ∧ q := by
  rw [Bool.or_eq_false_iff, Bool.or_eq_false_iff, takeNum_taken, takeNum_taken, hclamped, takeNum_carried, takeNum_carried]
  exact ⟨fun ⟨⟨hq, hinterval⟩, hlimit⟩ => ⟨⟨hinterval, hlimit⟩, hq⟩, fun ⟨⟨hinterval, hlimit⟩, hq⟩ => ⟨⟨hq, hinterval⟩, hlimit⟩⟩

/-- R3: the status of an answer by what was taken as it was carried. -/
theorem portAnswers_ok {b : Bool} {q : Prop} {code : Nat} {bytes : List Byte} (h : b = false ↔ q)
    (hport : PortAnswers s t (okOr b) code bytes) (hq : q) : PortAnswers s t .ok code bytes := by
  rw [h.mpr hq] at hport
  exact hport

theorem portAnswers_clamped {b : Bool} {q : Prop} {code : Nat} {bytes : List Byte} (h : b = false ↔ q)
    (hport : PortAnswers s t (okOr b) code bytes) (hq : ¬q) : PortAnswers s t .clamped code bytes := by
  cases b with
  | false => exact absurd (h.mp rfl) hq
  | true => exact hport

/-- R17: the record that an enrolment starts from. -/
def freshInput (d : Device) (interval : Nat) : Input :=
  { device := d, interval := interval, missLimit := 3, link := .absent, missCount := 0, pollTimer := none, changed := false }

/-- R17, R21: an enrolment that passes its checks. -/
theorem next_of_enrolInput {q : Prop} (hlen : 12 ≤ body.length) (ha : byteAt body 0 ≤ 47)
    (hnone : input? s (byteAt body 0) = none) (hkind : kindOfCode (byteAt body 2) = some k)
    (hown : carriesForeign k body = false) (hcomplete : enrolComplete k body = true)
    (hd : takeDevice s body (freshDevice k) = some (d, clamped)) (hclamped : clamped = false ↔ q)
    (hn : n = { takenInput body (freshInput d (defaultInterval k)) d with
      pollTimer := some (takenInput body (freshInput d (defaultInterval k)) d).interval }) :
    ∃ t, exec (.enrolInput body) s = .next t ∧ input? t (byteAt body 0) = some n ∧ OtherInputsSame s t (byteAt body 0)
      ∧ t = { s with inputs := t.inputs, port := t.port }
      ∧ (InputExact body n ∧ q → PortAnswers s t .ok 0x30 (inputRecord (byteAt body 0) n))
      ∧ (¬(InputExact body n ∧ q) → PortAnswers s t .clamped 0x30 (inputRecord (byteAt body 0) n)) := by
  have hexact := takenInput_exact hclamped body (freshInput d (defaultInterval k)) d
  have hexec : exec (.enrolInput body) s = done (answer
      (okOr (clamped || (takeNum 2 50 (defaultInterval k) (carriedAt (inputMask body) 0 (byteAt body 3))).2
        || (takeNum 1 15 3 (carriedAt (inputMask body) 1 (byteAt body 4))).2)) 0x30 (inputRecord (byteAt body 0) n)
      (putInput (byteAt body 0) n s)) := by
    simp only [exec, execEnrolInput, if_neg (Nat.not_lt.mpr hlen), if_neg (Nat.not_lt.mpr ha), hnone, hkind, hown, hcomplete, hd,
      Bool.not_true, Bool.or_false, Bool.false_eq_true, if_false, takeNum_carried, hn]
    rfl
  obtain ⟨t, ht, hinput, hothers, hport, hrest⟩ := taken_of_putInput hexec
  subst hn
  exact ⟨t, ht, hinput, hothers, hrest, fun hq => portAnswers_ok hexact hport hq, fun hq => portAnswers_clamped hexact hport hq⟩

/-- Settles O32: coverages and scopes, and the enrolment of each kind. -/
theorem enrolInputCreatesTheRecord : Obligations.EnrolInputCreatesTheRecord := by
  refine ⟨coverageIn_iff, scopeOk_iff, fun s body hlen ha hnone => ?_⟩
  intro a mask made photo station exact' creates
  refine ⟨fun hcode => ?_, fun hcode h2 h3 h4 h5 ids hids => ?_, fun hcode h2 h4 h5 hscope => ?_⟩
  · obtain ⟨b, hd, hb⟩ := takeDevice_photo s body ⟨3, 50, 1500, 1024⟩ unseeded
    exact next_of_enrolInput hlen ha hnone (k := .photo) (by rw [hcode]; rfl) rfl rfl hd hb rfl
  · have hd : takeDevice s body (.presence [] none) = some (.presence ids none, false) :=
      takeDevice_presence none (by rw [if_pos h2]; exact hids)
    exact next_of_enrolInput hlen ha hnone (k := .presence) (by rw [hcode]; rfl) (by simp [carriesForeign, inputMask]; exact ⟨⟨h3, h4⟩, h5⟩) h2 hd
      (iff_of_true rfl trivial) rfl
  · obtain ⟨c, hd, hc⟩ := takeDevice_station (s := s) (body := body) ⟨0, 0, 0⟩ 120 none none fun _ => hscope
    rw [if_pos h2] at hd
    exact next_of_enrolInput hlen ha hnone (k := .station) (by rw [hcode]; rfl) (by simp [carriesForeign, inputMask]; exact ⟨h4, h5⟩) h2 hd hc rfl

/-! ## AMEND INPUT -/

/-- R19: an amendment that passes its checks. -/
theorem exec_amendInput (hlen : 12 ≤ body.length) (ha : byteAt body 0 ≤ 47) (hn : input? s (byteAt body 0) = some n)
    (hcode : byteAt body 2 = 0 ∨ byteAt body 2 = (deviceKind n.device).code)
    (hown : carriesForeign (deviceKind n.device) body = false) (hd : takeDevice s body n.device = some (d, clamped)) :
    exec (.amendInput body) s = done (answer
      (okOr (clamped || (takeNum 2 50 n.interval (carriedAt (inputMask body) 0 (byteAt body 3))).2
        || (takeNum 1 15 n.missLimit (carriedAt (inputMask body) 1 (byteAt body 4))).2)) 0x31
      (inputAnswer (byteAt body 0) (event (amendInputRecord (byteAt body 0) n (takenInput body n d)) s))
      (event (amendInputRecord (byteAt body 0) n (takenInput body n d)) s)) := by
  have hgood : ¬((byteAt body 2 ≠ 0 ∧ byteAt body 2 ≠ (deviceKind n.device).code)
      ∨ carriesForeign (deviceKind n.device) body = true) := by
    rintro (⟨hzero, hother⟩ | hforeign)
    · exact hcode.elim hzero hother
    · exact Bool.false_ne_true (hown.symm.trans hforeign)
  simp only [exec, execAmendInput, if_neg (Nat.not_lt.mpr hlen), if_neg (Nat.not_lt.mpr ha), hn, if_neg hgood, hd, takeNum_carried]
  rfl

theorem amendInputRecord_inputs (a : Nat) (old new : Input) (s : State) :
    (amendInputRecord a old new s).inputs = (putInput a new s).inputs := forEach_reResolve_inputs true _ _

theorem amendInputRecord_port (a : Nat) (old new : Input) (s : State) : (amendInputRecord a old new s).port = s.port :=
  (forEach_reResolve_segsOnly true _ (putInput a new s)).same.2.2.1

theorem amendInputRecord_recordsOnly (a : Nat) (old new : Input) (s : State) :
    RecordsOnly s (amendInputRecord a old new s) :=
  .trans (t := putInput a new s) rfl (forEach_reResolve_segsOnly true _ _).recordsOnly

/-- R19: the record and the answer of an amendment that passes its checks. -/
theorem next_of_amendInput {q : Prop} (hlen : 12 ≤ body.length) (ha : byteAt body 0 ≤ 47)
    (hn : input? s (byteAt body 0) = some n) (hcode : byteAt body 2 = 0 ∨ byteAt body 2 = (deviceKind n.device).code)
    (hown : carriesForeign (deviceKind n.device) body = false) (hd : takeDevice s body n.device = some (d, clamped))
    (hclamped : clamped = false ↔ q) :
    ∃ t, exec (.amendInput body) s = .next t
      ∧ (input? t (byteAt body 0) = some (takenInput body n d) ∧ OtherInputsSame s t (byteAt body 0)
        ∧ (InputExact body (takenInput body n d) ∧ q →
            PortAnswers s t .ok 0x31 (inputRecord (byteAt body 0) (takenInput body n d)))
        ∧ (¬(InputExact body (takenInput body n d) ∧ q) →
            PortAnswers s t .clamped 0x31 (inputRecord (byteAt body 0) (takenInput body n d))))
      ∧ EventLeaves s (amendInputRecord (byteAt body 0) n (takenInput body n d) s) t
      ∧ ∃ p, t = { event (amendInputRecord (byteAt body 0) n (takenInput body n d)) s with port := p } := by
  have hexec := exec_amendInput hlen ha hn hcode hown hd
  have hexact := takenInput_exact hclamped body n d
  have hinput (b : Nat) : input? (event (amendInputRecord (byteAt body 0) n (takenInput body n d)) s) b =
      input? (putInput (byteAt body 0) (takenInput body n d) s) b := by
    rw [input?_event, input?, amendInputRecord_inputs]
    rfl
  have hself := (hinput (byteAt body 0)).trans (input?_putInput_self _ _ s)
  have hanswer : inputAnswer (byteAt body 0) (event (amendInputRecord (byteAt body 0) n (takenInput body n d)) s) =
      inputRecord (byteAt body 0) (takenInput body n d) := by
    rw [inputAnswer, hself]
    rfl
  rw [hanswer] at hexec
  obtain ⟨t, ht, hleaves, hport⟩ := next_of_answeredEvent hexec (amendInputRecord_recordsOnly _ _ _ s) (amendInputRecord_port _ _ _ s)
  refine ⟨t, ht, ⟨?_, fun b hb => ?_, portAnswers_ok hexact hport, portAnswers_clamped hexact hport⟩, hleaves, ?_⟩
  · rw [hleaves.input?, ← input?_event, hself]
  · rw [hleaves.input?, ← input?_event, hinput, input?_putInput_ne _ _ hb]
  · rw [hexec] at ht
    cases ht
    exact ⟨_, rfl⟩

/-- R19: the amendment of an input that covers nothing changes its record alone. -/
theorem amendInputRecord_plain {new : Input} (hold : coverageOf n.device = []) (hnew : coverageOf new.device = []) :
    event (amendInputRecord a n new) s = putInput a new s := by
  have hput : amendInputRecord a n new s = putInput a new s := by
    rw [amendInputRecord, hold, hnew]
    rfl
  rw [event_of_sameRecords (f := amendInputRecord a n new) (by rw [hput]; rfl) (by rw [hput]; rfl), hput]

theorem mem_coverageDelta (old new : List Nat) (j : Nat) :
    j ∈ coverageDelta old new ↔ (old.contains j != new.contains j) = true := by
  rw [coverageDelta, List.mem_append, List.mem_filter, List.mem_filter]
  by_cases hold : j ∈ old <;> by_cases hnew : j ∈ new <;> simp [hold, hnew]

/-- Settles O33, by the kind of the input. -/
theorem amendInputTakesItsSettings : Obligations.AmendInputTakesItsSettings := by
  intro s body htables hlen ha a mask n hn hcode
  have hn : input? s a = some n := hn
  refine ⟨fun c m hdevice => ?_, fun x hold b q hdevice h4 h5 hscope => ?_, fun old last hdevice h3 h4 h5 ids hids => ?_⟩
  · obtain ⟨b, hd, hb⟩ := takeDevice_photo s body c m
    rw [← hdevice] at hd
    obtain ⟨t, ht, hanswers, _, p, hp⟩ := next_of_amendInput hlen ha hn hcode (by rw [hdevice]; rfl) hd hb
    refine ⟨t, ht, hanswers, ?_⟩
    rw [hp, amendInputRecord_plain (by rw [hdevice]; rfl) rfl]
    rfl
  · obtain ⟨c, hd, hc⟩ := takeDevice_station x hold b q hscope
    rw [← hdevice] at hd
    obtain ⟨t, ht, hanswers, _, p, hp⟩ :=
      next_of_amendInput hlen ha hn hcode (by rw [hdevice]; exact Bool.or_eq_false_iff.mpr ⟨h4, h5⟩) hd hc
    refine ⟨t, ht, hanswers, ?_⟩
    rw [hp, amendInputRecord_plain (by rw [hdevice]; rfl) rfl]
    rfl
  · have hd := takeDevice_presence (s := s) (body := body) last hids
    rw [← hdevice] at hd
    obtain ⟨t, ht, hanswers, hleaves, _⟩ := next_of_amendInput (q := True) hlen ha hn hcode
      (by rw [hdevice]; exact Bool.or_eq_false_iff.mpr ⟨Bool.or_eq_false_iff.mpr ⟨h3, h4⟩, h5⟩) hd (iff_of_true rfl trivial)
    obtain ⟨_, ⟨_, hlist, _, hline, _⟩, _⟩ :=
      (forEach_reResolve_segsOnly true (coverageDelta (coverageOf n.device) ids) (putInput a (takenInput body n (.presence ids last)) s)).same
    refine ⟨t, ht, hanswers, fun j g hg => ?_, hleaves.overrides.trans hlist,
      ⟨hleaves.composer, hleaves.inputLine.trans hline, hleaves.time, hleaves.pending⟩, hleaves.recomposed⟩
    refine seg?_resolvedByRequest (u := putInput a (takenInput body n (.presence ids last)) s)
      (ks := coverageDelta (coverageOf n.device) ids) hg (hleaves.seg? j) ?_ ?_
    · rw [hleaves.inputs, amendInputRecord_inputs]
    · rw [mem_coverageDelta, hdevice]
      rfl

end Inputs

end Sys2Proof.Machine
end

section
/-! SUPPORT. The minute event (R130, R111): the tallies and the holds. -/

namespace Sys2Proof.Machine

section Minute

variable {s t u : State} {i j k : Nat} {g : Segment} {c : Instr}

/-! ## The members of a segment -/

theorem memberAt_some (ht : TablesOk s) {p : Nat} (h : memberAt s i p = some k) :
    ∃ l, lum? s k = some l ∧ l.place = some ⟨i, p⟩ := by
  obtain ⟨e, hfind, rfl⟩ := Option.map_eq_some_iff.mp h
  exact ⟨e.2, tabGet_of_mem ht.1.1 (List.mem_of_find?_eq_some hfind),
    beq_iff_eq.mp (List.find?_some (p := fun e : Nat × Luminaire => e.2.place == some ⟨i, p⟩) hfind)⟩

theorem members_nodup (ht : TablesOk s) (i : Nat) : (members s i).Nodup := by
  refine List.Nodup.filterMap (fun p q k hp hq => ?_) List.nodup_range
  obtain ⟨l, hl, hlp⟩ := memberAt_some ht hp
  obtain ⟨m, hm, hmq⟩ := memberAt_some ht hq
  rw [hl] at hm
  cases hm
  rw [hlp] at hmq
  exact congrArg Place.position (Option.some.inj hmq)

/-- R11: the members of a segment are the luminaires assigned to it. -/
theorem members_perm (ht : TablesOk s) (hr : RefsOk s) (i : Nat) :
    (members s i).Perm ((s.lums.filter fun e => e.2.place.any fun p => p.segment == i).map (·.1)) := by
  have hkeys : ((s.lums.filter fun e => e.2.place.any fun p => p.segment == i).map (·.1)).Nodup :=
    (List.pairwise_map.mpr (ht.1.1.imp fun h => Nat.ne_of_lt h)).sublist (List.filter_sublist.map _)
  refine (List.perm_ext_iff_of_nodup (members_nodup ht i) hkeys).mpr fun k => ?_
  constructor
  · intro hk
    obtain ⟨p, _, hp⟩ := List.mem_filterMap.mp hk
    obtain ⟨l, hl, hlp⟩ := memberAt_some ht hp
    refine List.mem_map.mpr ⟨(k, l), List.mem_filter.mpr ⟨mem_of_tabGet hl, ?_⟩, rfl⟩
    simp [hlp]
  · intro hk
    obtain ⟨e, he, rfl⟩ := List.mem_map.mp hk
    obtain ⟨hmem, hany⟩ := List.mem_filter.mp he
    cases hp : e.2.place with
    | none =>
      rw [hp] at hany
      cases hany
    | some p =>
      rw [hp] at hany
      rw [← beq_iff_eq.mp hany]
      exact mem_members hr (tabGet_of_mem ht.1.1 hmem) hp

/-- R130: the levels that a tally rises by. -/
theorem memberLevels_eq (ht : TablesOk s) (hr : RefsOk s) (i : Nat) :
    memberLevels s i =
      ((s.lums.filter fun e => e.2.place.any fun p => p.segment == i).map fun e =>
        (e.2.composed.map (·.level)).getD 0).sum := by
  rw [memberLevels, ((members_perm ht hr i).map _).sum_eq, List.map_map]
  congr 1
  refine List.map_congr_left fun e he => ?_
  have hl : lum? s e.1 = some e.2 := tabGet_of_mem ht.1.1 (List.mem_filter.mp he).1
  simp [hl]

/-! ## The two halves -/

/-- R111: the override list after a minute event. -/
def countedList (l : OverrideList) : OverrideList :=
  { l with
    records := (l.records.map fun o => { o with hold := o.hold.map (· - 1) }).filter fun o => o.hold != some 0
    changed := l.changed || (l.records.map fun o => { o with hold := o.hold.map (· - 1) }).any fun o => o.hold == some 0 }

theorem countHolds_overrides (s : State) : (countHolds s).overrides = countedList s.overrides :=
  retireRecords_overrides (fun o => o.hold == some 0) true _

/-- R111: the count of the holds leaves every tally. -/
theorem countHolds_tally (s : State) (j : Nat) : (seg? (countHolds s) j).map (·.tally) = (seg? s j).map (·.tally) := by
  have htally (u : State) (g : Segment) : (heldAgain u j g).tally = g.tally := by
    rw [heldAgain]
    split <;> rfl
  rw [countHolds, seg?_retireRecords, seg?_putOverrides, Option.map_map]
  congr 1
  funext g
  dsimp only [Function.comp]
  split
  · exact htally _ g
  · rfl

/-- What the list's half of a minute event leaves. -/
structure HoldsTaken (s t : State) : Prop where
  overrides : t.overrides = countedList s.overrides
  tally : ∀ j : Nat, (seg? t j).map (·.tally) = (seg? s j).map (·.tally)
  time : t.time = { s.time with holdsDue := false }
  inputs : t.inputs = s.inputs
  composer : t.composer = s.composer
  inputLine : t.inputLine = s.inputLine
  pending : t.pending = s.pending
  port : SamePort s t
  recomposed : OnlyRecomposed s t

theorem takeHolds_taken (s : State) : HoldsTaken s (withAttn (takeHolds s)) := by
  have honly := countHolds_listOnly { s with time := { s.time with holdsDue := false } }
  obtain ⟨_, hfloor, hinputs, hport, _⟩ := honly.same
  have hafter := (afterEvent honly.recordsOnly).withAttn
  exact
    { overrides := hafter.overrides.trans (countHolds_overrides _)
      tally := fun j => (congrArg (Option.map (·.tally)) (hafter.seg? j)).trans (countHolds_tally _ j)
      time := hafter.time
      inputs := hafter.inputs.trans hinputs
      composer := hafter.composer
      inputLine := hafter.inputLine.trans hfloor.2.1
      pending := hafter.pending
      port := by
        have hkept := hafter.port
        rw [hport] at hkept
        exact hkept
      recomposed := hafter.recomposed }

/-- R130: the state after the composer's half, if it has not taken it before. -/
def tallied (s : State) : State := if s.time.tallyDue then addTallies s else s

theorem tallied_rest (s : State) :
    tallied s = { s with segs := (tallied s).segs, time := { s.time with tallyDue := false } } := by
  unfold tallied
  split
  · rfl
  · rename_i hdue
    have htime : { s.time with tallyDue := false } = s.time := by
      rw [← Bool.eq_false_iff.mpr hdue]
    rw [htime]

theorem tabGet_mapKeyed {α : Type} (t : Tab α) (f : Nat → α → α) (i : Nat) :
    tabGet (t.map fun e => (e.1, f e.1 e.2)) i = (tabGet t i).map (f i) := by
  induction t with
  | nil => rfl
  | cons e t ih =>
    obtain ⟨k, w⟩ := e
    simp only [List.map_cons, tabGet_cons] at ih ⊢
    split
    · rename_i hk
      rw [hk]
      rfl
    · exact ih

theorem seg?_tallied (s : State) (j : Nat) : seg? (tallied s) j =
    (seg? s j).map fun g =>
      { g with tally := if s.time.tallyDue then min 4294967295 (g.tally + memberLevels s j) else g.tally } := by
  unfold tallied
  split
  · exact tabGet_mapKeyed s.segs (fun i g => { g with tally := min 4294967295 (g.tally + memberLevels s i) }) j
  · exact Option.map_id'.symm

/-- Settles O46: the composer's half, then the list's; and the list's alone. -/
theorem minuteEventCountsOnce : Obligations.MinuteEventCountsOnce := by
  intro s handle htables hrefs l counted list levels
  refine ⟨?_, fun hdue hany => ?_⟩
  · have hexec : exec .minuteEvent s = done (if (tallied s).time.holdsDue then takeHolds (tallied s) else tallied s) := rfl
    have hrest := tallied_rest s
    have htally (i : Nat) : (seg? (tallied s) i).map (·.tally) =
        (seg? s i).map fun g => if s.time.tallyDue then min 4294967295 (g.tally + levels i) else g.tally := by
      rw [seg?_tallied, Option.map_map, memberLevels_eq htables hrefs]
      rfl
    have hholds : (tallied s).time.holdsDue = s.time.holdsDue := by rw [hrest]
    have hlist : (tallied s).overrides = s.overrides := by rw [hrest]
    rw [hholds] at hexec
    by_cases hdue : s.time.holdsDue = true
    · rw [if_pos hdue] at hexec
      have htaken := takeHolds_taken (tallied s)
      refine ⟨_, hexec, fun i => (htaken.tally i).trans (htally i), ?_, ?_, fun h => absurd (hdue.symm.trans h) nofun,
        htaken.inputs.trans (by rw [hrest]), htaken.composer.trans (by rw [hrest]), htaken.inputLine.trans (by rw [hrest]),
        htaken.pending.trans (by rw [hrest]), ?_, ?_⟩
      · rw [htaken.overrides, hlist, if_pos hdue]
        rfl
      · rw [htaken.time, hrest]
      · have hport := htaken.port
        rw [SamePort, show (tallied s).port = s.port by rw [hrest]] at hport
        exact hport
      · have hsame : OnlyRecomposed s (tallied s) := by
          rw [hrest]
          exact onlyRecomposed_refl s
        exact onlyRecomposed_trans hsame htaken.recomposed
    · rw [if_neg hdue] at hexec
      have hkept : { s.time with tallyDue := false, holdsDue := false } = (tallied s).time := by
        rw [hrest, ← Bool.eq_false_iff.mpr hdue]
      refine ⟨_, hexec, htally, hlist.trans (if_neg hdue).symm, hkept.symm, fun _ => ⟨fun i => ?_, ?_⟩, ?_⟩
      · rw [seg?_withAttn, seg?_tallied, Option.map_map]
        rfl
      · rw [hrest]
        exact ⟨rfl, rfl, rfl⟩
      · rw [hrest]
        exact ⟨rfl, rfl, rfl, rfl, rfl, onlyRecomposed_refl s⟩
  · have hexec : exec (.overrideHoldExpiry handle) s = done (takeHolds s) := by
      simp only [exec, execOverrideHoldExpiry, hdue, Bool.true_and]
      exact if_pos hany
    have htaken := takeHolds_taken s
    exact ⟨_, hexec, htaken.overrides, htaken.time, htaken.tally, htaken.inputs, htaken.composer, htaken.inputLine, htaken.pending,
      htaken.port, htaken.recomposed⟩

end Minute

end Sys2Proof.Machine
end

section
/-! SUPPORT. WARM RESET (R170), part by part. -/

namespace Sys2Proof.Machine

section Warm

variable {s t u v : State} {i j k : Nat} {g base new : Segment} {z : LineId}

/-! ## The segments (R78, R88, R100, R133) -/

/-- R88: a record as it was, or with its H raised to that of the outer segment of its active link. -/
structure RaisedFrom (base u : Segment) : Prop where
  record : u = { base with h := u.h }
  level : base.h ≤ u.h
  unlinked : base.cfg.outer = none ∨ base.cfg.mode = .manual → u.h = base.h

theorem RaisedFrom.raised (hu : RaisedFrom base g) (hctl : base.cfg.mode = .harvest → base.ctl = .tracking)
    (hnew : raised s g = some new) : RaisedFrom base new := by
  cases ho : activeOuter s g with
  | none =>
    simp [Machine.raised, ho] at hnew
  | some o =>
    obtain ⟨hmode, k, hk, _, _⟩ := activeOuter_eq_some.mp ho
    have hcfg : g.cfg = base.cfg := by rw [hu.record]
    have hgctl : g.ctl = .tracking := by
      rw [hu.record]
      exact hctl (hcfg ▸ hmode)
    simp only [Machine.raised, ho, hgctl] at hnew
    split at hnew
    · cases hnew
    · rename_i hrises
      obtain rfl := Option.some.inj hnew
      refine ⟨?_, ?_, ?_⟩
      · dsimp only
        rw [hu.record, ← hctl (hcfg ▸ hmode)]
      · have hlevel := hu.level
        dsimp only
        omega
      · rintro (houter | hmanual)
        · rw [← hcfg, hk] at houter
          cases houter
        · rw [← hcfg, hmode] at hmanual
          cases hmanual

/-- R78, R100, R133: the fields of a segment after a warm reset. -/
theorem RaisedFrom.warm {c : Composer} {u : Segment} (h : RaisedFrom (warmSeg c g) u) :
    u.cfg = g.cfg ∧ u.tally = g.tally ∧ u.effCap = effectiveCap c g.cfg.cap ∧ u.activity = .occupied
      ∧ u.held = false ∧ u.shortfall = false ∧ u.changed = false ∧ u.offTimer = none ∧ u.shortTimer = none
      ∧ u.setbackTimer = none ∧ u.holdTimer = (if g.cfg.sensing then some (g.cfg.occupancyHold * 600) else none)
      ∧ (g.cfg.mode = .manual → u.ctl = .forced ∧ u.h = g.h ∧ u.blind = false ∧ u.stepTimer = none)
      ∧ (g.cfg.mode = .harvest → u.ctl = .tracking ∧ u.blind = true ∧ min g.cfg.fallback u.effCap ≤ u.h
          ∧ u.stepTimer = some (min g.cfg.upInterval g.cfg.downInterval)
          ∧ u.blindTimer = some (g.cfg.sensorless * 10))
      ∧ (g.cfg.mode = .harvest → g.cfg.outer = none → u.h = min g.cfg.fallback u.effCap) := by
  obtain ⟨hrecord, hlevel, hunlinked⟩ := h
  cases hmode : g.cfg.mode with
  | manual =>
    simp only [warmSeg, hmode] at hrecord hlevel hunlinked
    have hh := hunlinked (.inr trivial)
    rw [hrecord]
    exact ⟨rfl, rfl, rfl, rfl, rfl, rfl, rfl, rfl, rfl, rfl, rfl, fun _ => ⟨rfl, hh, rfl, rfl⟩, nofun, nofun⟩
  | harvest =>
    simp only [warmSeg, hmode] at hrecord hlevel hunlinked
    rw [hrecord]
    exact ⟨rfl, rfl, rfl, rfl, rfl, rfl, rfl, rfl, rfl, rfl, rfl, nofun, fun _ => ⟨rfl, rfl, hlevel, rfl, rfl⟩,
      fun _ houter => hunlinked (.inl houter)⟩

/-- R88: what the depth ordering leaves of a segment. -/
theorem raiseOnce_raisedFrom (hctl : base.cfg.mode = .harvest → base.ctl = .tracking) (k : Nat)
    (h : ∃ g, seg? s j = some g ∧ RaisedFrom base g) : ∃ g, seg? (raiseOnce k s) j = some g ∧ RaisedFrom base g := by
  refine onSeg_rel (R := fun _ v => ∃ g, seg? v j = some g ∧ RaisedFrom base g) h fun g hg => ?_
  split
  · rename_i new hnew
    by_cases hj : j = k
    · subst hj
      obtain ⟨u, hu, hraised⟩ := h
      rw [hg] at hu
      cases hu
      exact ⟨new, seg?_putSeg_self j new s, hraised.raised hctl hnew⟩
    · rw [seg?_putSeg_ne _ s hj]
      exact h
  · exact h

theorem seg?_warmComposed (hg : seg? s j = some g) :
    ∃ u, seg? (warmComposed s) j = some u ∧ RaisedFrom (warmSeg s.composer g) u := by
  have hctl : (warmSeg s.composer g).cfg.mode = .harvest → (warmSeg s.composer g).ctl = .tracking := by
    intro hmode
    unfold warmSeg at hmode ⊢
    cases hm : g.cfg.mode <;> simp [hm] at hmode ⊢
  have hrow (row : Nat) {v : State} (hv : ∃ u, seg? v j = some u ∧ RaisedFrom (warmSeg s.composer g) u) :
      ∃ u, seg? (raiseRow row v) j = some u ∧ RaisedFrom (warmSeg s.composer g) u :=
    forEach_keeps (P := fun v => ∃ u, seg? v j = some u ∧ RaisedFrom (warmSeg s.composer g) u)
      (fun k _ _ => raiseOnce_raisedFrom hctl k) hv
  exact hrow 4 (hrow 3 (hrow 2 ⟨_, seg?_map (t := warmBlocks s) _ rfl j g hg, rfl, Nat.le_refl _, fun _ => rfl⟩))

/-! ## All but the segments -/

theorem warmRaised_segsOnly (s : State) : SegsOnly (warmBlocks s) (raiseRow 4 (raiseRow 3 (raiseRow 2 (warmBlocks s)))) := by
  have hrow (row : Nat) (v : State) : SegsOnly v (raiseRow row v) :=
    forEach_rel (R := SegsOnly) .refl .trans (fun i _ t => raiseOnce_segsOnly i t) v
  exact ((hrow 2 _).trans (hrow 3 _)).trans (hrow 4 _)

/-- R170: all of a warm reset but its segments and compositions. -/
theorem warmComposed_eq (s : State) :
    warmComposed s = { warmBlocks s with segs := (warmComposed s).segs, lums := (warmComposed s).lums } := by
  have hraised := warmRaised_segsOnly s
  unfold SegsOnly at hraised
  unfold warmComposed composeAll
  rw [hraised]

theorem lum?_warmComposed (s : State) (k : Nat) :
    lum? (warmComposed s) k =
      (lum? s k).map fun l => composeOnly (raiseRow 4 (raiseRow 3 (raiseRow 2 (warmBlocks s)))) (warmLum l) := by
  have hlums : (raiseRow 4 (raiseRow 3 (raiseRow 2 (warmBlocks s)))).lums = (warmBlocks s).lums :=
    (warmRaised_segsOnly s).same.1.1
  have hcomposed : lum? (warmComposed s) k =
      (tabGet (raiseRow 4 (raiseRow 3 (raiseRow 2 (warmBlocks s)))).lums k).map
        (composeOnly (raiseRow 4 (raiseRow 3 (raiseRow 2 (warmBlocks s))))) := tabGet_map _ _ k
  rw [hcomposed, hlums, show tabGet (warmBlocks s).lums k = (tabGet s.lums k).map warmLum from tabGet_map _ _ k, Option.map_map]
  rfl

theorem composeOnly_settings (s : State) (l : Luminaire) : { composeOnly s l with composed := none } = { l with composed := none } := by
  unfold composeOnly
  split
  · rfl
  · split <;> rfl

/-- R133: a luminaire composed afresh at a defined segment. -/
theorem composed_composeOnly {l : Luminaire} {p : Place} (hp : (composeOnly s l).place = some p) (hg : seg? s p.segment = some g) :
    (composeOnly s l).composed = some (composeFrom (composeOnly s l) g.effCap (requestedLevel s g p)) := by
  have hplace : l.place = some p := by
    have hsettings := congrArg Luminaire.place (composeOnly_settings s l)
    exact hsettings.symm.trans hp
  have hcomposed : composeOnly s l = { l with composed := some (composeFrom l g.effCap (requestedLevel s g p)) } := by
    simp only [composeOnly, hplace, hg]
  rw [hcomposed]
  rfl

/-! ## The lines (R149) -/

/-- R149: a fixture line after a warm reset. -/
def warmedLine (z : LineId) (s : State) : FixtureLine :=
  if (lineOf z s).state = .running then chooseFrame { lineOf z s with queue := s.lums.filterMap (refreshEntry z) } else lineOf z s

theorem warmRefresh_putLine (ht : tabWf 128 s.lums) (hq : (lineOf z s).queue = []) :
    warmRefresh z s = putLine z (warmedLine z s) s := by
  unfold warmRefresh warmedLine
  split
  · rename_i hrun
    exact fullRefresh_running ht hrun hq
  · exact (putLine_lineOf z s).symm

theorem lineOf_warmComposed (z : LineId) (s : State) : lineOf z (warmComposed s) = warmLine (lineOf z s) := by
  rw [warmComposed_eq]
  cases z <;> rfl

/-- R163: the reply of a due poll in flight is discarded. -/
theorem warmInputLine_eq (l : InputLine) : warmInputLine l =
    { l with
      due := []
      flight := l.flight.map fun f =>
        match f with
        | .due a .live => .due a .discard
        | other => other } := by
  obtain ⟨_, _, _, _, flight, _⟩ := l
  cases flight with
  | none => rfl
  | some f =>
    cases f with
    | spot a => rfl
    | due a mark => cases mark <;> rfl

/-- R170: the state after a warm reset, but for the port. -/
theorem warmReset_lines (ht : TablesOk s) :
    warmReset s = putLine .b (warmedLine .b (warmComposed s)) (putLine .a (warmedLine .a (warmComposed s)) (warmComposed s)) := by
  have hlums : tabWf 128 (warmComposed s).lums := tabWf_map (by rw [(warmRaised_segsOnly s).same.1.1]; exact tabWf_map ht.1 _) _
  have ha : warmRefresh .a (warmComposed s) = putLine .a (warmedLine .a (warmComposed s)) (warmComposed s) :=
    warmRefresh_putLine hlums (by rw [lineOf_warmComposed]; rfl)
  have hb (l : FixtureLine) : warmRefresh .b (putLine .a l (warmComposed s)) =
      putLine .b (warmedLine .b (warmComposed s)) (putLine .a l (warmComposed s)) := warmRefresh_putLine hlums (congrArg FixtureLine.queue (lineOf_warmComposed .b s))
  rw [warmReset_eq, ha, hb]

/-- What a warm reset leaves, by the state composed before the lines are refreshed. -/
structure WarmReset (s t : State) : Prop where
  segs : ∀ j : Nat, seg? t j = seg? (warmComposed s) j
  lums : t.lums = (warmComposed s).lums
  inputs : t.inputs = tabMap s.inputs (warmInput (s.inputLine.state == .running))
  overrides : t.overrides = { records := [], counter := 1, changed := false }
  composer : t.composer = { s.composer with snapshot := List.replicate 32 0, snapshotNumber := 0 }
  inputLine : t.inputLine = warmInputLine s.inputLine
  lines : ∀ z : LineId, lineOf z t = warmedLine z (warmComposed s)
  time : t.time = s.time
  pending : t.pending = s.pending
  port : t.port = { s.port with floorChanged := true, attn := true, offered := ⟨.ok, byte 0x7F, []⟩ }

theorem exec_warmReset (body : List Byte) (ht : TablesOk s) :
    ∃ t, exec (.warmReset body) s = .next t ∧ WarmReset s t := by
  have hexec : exec (.warmReset body) s = done (answer .ok 0x7F [] (warmReset s)) := rfl
  rw [warmReset_lines ht] at hexec
  have hrest := warmComposed_eq s
  refine ⟨_, hexec, ?_⟩
  exact
    { segs := fun j => by simp only [seg?_withAttn, seg?_answer, seg?_putLine]
      lums := by simp only [withAttn_lums, answer_lums, putLine_lums]
      inputs := by
        simp only [withAttn_inputs, answer_inputs, putLine_inputs]
        rw [hrest]
        rfl
      overrides := by
        simp only [withAttn_overrides, answer_overrides, putLine_overrides]
        rw [hrest]
        rfl
      composer := by
        simp only [withAttn_composer, answer_composer, putLine_composer]
        rw [hrest]
        rfl
      inputLine := by
        simp only [withAttn_inputLine, answer_inputLine, putLine_inputLine]
        rw [hrest]
        rfl
      lines := fun z => by cases z <;> simp
      time := by
        simp only [withAttn_time, answer_time, putLine_time]
        rw [hrest]
        rfl
      pending := by
        simp only [withAttn_pending, answer_pending, putLine_pending]
        rw [hrest]
        rfl
      port := by
        refine withAttn_flagged (p := { s.port with offered := ⟨.ok, byte 0x7F, []⟩ }) ?_
        simp only [answer_port, putLine_port]
        rw [hrest]
        rfl }

/-- Settles O43, block by block. -/
theorem warmResetKeepsConfiguration : Obligations.WarmResetKeepsConfiguration := by
  intro s body htables
  obtain ⟨t, ht, hwarm⟩ := exec_warmReset body htables
  have hlum (k : Nat) : lum? t k = lum? (warmComposed s) k := by
    unfold lum?
    rw [hwarm.lums]
  refine ⟨t, ht, fun i g hg => ?_, fun k l hl => ?_, fun a n hn => ?_, hwarm.overrides, hwarm.composer, ?_,
    fun k l hl p hp g hg => ?_, fun z => ?_, hwarm.time, hwarm.pending, hwarm.port⟩
  · obtain ⟨u, hu, hraised⟩ := seg?_warmComposed (s := s) hg
    exact ⟨u, (hwarm.segs i).trans hu, hraised.warm⟩
  · have hl : lum? s k = some l := hl
    rw [hlum, lum?_warmComposed, hl, Option.map_some, Option.map_some, composeOnly_settings]
    rfl
  · have hn : input? s a = some n := hn
    have hinput : input? t a = some (warmInput (s.inputLine.state == .running) n) := by
      rw [input?, hwarm.inputs, tabGet_map, show tabGet s.inputs a = some n from hn]
      rfl
    refine ⟨_, hinput, rfl, rfl, rfl, rfl, rfl, ?_, fun hrun => ?_, fun c m hd => ?_, fun x last hd => ?_, fun x h b q hd => ?_⟩
    · cases hd : n.device <;> simp [warmInput, warmDevice, hd, deviceKind]
    · rw [hrun]
      rfl
    all_goals
      rw [warmInput, hd]
      rfl
  · exact hwarm.inputLine.trans (warmInputLine_eq s.inputLine)
  · rw [Option.mem_def, hlum, lum?_warmComposed, Option.map_eq_some_iff] at hl
    obtain ⟨m, _, rfl⟩ := hl
    rw [Option.mem_def, hwarm.segs] at hg
    rw [composed_composeOnly hp hg]
    refine congrArg some (composedAt_list (s := t) ?_ g p _)
    rw [hwarm.overrides, (warmRaised_segsOnly s).same.2.1.2.1]
    rfl
  · have hline := hwarm.lines z
    rw [warmedLine, lineOf_warmComposed, ← hwarm.lums] at hline
    exact hline

end Warm

end Sys2Proof.Machine
end

section
/-! SUPPORT. The step event that steps toward the band (R54, R57, R58, R72), and the rise that it hands inward (R82). -/

namespace Sys2Proof.Machine

section Step

variable {s : State} {i : Nat} {g m : Segment} {e floor h : Nat}

/-- R57, R58: what a step made leaves of the controller state and the off-delay timer. -/
theorem afterStep_eq (g : Segment) (h : Nat) :
    afterStep g h =
      { g with
        h := h
        ctl := if g.ctl = .tracking ∧ 0 < g.cfg.cutOff ∧ h ≤ g.cfg.cutOff then .dwell
          else if g.ctl = .dwell ∧ g.cfg.cutOff < h then .tracking else g.ctl
        offTimer := if g.ctl = .tracking ∧ 0 < g.cfg.cutOff ∧ h ≤ g.cfg.cutOff then some (g.cfg.offDelay * 10)
          else if g.ctl = .dwell ∧ g.cfg.cutOff < h then none else g.offTimer } := by
  unfold afterStep
  cases hctl : g.ctl with
  | tracking =>
    by_cases hlow : 0 < g.cfg.cutOff ∧ h ≤ g.cfg.cutOff
    · simp [hlow]
      rfl
    · simp [hlow]
  | dwell =>
    by_cases hhigh : g.cfg.cutOff < h
    · simp [hhigh]
    · simp [hhigh]
  | daylit => simp
  | strike => simp
  | forced => simp

/-- R54: the H that the step toward the band leaves. -/
def steppedH (floor e : Nat) (g : Segment) : Nat :=
  if e + g.cfg.tolerance < g.cfg.target then min (g.h + g.cfg.upStep) g.effCap
  else if g.cfg.target + g.cfg.tolerance < e then min g.h (max (g.h - g.cfg.downStep) floor)
  else g.h

/-- R81: the H of a TRACKING segment after a depth raise. -/
theorem afterRaise_tracking (hctl : g.ctl = .tracking) : (afterRaise h g).h = max g.h (min h g.effCap) := by
  unfold afterRaise
  by_cases hlow : min h g.effCap ≤ g.h
  · simp only [if_pos hlow, Nat.max_eq_left hlow]
  · simp only [if_neg hlow, hctl, Nat.max_eq_right (Nat.le_of_not_le hlow)]

/-- R72: the shortfall timer after an evaluation. -/
theorem monitorShortfall_eq (e : Nat) (g : Segment) :
    monitorShortfall e g =
      { g with
        shortTimer :=
          if e + g.cfg.tolerance < g.cfg.target ∧ g.h = g.effCap then
            (if g.shortTimer = none ∧ g.shortfall = false then some (g.cfg.shortfallTime * 600) else g.shortTimer)
          else none } := by
  unfold monitorShortfall
  by_cases hlow : e + g.cfg.tolerance < g.cfg.target ∧ g.h = g.effCap
  · rw [if_pos (by simpa [belowBand] using hlow), if_pos hlow]
    split <;> rfl
  · rw [if_neg (by simpa [belowBand] using hlow), if_neg hlow]

/-- R57: what the evaluation leaves of a segment whose shortfall monitor has been taken: a step made, or the shorter interval. -/
theorem evaluate_eq (floor e : Nat) (g : Segment) :
    evaluate floor e g =
      if steppedH floor e g = g.h then
        { monitorShortfall e g with stepTimer := some (min g.cfg.upInterval g.cfg.downInterval) }
      else
        { afterStep (monitorShortfall e g) (steppedH floor e g) with
          stepTimer := some (if e + g.cfg.tolerance < g.cfg.target then g.cfg.upInterval else g.cfg.downInterval) } := by
  have hbelow : belowBand g.cfg e = decide (e + g.cfg.tolerance < g.cfg.target) := rfl
  have habove : aboveBand g.cfg e = decide (g.cfg.target + g.cfg.tolerance < e) := rfl
  have hup : upH (monitorShortfall e g) = min (g.h + g.cfg.upStep) g.effCap := by rw [monitorShortfall_eq]; rfl
  have hdown : downH floor (monitorShortfall e g) = min g.h (max (g.h - g.cfg.downStep) floor) := by
    rw [monitorShortfall_eq]; rfl
  have hlevel : (monitorShortfall e g).h = g.h := by rw [monitorShortfall_eq]
  have hcfg : (monitorShortfall e g).cfg = g.cfg := by rw [monitorShortfall_eq]
  have hshorter : reloadShorter (monitorShortfall e g) =
      { monitorShortfall e g with stepTimer := some (min g.cfg.upInterval g.cfg.downInterval) } :=
    congrArg (fun c : SegConfig => { monitorShortfall e g with stepTimer := some (min c.upInterval c.downInterval) }) hcfg
  unfold evaluate steppedH
  simp only [hbelow, habove, decide_eq_true_eq, hup, hdown, hlevel, madeUp, hshorter, hcfg]
  by_cases hlow : e + g.cfg.tolerance < g.cfg.target
  · simp only [if_pos hlow]
    rfl
  · by_cases hhigh : g.cfg.target + g.cfg.tolerance < e
    · simp only [if_neg hlow, if_pos hhigh]
      rfl
    · simp only [if_neg hlow, if_neg hhigh, if_true]

/-- R54, R57, R58, R66, R72: the record of a step event that sees. -/
def steppedSeg (s : State) (e : Nat) (g : Segment) : Segment :=
  let h := steppedH (depthFloor s g) e g
  let enters := g.ctl = .tracking ∧ h ≠ g.h ∧ 0 < g.cfg.cutOff ∧ h ≤ g.cfg.cutOff
  let leaves := g.ctl = .dwell ∧ g.cfg.cutOff < h
  { g with
    h := h
    ctl := if enters then .dwell else if leaves then .tracking else g.ctl
    offTimer :=
      if enters then some (g.cfg.offDelay * 10)
      else if leaves then none
      else if g.ctl = .dwell then some (g.offTimer.getD (g.cfg.offDelay * 10))
      else g.offTimer
    stepTimer := some
      (if h = g.h then min g.cfg.upInterval g.cfg.downInterval
       else if e + g.cfg.tolerance < g.cfg.target then g.cfg.upInterval else g.cfg.downInterval)
    shortTimer :=
      if e + g.cfg.tolerance < g.cfg.target ∧ g.h = g.effCap then
        (if g.shortTimer = none ∧ g.shortfall = false then some (g.cfg.shortfallTime * 600) else g.shortTimer)
      else none
    blind := false
    blindTimer := none
    changed := g.changed || g.blind }

/-- R58: a TRACKING or DWELL segment that is not held and sees. -/
theorem stepped_sees (he : estimate s g = some e) (hheld : g.held = false)
    (hctl : g.ctl = .tracking ∨ (g.ctl = .dwell ∧ g.h ≤ g.cfg.cutOff)) : stepped s g = steppedSeg s e g := by
  have hevaluates : stepped s g = evaluate (depthFloor s g) e (seeAgain (startOffDelay g)) := by
    rcases hctl with hctl | ⟨hctl, _⟩ <;> simp [stepped, hctl, hheld, he]
  have hseen : seeAgain (startOffDelay g) =
      { g with
        offTimer := if g.ctl = .dwell then some (g.offTimer.getD (g.cfg.offDelay * 10)) else g.offTimer
        changed := g.changed || g.blind, blind := false, blindTimer := none } := by
    rw [startOffDelay_eq]
    rfl
  have hsame : steppedH (depthFloor s g) e (seeAgain (startOffDelay g)) = steppedH (depthFloor s g) e g := by
    rw [hseen]
    rfl
  rw [hevaluates, evaluate_eq, afterStep_eq, monitorShortfall_eq, hsame, hseen, steppedSeg]
  by_cases hstays : steppedH (depthFloor s g) e g = g.h
  · have henters : ¬(g.ctl = .tracking ∧ steppedH (depthFloor s g) e g ≠ g.h ∧ 0 < g.cfg.cutOff
        ∧ steppedH (depthFloor s g) e g ≤ g.cfg.cutOff) := fun h => h.2.1 hstays
    have hleaves : ¬(g.ctl = .dwell ∧ g.cfg.cutOff < steppedH (depthFloor s g) e g) := by
      rw [hstays]
      rintro ⟨hdwell, hhigh⟩
      rcases hctl with hctl | ⟨_, hlow⟩
      · rw [hdwell] at hctl
        cases hctl
      · omega
    simp only [if_neg henters, if_neg hleaves, if_pos hstays]
    rw [hstays]
  · simp only [hstays, ne_eq, not_false_eq_true, true_and, if_false]

/-- Settles O47: the record of the event, and the raise that a rise hands inward. -/
theorem stepEventStepsTowardTheBand : Obligations.StepEventStepsTowardTheBand := by
  intro s i ht hr g hg e he hdue hheld hctl low high h
  have hstep : stepped s g = steppedSeg s e g := stepped_sees he hheld hctl
  have hcfg : (stepped s g).cfg = g.cfg := by rw [hstep]; rfl
  have hlevel : (stepped s g).h = h := by rw [hstep]; rfl
  obtain ⟨t, ht', hsegs, hrest⟩ := next_of_segsEvent (exec_stepEvent i s) (stepExpiry_segsOnly i s)
  rw [stepExpiry_due hg hdue] at hsegs
  refine ⟨t, ht', ?_, fun hstays j hj => ?_, fun j u hu hrise hm hum ho hutrack => ?_, hrest⟩
  · rw [hsegs, seg?_putRising_self ht hr hg hcfg, hstep]
    rfl
  · rw [hsegs, putRising_level (by rw [hlevel]; exact hstays), seg?_putSeg_ne _ s hj]
  · rw [hsegs, seg?_putRising_inner ht hr hg hcfg (by rw [hlevel]; exact hrise) hm hu hum ho, hlevel, Option.map_some]
    exact congrArg some (afterRaise_tracking hutrack)

end Step

end Sys2Proof.Machine
end

section
/-! SUPPORT. The fields of a segment request over a cut-off level out of its range. -/

namespace Sys2Proof.Machine

/-- A segment request that carries the strike level 2000 and nothing else. -/
def strikeBody : List Byte :=
  [0, 0, 0, 0x80#8, 0] ++ List.replicate 20 0 ++ [7, 0xD0#8] ++ List.replicate 13 0

/-- A configuration whose cut-off level, 2000, lies above its limit of 500. -/
def steepConfig : SegConfig := { segDefaults with cutOff := 2000 }

theorem strikeBody_taken : (takeSegNumbers strikeBody (takeSegStructure strikeBody steepConfig)).2 = false := by decide

/-- Refutes O27: the configurations held are bounded by no premise, and over a held C of 2000 a carried S of 2000, which
lies above its limit of 1000, is taken as it is and nothing is clamped or adjusted. -/
theorem not_segmentFieldsAreTakenFromTheirBytes : ¬ Obligations.SegmentFieldsAreTakenFromTheirBytes := by
  intro h
  obtain ⟨_, hexact, _⟩ := h.1 strikeBody steepConfig
  obtain ⟨_, hstrike, _⟩ := hexact.mp strikeBody_taken
  exact absurd hstrike (by decide)

end Sys2Proof.Machine
end

section
/-! SUPPORT. Depth raises of one segment and of those that link to it (R81, R82, R86): what a sequence of record changes and raises
at one segment leaves of every record. -/

namespace Sys2Proof.Machine

section AfterRaise

variable {g : Segment} {o : Nat}

/-- R81: a raise whose target is reached leaves the record. -/
theorem afterRaise_reached (h : min o g.effCap ≤ g.h) : afterRaise o g = g := if_pos h

theorem afterRaise_forced (h : g.ctl = .forced) : afterRaise o g = g := by
  unfold afterRaise
  simp only [h, ite_self]

theorem le_afterRaise (o : Nat) (g : Segment) : g.h ≤ (afterRaise o g).h := by
  by_cases hreached : min o g.effCap ≤ g.h
  · rw [afterRaise_reached hreached]
  · by_cases hforced : g.ctl = .forced
    · rw [afterRaise_forced hforced]
    · exact le_trans (by omega) (target_le_afterRaise (o := o) hforced)

theorem afterRaise_le_effCap (h : g.h ≤ g.effCap) (o : Nat) : (afterRaise o g).h ≤ g.effCap := by
  unfold afterRaise
  dsimp only
  split
  · exact h
  · split
    · exact h
    · exact min_le_right _ _
    · exact min_le_right _ _
    · split <;> exact min_le_right _ _
    · exact min_le_right _ _

/-- R81: a raise made a second time leaves what the one before made. -/
theorem afterRaise_again (o : Nat) (g : Segment) : afterRaise o (afterRaise o g) = afterRaise o g := by
  by_cases hforced : g.ctl = .forced
  · rw [afterRaise_forced hforced, afterRaise_forced hforced]
  · exact afterRaise_reached (by rw [afterRaise_effCap]; exact target_le_afterRaise hforced)

/-- R81: a raise that changes the record raises H. -/
theorem afterRaise_eq_of_level (h : (afterRaise o g).h ≤ g.h) : afterRaise o g = g := by
  by_cases hforced : g.ctl = .forced
  · exact afterRaise_forced hforced
  · exact afterRaise_reached (le_trans (target_le_afterRaise hforced) h)

end AfterRaise

section Tables

variable {s : State} {i n : Nat} {g new : Segment}

/-- R81: a raise puts another record in place, with a higher H. -/
theorem raised_ne_self (s : State) (g : Segment) : raised s g ≠ some g := by
  unfold raised
  split
  · nofun
  · dsimp only
    split
    · nofun
    · rename_i u _ htarget
      have hlevel {new : Segment} (hnew : min u.h g.effCap ≤ new.h) : some new ≠ some g := by
        rintro ⟨rfl⟩
        exact htarget hnew
      split
      · exact hlevel le_rfl
      · split <;> exact hlevel le_rfl
      · rename_i hctl
        intro heq
        have hstrike : (struck s g).ctl = g.ctl := congrArg Segment.ctl (Option.some.inj heq)
        rw [hctl] at hstrike
        cases hstrike
      · exact hlevel le_rfl
      · nofun

/-- R82: a put whose record does not link to `i`, at a place that does not, leaves the segments that do. -/
theorem innerOf_putSeg (hnew : new.cfg.outer ≠ some i) (hold : ∀ e ∈ s.segs, e.1 = n → e.2.cfg.outer ≠ some i) :
    innerOf (putSeg n new s) i = innerOf s i := by
  have hput (a : Tab Segment) (ha : ∀ e ∈ a, e.1 = n → e.2.cfg.outer ≠ some i) :
      ((tabPut a n new).filter fun e => e.2.cfg.outer == some i) = a.filter fun e => e.2.cfg.outer == some i := by
    induction a with
    | nil => simp [tabPut, hnew]
    | cons e a ih =>
      have htail := ih fun w hw => ha w (List.mem_cons_of_mem _ hw)
      unfold tabPut
      split
      · simp [hnew]
      · split
        · rename_i hkey
          have hhead := ha e (List.mem_cons_self ..) hkey.symm
          simp [hnew, hhead]
        · rw [List.filter_cons, List.filter_cons, htail]
  unfold innerOf
  exact congrArg (List.map Prod.fst) (hput s.segs hold)

end Tables

/-! ## One segment and those that link to it -/

/-- No other segment's link names segment `i`. -/
def Unlinked (s : State) (i : Nat) : Prop := ∀ j v, j ≠ i → seg? s j = some v → v.cfg.outer ≠ some i

/-- From the records of `s`, what changes and raises at segment `i` have made: the segment holds `u`; where H was handed inward
(`lifts`) the segments that link to it have taken a raise from its H; the others stand. -/
structure SegTakes (row : Nat → Nat) (s : State) (i : Nat) (u : Segment) (lifts : Prop) (t : State) : Prop where
  links : LinksFollowRows row t
  keys : tabWf 32 t.segs
  own : seg? t i = some u
  others : ∀ j, j ≠ i → ¬lifts ∨ row j ≤ row i ∨ Unlinked s i → seg? t j = seg? s j
  inner : lifts → ∀ j v, j ≠ i → seg? s j = some v → v.cfg.outer = some i → v.cfg.mode = .harvest →
    seg? t j = some (afterRaise u.h v)

section Takes

variable {row : Nat → Nat} {s t : State} {i : Nat} {u v : Segment} {lifts lifts' : Prop}

theorem SegTakes.congr (h : SegTakes row s i u lifts t) (hlifts : lifts ↔ lifts') : SegTakes row s i u lifts' t := by
  rw [← propext hlifts]
  exact h

/-- A record put, whose link follows the rows. -/
theorem segTakes_put (hlinks : LinksFollowRows row (putSeg i u s)) (hkeys : tabWf 32 (putSeg i u s).segs) :
    SegTakes row s i u False (putSeg i u s) :=
  ⟨hlinks, hkeys, seg?_putSeg_self i u s, fun _ hj _ => seg?_putSeg_ne u s hj, nofun⟩

/-- A change of the record that keeps its configuration, and H where it has been handed inward. -/
theorem SegTakes.put (h : SegTakes row s i u lifts t) (hcfg : v.cfg = u.cfg) (hlevel : lifts → v.h = u.h) :
    SegTakes row s i v lifts (putSeg i v t) where
  links := putSeg_keeps_links h.links h.own hcfg
  keys := tabWf_put h.keys (h.keys.2 _ (mem_of_tabGet h.own))
  own := seg?_putSeg_self i v t
  others j hj hrow := (seg?_putSeg_ne v t hj).trans (h.others j hj hrow)
  inner hl j w hj hw ho hm := by
    rw [seg?_putSeg_ne v t hj, hlevel hl]
    exact h.inner hl j w hj hw ho hm

/-- R79: the H of the outer segment stands. -/
theorem SegTakes.linkedH_eq (h : SegTakes row s i u lifts t) : linkedH t u = linkedH s u := by
  cases ho : u.cfg.outer with
  | none => simp [linkedH, ho]
  | some o =>
    have hrow : row i = row o + 1 := h.links _ (mem_of_tabGet h.own) o ho
    exact linkedH_congr ho (h.others o (by rintro rfl; omega) (.inr (.inl (by omega))))

theorem SegTakes.raiseInner_unlinked (h : SegTakes row s i u lifts t) (hunlinked : Unlinked s i) : raiseInner i t = t := by
  have hnone : innerOf t i = [] := by
    refine List.eq_nil_iff_forall_not_mem.mpr fun j hj => ?_
    obtain ⟨e, he, ho, rfl⟩ := mem_innerOf.mp hj
    have hget : seg? t e.1 = some e.2 := tabGet_of_mem h.keys.1 he
    by_cases hi : e.1 = i
    · have hrow : row e.1 = row i + 1 := h.links e he i ho
      rw [hi] at hrow
      omega
    · rw [h.others e.1 hi (.inr (.inr hunlinked))] at hget
      exact hunlinked e.1 e.2 hi hget ho
  rw [Machine.raiseInner, hnone]
  rfl

/-- R82, R86: a raise of the inner segments. -/
theorem SegTakes.raiseInner (h : SegTakes row s i u lifts t) (hm : u.cfg.mode = .harvest) :
    SegTakes row s i u True (raiseInner i t) where
  links := forEach_keeps (fun k _ w hw => depthRaise_keeps_links 3 hw) h.links
  keys := (raiseInner_raises i t).keepsTabWf h.keys
  own := (seg?_raiseInner_outward h.links le_rfl).trans h.own
  others j hj hrow := by
    rcases hrow.resolve_left (not_not.mpr trivial) with hle | hunlinked
    · exact (seg?_raiseInner_outward h.links hle).trans (h.others j hj (.inr (.inl hle)))
    · rw [h.raiseInner_unlinked hunlinked]
      exact h.others j hj (.inr (.inr hunlinked))
  inner _ j w hj hw ho hmw := by
    by_cases hl : lifts
    · have hraised := h.inner hl j w hj hw ho hmw
      rw [seg?_raiseInner_inner h.keys.1 h.links hraised (by rw [afterRaise_cfg]; exact ho),
        linkedH_active (by rw [afterRaise_cfg]; exact hmw) (by rw [afterRaise_cfg]; exact ho) h.own hm, afterRaise_again]
    · have hstands := (h.others j hj (.inl hl)).trans hw
      rw [seg?_raiseInner_inner h.keys.1 h.links hstands ho, linkedH_active hmw ho h.own hm]

/-- R81, R82: a raise of the segment. -/
theorem SegTakes.raise (h : SegTakes row s i u False t) (hm : u.cfg.mode = .harvest) :
    SegTakes row s i (afterRaise (linkedH s u) u) (u.h < (afterRaise (linkedH s u) u).h) (depthRaise 4 i t) := by
  have htable := raised_getD t u
  rw [h.linkedH_eq] at htable
  cases hr : raised t u with
  | none =>
    rw [hr, Option.getD_none] at htable
    rw [depthRaise_unraised h.own hr, ← htable]
    exact h.congr (by simp)
  | some new =>
    rw [hr, Option.getD_some] at htable
    have hcfg : new.cfg = u.cfg := raised_cfg hr
    have houter (w : Segment) (hw : seg? t i = some w) : w.cfg.outer ≠ some i := by
      intro ho
      have hrow : row i = row i + 1 := h.links _ (mem_of_tabGet hw) i ho
      omega
    have hinner : innerOf (putSeg i new t) i = innerOf t i := by
      refine innerOf_putSeg (by rw [hcfg]; exact houter u h.own) fun e he hkey => houter e.2 ?_
      rw [← hkey]
      exact tabGet_of_mem h.keys.1 he
    have hput : SegTakes row s i new False (putSeg i new t) := h.put hcfg nofun
    rw [depthRaise_raised h.own hr, ← htable, ← hinner]
    have hraised : SegTakes row s i new True (Machine.raiseInner i (putSeg i new t)) := hput.raiseInner (by rw [hcfg]; exact hm)
    refine hraised.congr (iff_of_true trivial ?_)
    by_contra hlevel
    rw [htable] at hr hlevel
    rw [afterRaise_eq_of_level (Nat.not_lt.mp hlevel)] at hr
    exact absurd hr (raised_ne_self t u)

/-- R81: a raise whose target is reached. -/
theorem SegTakes.raise_reached (h : SegTakes row s i u lifts t) (hreached : min (linkedH s u) u.effCap ≤ u.h) :
    depthRaise 4 i t = t := by
  cases hr : raised t u with
  | none => exact depthRaise_unraised h.own hr
  | some new =>
    have htable := raised_getD t u
    rw [hr, Option.getD_some, h.linkedH_eq, afterRaise_reached hreached] at htable
    rw [htable] at hr
    exact absurd hr (raised_ne_self t u)

end Takes

end Sys2Proof.Machine
end

section
/-! SUPPORT. DEFINE SEGMENT (R12, R15, R70, R85, R86). -/

namespace Sys2Proof.Machine

section Defining

variable {s : State} {i : Nat} {c : SegConfig} {u : Segment} {body : List Byte}

/-- R13: a record whose references fit the floor, put: the rows follow the links. -/
theorem FitsFloor.links (h : FitsFloor s i c) (ht : TablesOk s) (hr : RefsOk s) (hcfg : u.cfg = c) :
    LinksFollowRows (rowsWith s i c) (putSeg i u s) := by
  have hwf : tabWf 32 (putSeg i u s).segs := tabWf_put ht.2.1 h.key_lt
  intro e he o ho
  have hget : seg? (putSeg i u s) e.1 = some e.2 := tabGet_of_mem hwf.1 he
  replace ho : e.2.cfg.outer = some o := ho
  by_cases hi : e.1 = i
  · rw [hi, seg?_putSeg_self] at hget
    rw [← Option.some.inj hget, hcfg] at ho
    have hne : o ≠ i := by
      rintro rfl
      have houter := h.outer
      simp [outerFits, ho] at houter
    rw [hi, rowsWith_self, rowsWith_ne c hne]
    exact outerFits_row h.outer ho
  · rw [seg?_putSeg_ne u s hi] at hget
    have hrow : rowOf s e.1 = rowOf s o + 1 := linksFollowRows_rowOf ht hr _ (mem_of_tabGet hget) o ho
    rw [rowsWith_ne c hi, hrow]
    by_cases hoi : o = i
    · subst hoi
      rw [rowsWith_self, h.inner e.1 hi (mem_linkedTo.mpr ⟨e.2, hget, ho⟩)]
    · rw [rowsWith_ne c hoi]

theorem FitsFloor.takes_put (h : FitsFloor s i c) (ht : TablesOk s) (hr : RefsOk s) (hcfg : u.cfg = c) :
    SegTakes (rowsWith s i c) s i u False (putSeg i u s) :=
  segTakes_put (h.links ht hr hcfg) (tabWf_put ht.2.1 h.key_lt)

/-- R13: no link names an id that is not defined. -/
theorem outer_ne_of_undefined (hr : RefsOk s) (hnone : seg? s i = none) {j : Nat} {v : Segment} (hv : seg? s j = some v) :
    v.cfg.outer ≠ some i := by
  intro ho
  have hmem : j ∈ linkedTo s i := mem_linkedTo.mpr ⟨v, hv, ho⟩
  rw [linkedTo_undefined hr hnone] at hmem
  exact hmem

/-- R13: the configuration of a segment newly defined fits the floor. -/
theorem defined_fitsFloor (hr : RefsOk s) (hi : byteAt body 0 ≤ 31) (hnone : seg? s (byteAt body 0) = none)
    (henums : segEnumsOk body = true) (hrefs : refsFit s (byteAt body 0) (takeSegStructure body segDefaults) = true) :
    FitsFloor s (byteAt body 0) (takeSegNumbers body (takeSegStructure body segDefaults)).1 where
  key_lt := by omega
  row_pos := (takeSegStructure_row (c := segDefaults) henums fun _ => by decide).1
  row_le := (takeSegStructure_row (c := segDefaults) henums fun _ => by decide).2
  outer := outerFits_of_refsFit hrefs
  inner j _ hj := by
    rw [linkedTo_undefined hr hnone] at hj
    exact absurd hj (Set.notMem_empty j)

/-- R15, R70, R85: what a definition leaves of every segment. -/
theorem defineSeg_takes (h : FitsFloor s i c) (ht : TablesOk s) (hr : RefsOk s) (hnone : seg? s i = none) :
    seg? (defineSeg i c s) i = some
        (if c.mode = .manual then freshSeg c (effectiveCap s.composer c.cap)
         else afterRaise (linkedH s (enteredHarvest (freshSeg c (effectiveCap s.composer c.cap))))
           (enteredHarvest (freshSeg c (effectiveCap s.composer c.cap))))
      ∧ OtherSegsSame s (defineSeg i c s) i := by
  unfold defineSeg
  cases hmode : c.mode with
  | manual => exact ⟨seg?_putSeg_self i _ s, fun j hj => seg?_putSeg_ne _ s hj⟩
  | harvest =>
    have hput := h.takes_put ht hr (u := enteredHarvest (freshSeg c (effectiveCap s.composer c.cap))) rfl
    have hraised := hput.raise hmode
    have htakes := hraised.raiseInner (by rw [afterRaise_cfg]; exact hmode)
    dsimp only
    rw [enterHarvest_putSeg]
    exact ⟨htakes.own, fun j hj => htakes.others j hj (.inr (.inr fun _ _ _ hv => outer_ne_of_undefined hr hnone hv))⟩

/-- R12, R13: a definition that passes the checks. -/
theorem exec_defineSegment (hlen : 40 ≤ body.length) (hi : byteAt body 0 ≤ 31) (hnone : seg? s (byteAt body 0) = none)
    (hrow : (segField body 0).isSome = true) (henums : segEnumsOk body = true)
    (hrefs : refsFit s (byteAt body 0) (takeSegStructure body segDefaults) = true) :
    let taken := takeSegNumbers body (takeSegStructure body segDefaults)
    let t := event (defineSeg (byteAt body 0) taken.1) s
    exec (.defineSegment body) s = done (answer (okOr taken.2) 0x20 (segAnswer (byteAt body 0) t) t) := by
  have hcarried : (segField body 0).isNone = false := by rw [Option.isNone_eq_false_iff]; exact hrow
  simp only [exec, execDefineSegment, if_neg (Nat.not_lt.mpr hlen), if_neg (Nat.not_lt.mpr hi), hnone, hcarried, henums, hrefs,
    Bool.not_true, Bool.or_self, Bool.false_eq_true, if_false]

/-- R3: the answer of a request at a segment is the record that it leaves. -/
theorem segAnswer_of_some (h : seg? s i = some u) : segAnswer i s = segRecord i u := by
  simp only [segAnswer, h, Option.map_some, Option.getD_some]

theorem okOr_ite (b : Bool) : okOr b = if b then .clamped else .ok := by cases b <;> rfl

/-- A request that is one event on the segments, and its answer. -/
theorem next_of_answeredSegsEvent {f : State → State} {q : Instr} {st : Status} {code : Nat} {bytes : List Byte}
    (hexec : exec q s = done (answer st code bytes (event f s))) (h : SegsOnly s (f s)) :
    ∃ t, exec q s = .next t ∧ (∀ j : Nat, seg? t j = seg? (f s) j) ∧ PortAnswers s t st code bytes ∧ SameAround s t
      ∧ OnlyRecomposed s t := by
  obtain ⟨_, ⟨hinputs, hlist, _, hline, _, _⟩, hport, _⟩ := h.same
  obtain ⟨t, hnext, hleaves, hanswer⟩ := next_of_answeredEvent hexec h.recordsOnly hport
  exact ⟨t, hnext, hleaves.seg?, hanswer,
    ⟨hleaves.inputs.trans hinputs, hleaves.overrides.trans hlist, hleaves.composer, hleaves.inputLine.trans hline, hleaves.time,
      hleaves.pending⟩, hleaves.recomposed⟩

/-- Settles O28: the record of R15, taken into HARVEST by R70, and its raise. -/
theorem defineSegmentStartsItsRuntime : Obligations.DefineSegmentStartsItsRuntime := by
  intro s body ht hr hlen hi hnone hrow henums hrefs i taken c cap manual dwells started new
  obtain ⟨hself, hothers⟩ := defineSeg_takes (defined_fitsFloor hr hi hnone henums hrefs) ht hr hnone
  have hnew : (if c.mode = .manual then freshSeg c cap
      else afterRaise (linkedH s (enteredHarvest (freshSeg c cap))) (enteredHarvest (freshSeg c cap))) = new := rfl
  have hanswer : segAnswer i (event (defineSeg i c) s) = segRecord i new :=
    segAnswer_of_some ((seg?_event _ s i).trans (hself.trans (congrArg some hnew)))
  have hexec := exec_defineSegment hlen hi hnone hrow henums hrefs
  dsimp only at hexec
  rw [show segAnswer (byteAt body 0) (event (defineSeg (byteAt body 0) _) s) = segRecord i new from hanswer, okOr_ite] at hexec
  obtain ⟨t, hnext, hread, hport, hrest⟩ := next_of_answeredSegsEvent hexec (defineSeg_segsOnly i c s)
  exact ⟨t, hnext, (hread i).trans (hself.trans (congrArg some hnew)), hport, fun j hj => (hread j).trans (hothers j hj), hrest⟩

end Defining

end Sys2Proof.Machine
end

section
/-! SUPPORT. AMEND SEGMENT (R14): its effects in their order at the record, and what they hand inward. -/

namespace Sys2Proof.Machine

/-! ## The effects on the record -/

/-- R14 step 2, R70, R71, R85: the mode change, with its raise to the H of the outer segment. -/
def modedSeg (outerH : Nat) (old : Mode) (u : Segment) : Segment :=
  if old = .manual ∧ u.cfg.mode = .harvest then afterRaise outerH (enteredHarvest u)
  else if old = .harvest ∧ u.cfg.mode = .manual then leftHarvest u
  else u

/-- R14 step 3, R68, R87: the cap-change event. -/
def cappedSeg (outerH old : Nat) (u : Segment) : Segment :=
  if u.cfg.mode = .harvest ∧ u.effCap ≠ old ∧ u.effCap < u.h then capClamped u.effCap u
  else if old < u.effCap then afterRaise outerH u
  else u

/-- R14 steps 4 and 5: a changed cut-off level, and a changed activity sensing. -/
def retestedSeg (s : State) (i : Nat) (old : SegConfig) (u : Segment) : Segment :=
  let v := if u.cfg.cutOff = old.cutOff then u else cutOffTested u
  if u.cfg.sensing = old.sensing then v else sensed s i v

/-- R14, R85: the raise at the end, where the link or the mode is amended. -/
def relinkedSeg (outerH : Nat) (old : SegConfig) (u : Segment) : Segment :=
  if u.cfg.outer = old.outer ∧ u.cfg.mode = old.mode then u else afterRaise outerH u

/-- R14: the record that an amendment leaves of `g`, `u` being the record with the configuration carried and its effective cap. -/
def amendedRecord (s : State) (i : Nat) (g u : Segment) : Segment :=
  relinkedSeg (linkedH s u) g.cfg
    (retestedSeg s i g.cfg (cappedSeg (linkedH s u) g.effCap (modedSeg (linkedH s u) g.cfg.mode u)))

section Records

variable {s : State} {i old outerH : Nat} {g u : Segment} {mode : Mode} {cfg : SegConfig}

/-- R79: the outer H reads the configuration alone. -/
theorem linkedH_of_cfg {v : Segment} (h : v.cfg = u.cfg) : linkedH s v = linkedH s u := by
  unfold linkedH
  rw [h]

theorem linkedH_manual (h : u.cfg.mode ≠ .harvest) : linkedH s u = 0 := if_neg h

@[simp] theorem capClamped_cfg (cap : Nat) (u : Segment) : (capClamped cap u).cfg = u.cfg := by
  unfold capClamped
  split <;> rfl

theorem capClamped_effCap (cap : Nat) (u : Segment) : (capClamped cap u).effCap = u.effCap := by
  unfold capClamped
  split <;> rfl

theorem modedSeg_cfg (outerH : Nat) (mode : Mode) (u : Segment) : (modedSeg outerH mode u).cfg = u.cfg := by
  unfold modedSeg
  split
  · exact afterRaise_cfg outerH _
  · split <;> rfl

theorem cappedSeg_cfg (outerH old : Nat) (u : Segment) : (cappedSeg outerH old u).cfg = u.cfg := by
  unfold cappedSeg
  split
  · exact capClamped_cfg _ u
  · split
    · exact afterRaise_cfg outerH u
    · rfl

theorem cutOffTested_level (u : Segment) :
    (cutOffTested u).cfg = u.cfg ∧ (cutOffTested u).h = u.h ∧ (cutOffTested u).effCap = u.effCap := by
  unfold cutOffTested
  split <;> exact ⟨rfl, rfl, rfl⟩

theorem sensed_level (s : State) (i : Nat) (u : Segment) :
    (sensed s i u).cfg = u.cfg ∧ (sensed s i u).h = u.h ∧ (sensed s i u).effCap = u.effCap := by
  unfold sensed
  split
  · exact ⟨rfl, rfl, rfl⟩
  · obtain ⟨hcfg, _, hh, hcap⟩ := heldAgain_controller s i { u with activity := .occupied, holdTimer := none, setbackTimer := none }
    exact ⟨hcfg, hh, hcap⟩

theorem retestedSeg_level (s : State) (i : Nat) (old : SegConfig) (u : Segment) :
    (retestedSeg s i old u).cfg = u.cfg ∧ (retestedSeg s i old u).h = u.h ∧ (retestedSeg s i old u).effCap = u.effCap := by
  have hcut : (if u.cfg.cutOff = old.cutOff then u else cutOffTested u).cfg = u.cfg
      ∧ (if u.cfg.cutOff = old.cutOff then u else cutOffTested u).h = u.h
      ∧ (if u.cfg.cutOff = old.cutOff then u else cutOffTested u).effCap = u.effCap := by
    split
    · exact ⟨rfl, rfl, rfl⟩
    · exact cutOffTested_level u
  unfold retestedSeg
  dsimp only
  split
  · exact hcut
  · obtain ⟨hcfg, hh, hcap⟩ := sensed_level s i (if u.cfg.cutOff = old.cutOff then u else cutOffTested u)
    exact ⟨hcfg.trans hcut.1, hh.trans hcut.2.1, hcap.trans hcut.2.2⟩

/-! ## The shortfall flag (R14) -/

/-- No effect of an amendment reads or sets the shortfall flag. -/
def KeepsShortfall (f : Segment → Segment) : Prop := ∀ u b, f { u with shortfall := b } = { f u with shortfall := b }

theorem KeepsShortfall.comp {f f' : Segment → Segment} (h : KeepsShortfall f) (h' : KeepsShortfall f') :
    KeepsShortfall fun u => f' (f u) := fun u b => (congrArg f' (h u b)).trans (h' (f u) b)

theorem KeepsShortfall.ite {p : Segment → Prop} [DecidablePred p] {f f' : Segment → Segment}
    (hp : ∀ u b, p { u with shortfall := b } ↔ p u) (h : KeepsShortfall f) (h' : KeepsShortfall f') :
    KeepsShortfall fun u => if p u then f u else f' u := by
  intro u b
  dsimp only
  by_cases hpu : p u
  · rw [if_pos hpu, if_pos ((hp u b).mpr hpu), h]
  · rw [if_neg hpu, if_neg (mt (hp u b).mp hpu), h']

theorem keepsShortfall_id : KeepsShortfall fun u => u := fun _ _ => rfl

theorem keepsShortfall_afterRaise (outerH : Nat) : KeepsShortfall (afterRaise outerH) := by
  intro u b
  by_cases hreached : min outerH u.effCap ≤ u.h
  · rw [afterRaise_reached hreached, afterRaise_reached (by exact hreached)]
  · cases hctl : u.ctl with
    | dwell =>
      by_cases hcut : u.cfg.cutOff < min outerH u.effCap <;> simp [afterRaise, hreached, hctl, hcut]
    | forced => simp [afterRaise, hreached, hctl]
    | tracking => simp [afterRaise, hreached, hctl]
    | daylit => simp [afterRaise, hreached, hctl]
    | strike => simp [afterRaise, hreached, hctl]

theorem keepsShortfall_modedSeg (outerH : Nat) (mode : Mode) : KeepsShortfall (modedSeg outerH mode) :=
  .ite (fun _ _ => Iff.rfl) (.comp (fun _ _ => rfl) (keepsShortfall_afterRaise outerH))
    (.ite (fun _ _ => Iff.rfl) (fun _ _ => rfl) keepsShortfall_id)

theorem keepsShortfall_cappedSeg (outerH old : Nat) : KeepsShortfall (cappedSeg outerH old) :=
  .ite (fun _ _ => Iff.rfl) (.ite (fun _ _ => Iff.rfl) (fun _ _ => rfl) fun _ _ => rfl)
    (.ite (fun _ _ => Iff.rfl) (keepsShortfall_afterRaise outerH) keepsShortfall_id)

theorem keepsShortfall_heldAgain (s : State) (i : Nat) : KeepsShortfall (heldAgain s i) :=
  .ite (fun _ _ => Iff.rfl) (fun _ _ => rfl) fun _ _ => rfl

theorem keepsShortfall_retestedSeg (s : State) (i : Nat) (old : SegConfig) : KeepsShortfall (retestedSeg s i old) := by
  have hcut : KeepsShortfall fun u => if u.cfg.cutOff = old.cutOff then u else cutOffTested u :=
    .ite (fun _ _ => Iff.rfl) keepsShortfall_id (.ite (fun _ _ => Iff.rfl) (fun _ _ => rfl) keepsShortfall_id)
  have hsensed : KeepsShortfall (sensed s i) :=
    .ite (fun _ _ => Iff.rfl) (fun _ _ => rfl) (.comp (fun _ _ => rfl) (keepsShortfall_heldAgain s i))
  exact .ite (fun _ _ => Iff.rfl) hcut (hcut.comp hsensed)

theorem keepsShortfall_amendedRecord (s : State) (i : Nat) (g : Segment) : KeepsShortfall (amendedRecord s i g) := by
  intro u b
  have hkeeps : KeepsShortfall fun v => relinkedSeg (linkedH s u) g.cfg
      (retestedSeg s i g.cfg (cappedSeg (linkedH s u) g.effCap (modedSeg (linkedH s u) g.cfg.mode v))) :=
    (((keepsShortfall_modedSeg _ _).comp (keepsShortfall_cappedSeg _ _)).comp (keepsShortfall_retestedSeg _ _ _)).comp
      (.ite (fun _ _ => Iff.rfl) keepsShortfall_id (keepsShortfall_afterRaise _))
  exact hkeeps u b

end Records

/-! ## The effects on the segments -/

/-- R14: within an amendment of `g`, segment `i` holds `u`. Where it enters HARVEST (`enters`), or H has risen, H has been handed
inward, and the target of its raise is reached; else the target is reached or H is as it was. -/
structure AmendStage (row : Nat → Nat) (s : State) (i : Nat) (g : Segment) (enters : Prop) (u : Segment) (t : State) : Prop where
  takes : SegTakes row s i u (enters ∨ g.h < u.h) t
  list : t.overrides = s.overrides
  level : min (linkedH s u) u.effCap ≤ u.h ∨ ¬enters ∧ u.h = g.h

section Stages

variable {row : Nat → Nat} {s t : State} {i : Nat} {g u v : Segment} {enters : Prop}

/-- A change that leaves the configuration, the cap and H. -/
theorem AmendStage.put (h : AmendStage row s i g enters u t) (hcfg : v.cfg = u.cfg) (hlevel : v.h = u.h) (hcap : v.effCap = u.effCap) :
    AmendStage row s i g enters v (putSeg i v t) where
  takes := (h.takes.put hcfg fun _ => hlevel).congr (by rw [hlevel])
  list := (putSeg_segsOnly i v t).same.2.1.2.1.trans h.list
  level := by rw [linkedH_of_cfg hcfg, hlevel, hcap]; exact h.level

theorem AmendStage.raise_reached (h : AmendStage row s i g enters u t) (hreached : min (linkedH s u) u.effCap ≤ u.h) :
    AmendStage row s i g enters (afterRaise (linkedH s u) u) (depthRaise 4 i t) := by
  rw [h.takes.raise_reached hreached, afterRaise_reached hreached]
  exact h

/-- R81, R82: the raise at the segment. -/
theorem AmendStage.raise (h : AmendStage row s i g enters u t) :
    AmendStage row s i g enters (afterRaise (linkedH s u) u) (depthRaise 4 i t) := by
  by_cases hreached : min (linkedH s u) u.effCap ≤ u.h
  · exact h.raise_reached hreached
  · obtain ⟨hstays, hlevel⟩ := h.level.resolve_left hreached
    have hm : u.cfg.mode = .harvest := by
      by_contra hm
      rw [linkedH_manual hm] at hreached
      omega
    have hlow : SegTakes row s i u False t := h.takes.congr (iff_of_false (by rintro (he | hlt); exacts [hstays he, by omega]) id)
    refine ⟨(hlow.raise hm).congr (by simp [hstays, hlevel]), (depthRaise_segsOnly 4 i t).same.2.1.2.1.trans h.list, ?_⟩
    rw [linkedH_of_cfg (afterRaise_cfg _ u), afterRaise_effCap]
    by_cases hforced : u.ctl = .forced
    · rw [afterRaise_forced hforced]
      exact .inr ⟨hstays, hlevel⟩
    · exact .inl (target_le_afterRaise hforced)

theorem linkedH_enteredHarvest (s : State) (u : Segment) : linkedH s (enteredHarvest u) = linkedH s u := rfl

/-- R70, R71, R86: the mode change. -/
theorem modeChange_stage (hput : ∀ w : Segment, w.cfg = u.cfg → SegTakes row s i w False (putSeg i w s)) (hlevel : u.h = g.h)
    {old : Mode} (henters : enters ↔ old = .manual ∧ u.cfg.mode = .harvest) :
    AmendStage row s i g enters (modedSeg (linkedH s u) old u) (modeChange i old u.cfg.mode (putSeg i u s))
      ∧ ((modedSeg (linkedH s u) old u).h ≤ u.effCap ∨ ¬enters ∧ (modedSeg (linkedH s u) old u).h = g.h) := by
  have hstands (w : Segment) (hcfg : w.cfg = u.cfg) (hh : w.h = u.h) (hno : ¬enters) :
      AmendStage row s i g enters w (putSeg i w s) ∧ (w.h ≤ u.effCap ∨ ¬enters ∧ w.h = g.h) :=
    ⟨⟨(hput w hcfg).congr (iff_of_false id (by rw [hh, hlevel]; simp [hno])), (putSeg_segsOnly i w s).same.2.1.2.1,
      .inr ⟨hno, hh.trans hlevel⟩⟩, .inr ⟨hno, hh.trans hlevel⟩⟩
  cases old with
  | manual =>
    cases hm : u.cfg.mode with
    | manual =>
      have hmoded : modedSeg (linkedH s u) .manual u = u := by simp [modedSeg, hm]
      rw [hmoded]
      exact hstands u rfl rfl (by rw [henters, hm]; simp)
    | harvest =>
      have hmoded : modedSeg (linkedH s u) .manual u = afterRaise (linkedH s u) (enteredHarvest u) := if_pos ⟨rfl, hm⟩
      have hyes : enters := henters.mpr ⟨rfl, hm⟩
      have htakes := ((hput (enteredHarvest u) rfl).raise hm).raiseInner (by rw [afterRaise_cfg]; exact hm)
      have hsegs := ((putSeg_segsOnly i (enteredHarvest u) s).trans (depthRaise_segsOnly 4 i _)).trans (raiseInner_segsOnly i _)
      rw [hmoded, modeChange, enterHarvest_putSeg]
      refine ⟨⟨htakes.congr (iff_of_true trivial (.inl hyes)), hsegs.same.2.1.2.1, .inl ?_⟩, .inl ?_⟩
      · rw [linkedH_of_cfg (afterRaise_cfg _ _), linkedH_enteredHarvest, afterRaise_effCap]
        exact target_le_afterRaise (enteredHarvest_unforced u)
      · exact afterRaise_le_effCap (g := enteredHarvest u) (min_le_right _ _) _
  | harvest =>
    have hno : ¬enters := by rw [henters]; simp
    cases hm : u.cfg.mode with
    | manual =>
      have hmoded : modedSeg (linkedH s u) .harvest u = leftHarvest u := by simp [modedSeg, hm]
      rw [hmoded, modeChange, leaveHarvest, onSeg_some (seg?_putSeg_self i u s), putSeg_putSeg]
      exact hstands (leftHarvest u) rfl rfl hno
    | harvest =>
      have hmoded : modedSeg (linkedH s u) .harvest u = u := by simp [modedSeg, hm]
      rw [hmoded]
      exact hstands u rfl rfl hno

/-- R68, R87: the cap-change event. -/
theorem AmendStage.capStep (h : AmendStage row s i g enters u t) (hcapped : u.h ≤ u.effCap ∨ ¬enters ∧ u.h = g.h) (old : Nat) :
    AmendStage row s i g enters (cappedSeg (linkedH s u) old u) (capStep i old t) := by
  rw [Machine.capStep, onSeg_some h.takes.own, capChange, onSeg_some h.takes.own]
  unfold cappedSeg
  by_cases hsame : u.effCap = old
  · rw [if_pos hsame, if_neg (by rintro ⟨_, hne, _⟩; exact hne hsame), if_neg (by omega)]
    exact h
  · rw [if_neg hsame]
    by_cases hm : u.cfg.mode = .harvest
    · rw [if_pos hm]
      by_cases hclamp : u.effCap < u.h
      · obtain ⟨hno, hlevel⟩ := hcapped.resolve_left (Nat.not_le.mpr hclamp)
        rw [if_pos hclamp, if_pos ⟨hm, hsame, hclamp⟩]
        have hlow : SegTakes row s i u False t := h.takes.congr (iff_of_false (by rintro (he | hlt); exacts [hno he, by omega]) id)
        refine ⟨(hlow.put (capClamped_cfg _ u) nofun).congr (iff_of_false id ?_),
          (putSeg_segsOnly i _ t).same.2.1.2.1.trans h.list, .inl ?_⟩
        · rw [capClamped_h]
          rintro (he | hlt)
          exacts [hno he, by omega]
        · rw [capClamped_effCap, capClamped_h]
          exact min_le_right _ _
      · rw [if_neg hclamp, if_neg (fun hc => hclamp hc.2.2)]
        split
        · exact h.raise
        · exact h
    · rw [if_neg hm, if_neg (fun hc => hm hc.1)]
      split
      · have hreached : min (linkedH s u) u.effCap ≤ u.h := by rw [linkedH_manual hm]; omega
        rw [afterRaise_reached hreached]
        exact h
      · exact h

/-- R75, R97: the cut-off level tested, and the activity sensing. -/
theorem AmendStage.cutOffChanged (h : AmendStage row s i g enters u t) :
    AmendStage row s i g enters (cutOffTested u) (cutOffChanged i t) := by
  obtain ⟨hcfg, hh, hcap⟩ := cutOffTested_level u
  have hput := h.put hcfg hh hcap
  rw [Machine.cutOffChanged, onSeg_some h.takes.own]
  by_cases hlift : u.ctl = .dwell ∧ (u.cfg.cutOff = 0 ∨ u.cfg.cutOff < u.h)
  · rw [if_pos hlift]
    rwa [cutOffTested, if_pos hlift] at hput ⊢
  · rw [if_neg hlift, cutOffTested, if_neg hlift]
    exact h

theorem AmendStage.sensingChanged (h : AmendStage row s i g enters u t) :
    AmendStage row s i g enters (sensed s i u) (sensingChanged i t) := by
  obtain ⟨hcfg, hh, hcap⟩ := sensed_level s i u
  have hput := h.put hcfg hh hcap
  rw [Machine.sensingChanged, onSeg_some h.takes.own]
  by_cases hon : u.cfg.sensing = true
  · rw [if_pos hon]
    rwa [sensed, if_pos hon] at hput ⊢
  · rw [if_neg hon, recomputeHeld_eq (seg?_putSeg_self i _ t), putSeg_putSeg,
      heldAgain_congr (s := s) (t := putSeg i _ t) ((putSeg_segsOnly i _ t).same.2.1.2.1.trans h.list)]
    rwa [sensed, if_neg hon] at hput ⊢

theorem AmendStage.ite {p : Prop} [Decidable p] {t' : State} (h : AmendStage row s i g enters u t)
    (h' : AmendStage row s i g enters v t') :
    AmendStage row s i g enters (if p then u else v) (if p then t else t') := by
  split
  · exact h
  · exact h'

end Stages

end Sys2Proof.Machine
end

section
/-! SUPPORT. AMEND SEGMENT (R14): the record that it leaves, as the sections of the manual give it. -/

namespace Sys2Proof.Machine

section Amending

variable {row : Nat → Nat} {s t : State} {i : Nat} {g u v : Segment} {c : SegConfig} {body : List Byte} {enters : Prop}

/-- R14: the steps that lead to the cut-off level's test leave the held flag and the cap. -/
theorem modedSeg_held (outerH : Nat) (mode : Mode) (u : Segment) :
    (modedSeg outerH mode u).held = u.held ∧ (modedSeg outerH mode u).effCap = u.effCap := by
  unfold modedSeg
  split
  · exact ⟨(afterRaise_frame _ _).held, afterRaise_effCap _ _⟩
  · split <;> exact ⟨rfl, rfl⟩

/-- R14: the effects in their order. -/
theorem amendEffects_stage (hput : ∀ w : Segment, w.cfg = c → SegTakes row s i w False (putSeg i w s))
    (henters : enters ↔ g.cfg.mode = .manual ∧ c.mode = .harvest) :
    AmendStage row s i g enters (amendedRecord s i g (amendedSeg s g c))
      (amendEffects i g c (putSeg i { g with cfg := c } s)) := by
  obtain ⟨hmoded, hlevel⟩ := modeChange_stage (u := amendedSeg s g c) (g := g) hput rfl henters
  have hcfg : (modedSeg (linkedH s (amendedSeg s g c)) g.cfg.mode (amendedSeg s g c)).cfg = c := modedSeg_cfg _ _ _
  have hcap : (modedSeg (linkedH s (amendedSeg s g c)) g.cfg.mode (amendedSeg s g c)).effCap = (amendedSeg s g c).effCap :=
    (modedSeg_held _ _ _).2
  have hcapped := hmoded.capStep (by rw [hcap]; exact hlevel) g.effCap
  rw [linkedH_of_cfg (u := amendedSeg s g c) hcfg] at hcapped
  have hcfgs : (cappedSeg (linkedH s (amendedSeg s g c)) g.effCap
      (modedSeg (linkedH s (amendedSeg s g c)) g.cfg.mode (amendedSeg s g c))).cfg = c := (cappedSeg_cfg _ _ _).trans hcfg
  unfold amendEffects amendedRecord
  dsimp only
  rw [storeCap_amended]
  have hmode : (amendedSeg s g c).cfg.mode = c.mode := rfl
  rw [hmode] at hcapped
  generalize cappedSeg _ g.effCap _ = w at hcapped hcfgs ⊢
  generalize Machine.capStep i g.effCap _ = s3 at hcapped ⊢
  subst hcfgs
  have hcut := AmendStage.ite (p := w.cfg.cutOff = g.cfg.cutOff) hcapped hcapped.cutOffChanged
  have htested : AmendStage row s i g enters (retestedSeg s i g.cfg w) _ :=
    AmendStage.ite (p := w.cfg.sensing = g.cfg.sensing) hcut hcut.sensingChanged
  have hretested : (retestedSeg s i g.cfg w).cfg = w.cfg := (retestedSeg_level s i g.cfg w).1
  have hraised := AmendStage.ite (p := w.cfg.outer = g.cfg.outer ∧ w.cfg.mode = g.cfg.mode) htested htested.raise
  rw [linkedH_of_cfg (u := amendedSeg s g w.cfg) hretested] at hraised
  unfold relinkedSeg
  rw [hretested]
  exact hraised

/-- R14: the record that an amendment leaves, its shortfall flag cleared where the request says so. -/
theorem amendSeg_stage (hput : ∀ w : Segment, w.cfg = c → SegTakes row s i w False (putSeg i w s))
    (henters : enters ↔ g.cfg.mode = .manual ∧ c.mode = .harvest) (clear : Bool) :
    AmendStage row s i g enters (amendedRecord s i g { amendedSeg s g c with shortfall := g.shortfall && !clear })
      (amendSeg i g c clear s) := by
  have heffects := amendEffects_stage (g := g) hput henters
  rw [keepsShortfall_amendedRecord s i g (amendedSeg s g c)]
  cases clear with
  | false =>
    have hflag : (amendedRecord s i g (amendedSeg s g c)).shortfall = (g.shortfall && !false) := by
      have hsame : amendedRecord s i g (amendedSeg s g c)
          = { amendedRecord s i g (amendedSeg s g c) with shortfall := g.shortfall } :=
        keepsShortfall_amendedRecord s i g (amendedSeg s g c) g.shortfall
      rw [Bool.not_false, Bool.and_true, hsame]
    rw [← hflag]
    exact heffects
  | true =>
    rw [Bool.not_true, Bool.and_false]
    have hclear : amendSeg i g c true s = putSeg i { amendedRecord s i g (amendedSeg s g c) with shortfall := false }
        (amendEffects i g c (putSeg i { g with cfg := c } s)) := by
      rw [amendSeg, if_pos rfl, clearShortfall, onSeg_some heffects.takes.own]
    rw [hclear]
    exact heffects.put rfl rfl rfl

/-! ## The record, section by section -/

/-- R70: a segment that enters HARVEST. -/
theorem enteredHarvest_eq (u : Segment) :
    enteredHarvest u =
      { u with
        h := min u.cfg.manualLevel u.effCap
        ctl := if 0 < u.cfg.cutOff ∧ min u.cfg.manualLevel u.effCap ≤ u.cfg.cutOff then .dwell else .tracking
        offTimer :=
          if (0 < u.cfg.cutOff ∧ min u.cfg.manualLevel u.effCap ≤ u.cfg.cutOff) ∧ u.held = false then some (u.cfg.offDelay * 10)
          else none
        stepTimer := some (min u.cfg.upInterval u.cfg.downInterval)
        blind := false, blindTimer := none, shortTimer := none } := by
  unfold enteredHarvest dwellTimer
  cases u.held with
  | false =>
    simp only [Bool.false_eq_true, if_false, and_true]
    rfl
  | true => simp [startTimer, shorterInterval]

/-- R68: a segment clamped to its effective cap. -/
theorem capClamped_eq (cap : Nat) (u : Segment) :
    capClamped cap u =
      { u with
        h := cap
        ctl := if u.ctl = .tracking ∧ 0 < u.cfg.cutOff ∧ cap ≤ u.cfg.cutOff then .dwell else u.ctl
        offTimer :=
          if u.ctl = .tracking ∧ 0 < u.cfg.cutOff ∧ cap ≤ u.cfg.cutOff then
            (if u.held then none else some (u.cfg.offDelay * 10))
          else u.offTimer } := by
  unfold capClamped
  split <;> rfl

/-- R68, R87: the cap-change event on the fields. -/
theorem cappedSeg_eq (outerH old : Nat) {cap : Nat} {held : Bool} (hcfg : u.cfg = c) (hcap : u.effCap = cap) (hheld : u.held = held) :
    let clamps := c.mode = .harvest ∧ cap ≠ old ∧ cap < u.h
    let dwells := clamps ∧ u.ctl = .tracking ∧ 0 < c.cutOff ∧ cap ≤ c.cutOff
    let clamped : Segment :=
      { u with
        h := if clamps then cap else u.h
        ctl := if dwells then .dwell else u.ctl
        offTimer := if dwells then (if held then none else some (c.offDelay * 10)) else u.offTimer }
    cappedSeg outerH old u = if old < cap ∧ ¬clamps then afterRaise outerH clamped else clamped := by
  subst hcfg hcap hheld
  intro clamps dwells clamped
  unfold cappedSeg
  by_cases hclamps : clamps
  · rw [if_pos hclamps, if_neg fun h => h.2 hclamps, capClamped_eq]
    simp only [clamped, dwells, hclamps, if_true, true_and]
  · have hclamped : clamped = u := by simp only [clamped, dwells, hclamps, if_false, false_and]
    rw [if_neg hclamps, hclamped]
    simp only [hclamps, not_false_eq_true, and_true]

/-- R75: a changed cut-off level on the fields. -/
theorem retestedCutOff_eq (old : Nat) (hcfg : u.cfg = c) :
    let lifts := u.ctl = .dwell ∧ c.cutOff ≠ old ∧ (c.cutOff = 0 ∨ c.cutOff < u.h)
    (if u.cfg.cutOff = old then u else cutOffTested u) =
      { u with ctl := if lifts then .tracking else u.ctl, offTimer := if lifts then none else u.offTimer } := by
  subst hcfg
  unfold cutOffTested
  by_cases hsame : u.cfg.cutOff = old
  · simp [hsame]
  · by_cases hlift : u.ctl = .dwell ∧ (u.cfg.cutOff = 0 ∨ u.cfg.cutOff < u.h)
    · simp [hsame, hlift]
    · rw [if_neg hsame, if_neg hlift]
      simp only [ne_eq, hsame, not_false_eq_true, true_and, if_neg hlift]

/-- R97: the activity sensing on the fields, the held flag having been right. -/
theorem sensed_eq (hcfg : u.cfg = c) (hheld : g.held = isHeld s i g) (hu : u.held = g.held) :
    sensed s i u =
      if c.sensing then { u with holdTimer := some (c.occupancyHold * 600) }
      else
        { u with
          activity := .occupied, holdTimer := none, setbackTimer := none
          held := s.overrides.records.any fun o => o.scope.segment == i } := by
  subst hcfg
  unfold sensed
  split
  · rfl
  · have hany : isHeld s i { u with activity := .occupied, holdTimer := none, setbackTimer := none }
        = s.overrides.records.any fun o => o.scope.segment == i := by
      rw [isHeld_eq]
      simp
    have hkept : (s.overrides.records.any fun o => o.scope.segment == i) = true → u.held = true := by
      intro h
      rw [hu, hheld, isHeld_eq, h, Bool.or_true]
    unfold heldAgain
    rw [hany]
    refine if_neg ?_
    simp only [Bool.and_eq_true, Bool.not_eq_true', not_and, Bool.not_eq_false]
    exact hkept

theorem cappedSeg_held (outerH old : Nat) (u : Segment) : (cappedSeg outerH old u).held = u.held := by
  unfold cappedSeg
  split
  · unfold capClamped
    split <;> rfl
  · split
    · exact (afterRaise_frame _ _).held
    · rfl

end Amending

end Sys2Proof.Machine
end

section
/-! SUPPORT. AMEND SEGMENT (R14): the request that passes its checks. -/

namespace Sys2Proof.Machine

section AmendRequest

variable {s : State} {i : Nat} {g u : Segment} {c : SegConfig} {body : List Byte}

/-- R13: an amended configuration that passes the checks fits the floor. -/
theorem fitsFloor_of_checks (hr : RefsOk s) (hi : i < 32) (hg : seg? s i = some g) (henums : segEnumsOk body = true)
    (hrefs : carriesRefs body = true → refsFit s i (takeSegStructure body g.cfg) = true)
    (hlinked : (takeSegStructure body g.cfg).row ≠ g.cfg.row → isOuter s i = false) :
    FitsFloor s i (takeSegNumbers body (takeSegStructure body g.cfg)).1 := by
  obtain ⟨hpos, hle, hfits⟩ := hr.2.2.1 _ (mem_of_tabGet hg)
  obtain ⟨hpos', hle'⟩ := takeSegStructure_row henums fun _ => ⟨hpos, hle⟩
  have houter : outerFits s i (takeSegStructure body g.cfg) = true := by
    by_cases hc : carriesRefs body = true
    · exact outerFits_of_refsFit (hrefs hc)
    · obtain ⟨hrow, hlink⟩ := takeSegStructure_uncarried (c := g.cfg) (Bool.eq_false_iff.mpr hc)
      have hfit := outerFits_of_refsFit hfits
      unfold outerFits at hfit ⊢
      rwa [hrow, hlink]
  refine ⟨hi, hpos', hle', houter, fun j hji hj => ?_⟩
  have hrow : rowOf s i = g.cfg.row := by simp [rowOf, hg]
  rw [hrow]
  by_contra hne
  exact absurd (isOuter_of_linkedTo hji hj) (by rw [hlinked hne]; decide)

/-- R14: an amendment that passes the checks. -/
theorem exec_amendSegment (hlen : 40 ≤ body.length) (hi : byteAt body 0 ≤ 31) (hg : seg? s (byteAt body 0) = some g)
    (henums : segEnumsOk body = true)
    (hrefs : carriesRefs body = true → refsFit s (byteAt body 0) (takeSegStructure body g.cfg) = true)
    (hlinked : (takeSegStructure body g.cfg).row ≠ g.cfg.row → isOuter s (byteAt body 0) = false) :
    let taken := takeSegNumbers body (takeSegStructure body g.cfg)
    let t := event (amendSeg (byteAt body 0) g taken.1 (clearsShortfall body)) s
    exec (.amendSegment body) s = done (answer (okOr taken.2) 0x21 (segAnswer (byteAt body 0) t) t) := by
  have hfit : (carriesRefs body && !refsFit s (byteAt body 0) (takeSegStructure body g.cfg)) = false := by
    cases hc : carriesRefs body with
    | false => rfl
    | true => rw [hrefs hc]; rfl
  have hrow : ¬((takeSegStructure body g.cfg).row ≠ g.cfg.row ∧ isOuter s (byteAt body 0) = true) := by
    rintro ⟨hne, houter⟩
    rw [hlinked hne] at houter
    cases houter
  simp only [exec, execAmendSegment, if_neg (Nat.not_lt.mpr hlen), if_neg (Nat.not_lt.mpr hi), hg, henums, hfit, if_neg hrow,
    Bool.not_true, Bool.or_self, Bool.false_eq_true, if_false]

/-- R85: the raise at the end finds its target reached where the link is not amended. -/
theorem relinkedSeg_eq {v : Segment} {outerH : Nat} (hcfg : v.cfg = c)
    (hmode : c.mode ≠ g.cfg.mode → min outerH v.effCap ≤ v.h) :
    relinkedSeg outerH g.cfg v = if c.outer = g.cfg.outer then v else afterRaise outerH v := by
  subst hcfg
  unfold relinkedSeg
  by_cases houter : v.cfg.outer = g.cfg.outer
  · rw [if_pos houter]
    by_cases hm : v.cfg.mode = g.cfg.mode
    · exact if_pos ⟨houter, hm⟩
    · rw [if_neg fun h => hm h.2]
      exact afterRaise_reached (hmode hm)
  · rw [if_neg houter, if_neg fun h => houter h.1]

/-- R85, R86: where the mode is amended, the raise of the mode change has reached the target that the raise at the end has. -/
theorem modeAmended_reached (hmode : u.cfg.mode ≠ g.cfg.mode) :
    let v := retestedSeg s i g.cfg (cappedSeg (linkedH s u) g.effCap (modedSeg (linkedH s u) g.cfg.mode u))
    min (linkedH s u) v.effCap ≤ v.h := by
  intro v
  obtain ⟨_, hh, hcap⟩ := retestedSeg_level s i g.cfg (cappedSeg (linkedH s u) g.effCap (modedSeg (linkedH s u) g.cfg.mode u))
  rw [show v.effCap = _ from hcap, show v.h = _ from hh]
  by_cases hm : u.cfg.mode = .harvest
  · have hold : g.cfg.mode = .manual := by
      cases hg : g.cfg.mode with
      | manual => rfl
      | harvest => exact absurd (hm.trans hg.symm) hmode
    have hmoded : modedSeg (linkedH s u) g.cfg.mode u = afterRaise (linkedH s u) (enteredHarvest u) := if_pos ⟨hold, hm⟩
    have hentered : min (linkedH s u) (enteredHarvest u).effCap ≤ (afterRaise (linkedH s u) (enteredHarvest u)).h :=
      target_le_afterRaise (enteredHarvest_unforced u)
    have hcapped : cappedSeg (linkedH s u) g.effCap (modedSeg (linkedH s u) g.cfg.mode u)
        = modedSeg (linkedH s u) g.cfg.mode u := by
      rw [hmoded]
      have hle := afterRaise_le_effCap (g := enteredHarvest u) (min_le_right _ _) (linkedH s u)
      have hnoclamp : ¬(afterRaise (linkedH s u) (enteredHarvest u)).effCap < (afterRaise (linkedH s u) (enteredHarvest u)).h := by
        rw [afterRaise_effCap]
        exact Nat.not_lt.mpr hle
      unfold cappedSeg
      rw [if_neg fun h => hnoclamp h.2.2, afterRaise_again, ite_self]
    rw [hcapped, hmoded, afterRaise_effCap]
    exact hentered
  · rw [linkedH_manual hm]
    omega

/-- R14: an amendment that passes its checks, with the record that its effects leave. -/
theorem next_of_amendSegment (ht : TablesOk s) (hr : RefsOk s) (hlen : 40 ≤ body.length) (hi : byteAt body 0 ≤ 31)
    (henums : segEnumsOk body = true) (hg : seg? s (byteAt body 0) = some g)
    (hc : (takeSegNumbers body (takeSegStructure body g.cfg)).1 = c)
    (hrefs : carriesRefs body = true → refsFit s (byteAt body 0) (takeSegStructure body g.cfg) = true)
    (hlinked : c.row ≠ g.cfg.row → ∀ e ∈ s.segs, e.2.cfg.outer ≠ some (byteAt body 0))
    (hu : u = { amendedSeg s g c with shortfall := g.shortfall && !(word4At body 1).testBit 25 }) :
    let i := byteAt body 0
    let enters := g.cfg.mode = .manual ∧ c.mode = .harvest
    let result := amendedRecord s i g u
    ∃ t, exec (.amendSegment body) s = .next t ∧
      seg? t i = some result
      ∧ PortAnswers s t (if (takeSegNumbers body (takeSegStructure body g.cfg)).2 then .clamped else .ok) 0x21 (segRecord i result)
      ∧ (¬enters → result.h ≤ g.h → OtherSegsSame s t i)
      ∧ (enters ∨ g.h < result.h → InnerTakeRaise s t i result.h)
      ∧ SameAround s t ∧ OnlyRecomposed s t := by
  intro i enters result
  subst hu hc
  have hrowed : (takeSegStructure body g.cfg).row ≠ g.cfg.row → isOuter s i = false := by
    intro hne
    refine List.any_eq_false.mpr fun e he => ?_
    have houter : e.2.cfg.outer ≠ some i := hlinked hne e he
    simp [houter]
  have hfits := fitsFloor_of_checks hr (Nat.lt_succ_of_le hi) hg henums hrefs hrowed
  have hstage := amendSeg_stage (g := g) (fun w hw => hfits.takes_put ht hr hw) (enters := enters) Iff.rfl (clearsShortfall body)
  have htakes := hstage.takes
  have hanswer := segAnswer_of_some ((seg?_event (amendSeg i g _ (clearsShortfall body)) s i).trans htakes.own)
  have hexec := exec_amendSegment hlen hi hg henums hrefs hrowed
  dsimp only at hexec
  rw [hanswer, okOr_ite] at hexec
  obtain ⟨t, hnext, hread, hport, hrest⟩ := next_of_answeredSegsEvent hexec (amendSeg_segsOnly i g _ (clearsShortfall body) s)
  refine ⟨t, hnext, (hread i).trans htakes.own, hport, fun hstays hlow j hj => ?_, fun hhigh j v hv ho hm => ?_, hrest⟩
  · have hnot : ¬(enters ∨ g.h < result.h) := by
      rintro (he | hlt)
      exacts [hstays he, by omega]
    exact (hread j).trans (htakes.others j hj (.inl hnot))
  · have hji : j ≠ i := by
      intro hji
      have hrow : rowOf s j = rowOf s i + 1 := linksFollowRows_rowOf ht hr _ (mem_of_tabGet hv) i ho
      rw [hji] at hrow
      omega
    exact (hread j).trans (htakes.inner hhigh j v hji hv ho hm)

/-- Settles O29: the record of the amendment's effects, section by section. -/
theorem amendSegmentChangesSettingsAndMode : Obligations.AmendSegmentChangesSettingsAndMode := by
  intro s body ht hr hlen hi henums i g hg taken c hrefs hlinked hsensing cap new raise enters leaves h dwells moded clamps
    clampDwells clamped capped lifts cut sensed result
  have hmoded : modedSeg (linkedH s new) g.cfg.mode new = moded := by
    unfold modedSeg
    rw [enteredHarvest_eq]
    rfl
  have hmodedCfg : moded.cfg = c := hmoded ▸ modedSeg_cfg _ _ _
  have hmodedHeld : moded.held = g.held := hmoded ▸ (modedSeg_held _ _ _).1
  have hmodedCap : moded.effCap = cap := hmoded ▸ (modedSeg_held _ _ _).2
  have hcapped : cappedSeg (linkedH s new) g.effCap moded = capped :=
    cappedSeg_eq (linkedH s new) g.effCap hmodedCfg hmodedCap hmodedHeld
  have hcappedCfg : capped.cfg = c := hcapped ▸ (cappedSeg_cfg _ _ _).trans hmodedCfg
  have hcappedHeld : capped.held = g.held := hcapped ▸ (cappedSeg_held _ _ _).trans hmodedHeld
  have hcut : (if capped.cfg.cutOff = g.cfg.cutOff then capped else cutOffTested capped) = cut :=
    retestedCutOff_eq g.cfg.cutOff hcappedCfg
  have hsensed : retestedSeg s i g.cfg capped = sensed := by
    unfold retestedSeg
    dsimp only
    rw [hcut, hcappedCfg]
    by_cases hsame : c.sensing = g.cfg.sensing
    · exact (if_pos hsame).trans (if_pos hsame).symm
    · rw [if_neg hsame, sensed_eq (u := cut) (g := g) hcappedCfg (hsensing.resolve_left hsame _ (mem_of_tabGet hg)) hcappedHeld]
      exact (if_neg hsame).symm
  have hsensedCfg : sensed.cfg = c := hsensed ▸ (retestedSeg_level _ _ _ _).1.trans hcappedCfg
  have hresult : amendedRecord s i g new = result := by
    have hreached := modeAmended_reached (s := s) (i := i) (g := g) (u := new)
    rw [hmoded, hcapped, hsensed] at hreached
    unfold amendedRecord
    rw [hmoded, hcapped, hsensed]
    exact relinkedSeg_eq hsensedCfg hreached
  rw [← hresult]
  exact next_of_amendSegment ht hr hlen hi henums hg rfl hrefs hlinked rfl

end AmendRequest

end Sys2Proof.Machine
end

section
/-! SUPPORT. AMEND SEGMENT of the segment cap and the activity sensing alone (R68, R87, R97). -/

namespace Sys2Proof.Machine

/-- Settles O30: the amendment of R14 without a mode change, a link, a cut-off level and the clear-shortfall option. -/
theorem amendSegmentChangesCapAndSensing : Obligations.AmendSegmentChangesCapAndSensing := by
  intro s body ht hr hheld hlen hi henums hcarries i g hg taken c hmode hcut hclear cap clamps dwells capped new result
  obtain ⟨hrow, houter⟩ := takeSegStructure_uncarried (c := g.cfg) hcarries
  have hrow' : c.row = g.cfg.row := hrow
  have houter' : c.outer = g.cfg.outer := houter
  have hstays : ¬(g.cfg.mode = .manual ∧ c.mode = .harvest) := by
    rintro ⟨hm, hh⟩
    cases hh.symm.trans (hmode.trans hm)
  have hleaves : ¬(g.cfg.mode = .harvest ∧ c.mode = .manual) := by
    rintro ⟨hh, hm⟩
    cases hm.symm.trans (hmode.trans hh)
  have hmoded : modedSeg (linkedH s (amendedSeg s g c)) g.cfg.mode (amendedSeg s g c) = amendedSeg s g c := by
    unfold modedSeg
    exact (if_neg hstays).trans (if_neg hleaves)
  have hcapped : cappedSeg (linkedH s (amendedSeg s g c)) g.effCap (amendedSeg s g c) = new := by
    have heq := cappedSeg_eq (c := c) (linkedH s (amendedSeg s g c)) g.effCap (u := amendedSeg s g c) (cap := cap) (held := g.held)
      rfl rfl rfl
    rw [hmode] at heq
    exact heq
  have hcfg : new.cfg = c := hcapped ▸ cappedSeg_cfg _ _ _
  have hnewHeld : new.held = g.held := hcapped ▸ cappedSeg_held _ _ _
  have hsensed : retestedSeg s i g.cfg new = result := by
    unfold retestedSeg
    dsimp only
    rw [hcfg, if_pos hcut]
    by_cases hsame : c.sensing = g.cfg.sensing
    · exact (if_pos hsame).trans (if_pos hsame).symm
    · rw [if_neg hsame, sensed_eq (g := g) hcfg (hheld _ (mem_of_tabGet hg)) hnewHeld]
      exact (if_neg hsame).symm
  have hresult : amendedRecord s i g (amendedSeg s g c) = result := by
    have hresultCfg : result.cfg = c := hsensed ▸ (retestedSeg_level _ _ _ _).1.trans hcfg
    unfold amendedRecord
    rw [hmoded, hcapped, hsensed]
    exact if_pos ⟨by rw [hresultCfg]; exact houter', by rw [hresultCfg]; exact hmode⟩
  have hflag : amendedSeg s g c = { amendedSeg s g c with shortfall := g.shortfall && !(word4At body 1).testBit 25 } := by
    rw [hclear, Bool.not_false, Bool.and_true]
    rfl
  have hnext := next_of_amendSegment ht hr hlen hi henums hg rfl (fun h => absurd (hcarries.symm.trans h) nofun)
    (fun hne => absurd hrow' hne) hflag
  dsimp only at hnext
  rw [show amendedRecord s (byteAt body 0) g (amendedSeg s g c) = result from hresult] at hnext
  obtain ⟨t, hexec, hself, hport, hothers, hinner, hrest⟩ := hnext
  exact ⟨t, hexec, hself, hport, hothers hstays, fun hhigh => hinner (.inr hhigh), hrest⟩

end Sys2Proof.Machine
end

section
/-! SUPPORT. Every effective cap computed again (R122), in whatever order the segments take it (log 4). -/

namespace Sys2Proof.Machine

section Recaps

variable {s t : State} {i j k o n : Nat} {g u v w : Segment}

/-! ## Raises that do not reach a segment -/

/-- R79: a segment without an outer link is raised by no depth raise. -/
theorem raised_unlinked (h : w.cfg.outer = none) (s : State) : raised s w = none := by
  unfold raised activeOuter
  simp [h]

theorem seg?_depthRaise_unlinked (n : Nat) : ∀ {k : Nat} {s : State}, seg? s j = some w → w.cfg.outer = none →
    seg? (depthRaise n k s) j = some w := by
  induction n with
  | zero => exact fun h _ => h
  | succ n ih =>
    intro k s hw hnone
    by_cases hk : j = k
    · rw [← hk, depthRaise_unraised hw (raised_unlinked hnone s)]
      exact hw
    · rcases depthRaise_cases n k s with he | ⟨g, new, _, _, he⟩
      · rwa [he]
      · rw [he]
        exact forEach_keeps (P := fun t => seg? t j = some w) (fun _ _ _ ht => ih ht hnone)
          ((seg?_putSeg_ne new s hk).trans hw)

/-- In a segment table, `i` holds `w`, and its outer segment, `o`, holds `u`, which has none. -/
structure LinkedTo (i o : Nat) (w u : Segment) (a : Tab Segment) : Prop where
  keys : tabWf 32 a
  self : tabGet a i = some w
  link : w.cfg.outer = some o
  outer : tabGet a o = some u
  unlinked : u.cfg.outer = none

theorem LinkedTo.ne {a : Tab Segment} (h : LinkedTo i o w u a) : o ≠ i := by
  rintro rfl
  have hsame := h.self.symm.trans h.outer
  have hlink := h.link
  rw [Option.some.inj hsame, h.unlinked] at hlink
  cases hlink

theorem LinkedTo.put_other (h : LinkedTo i o w u s.segs) (hki : k ≠ i) (hko : k ≠ o) (hk : k < 32) :
    LinkedTo i o w u (putSeg k v s).segs :=
  ⟨tabWf_put h.keys hk, (seg?_putSeg_ne v s (Ne.symm hki)).trans h.self, h.link, (seg?_putSeg_ne v s (Ne.symm hko)).trans h.outer,
    h.unlinked⟩

/-- R82: a raise at another segment reaches neither. -/
theorem LinkedTo.raise_other (n : Nat) : ∀ {k : Nat} {s : State}, LinkedTo i o w u s.segs → k ≠ i →
    LinkedTo i o w u (depthRaise n k s).segs := by
  induction n with
  | zero => exact fun h _ => h
  | succ n ih =>
    intro k s h hki
    by_cases hko : k = o
    · rw [hko, depthRaise_unraised h.outer (raised_unlinked h.unlinked s)]
      exact h
    · rcases depthRaise_cases n k s with he | ⟨g, new, hg, _, he⟩
      · rwa [he]
      · rw [he]
        refine forEach_keeps (P := fun t => LinkedTo i o w u t.segs) (fun m hm t ht => ih ht ?_)
          (h.put_other hki hko (h.keys.2 _ (mem_of_tabGet hg)))
        rintro rfl
        obtain ⟨e, he, ho, rfl⟩ := mem_innerOf.mp hm
        have hself := (tabGet_of_mem h.keys.1 he).symm.trans h.self
        rw [Option.some.inj hself, h.link] at ho
        exact hko (Option.some.inj ho).symm

/-- R81: the raise of a segment whose outer segment has none. -/
theorem LinkedTo.raise_self (h : LinkedTo i o w u s.segs) (hw : w.cfg.mode = .harvest) (hu : u.cfg.mode = .harvest) :
    LinkedTo i o (afterRaise u.h w) u (depthRaise (n + 1) i s).segs := by
  have htable := raised_getD s w
  rw [linkedH_active hw h.link h.outer hu] at htable
  cases hr : raised s w with
  | none =>
    rw [hr, Option.getD_none] at htable
    rw [depthRaise_unraised h.self hr, ← htable]
    exact h
  | some new =>
    rw [hr, Option.getD_some] at htable
    rw [depthRaise_raised h.self hr, ← htable]
    have hput : LinkedTo i o new u (putSeg i new s).segs :=
      ⟨tabWf_put h.keys (h.keys.2 _ (mem_of_tabGet h.self)), seg?_putSeg_self i new s, by rw [raised_cfg hr]; exact h.link,
        (seg?_putSeg_ne new s h.ne).trans h.outer, h.unlinked⟩
    refine forEach_keeps (P := fun t => LinkedTo i o new u t.segs) (fun m hm t ht => ht.raise_other n ?_) hput
    rintro rfl
    obtain ⟨e, he, ho, rfl⟩ := mem_innerOf.mp hm
    have hself := (tabGet_of_mem h.keys.1 he).symm.trans h.self
    rw [Option.some.inj hself, h.link] at ho
    exact h.ne (Option.some.inj ho)

/-! ## One segment's cap -/

/-- R122, R68, R87: the record with its new cap, and what its cap-change event does. -/
theorem recomputeCap_eq (hg : seg? s i = some g) :
    let cap := effectiveCap s.composer g.cfg.cap
    let new : Segment := { g with effCap := cap }
    recomputeCap i s =
      if cap = g.effCap then s
      else if g.cfg.mode = .harvest ∧ cap < g.h then putSeg i (capClamped cap new) s
      else if g.cfg.mode = .harvest ∧ g.effCap < cap then depthRaise 4 i (putSeg i new s)
      else putSeg i new s := by
  intro cap new
  rw [recomputeCap, onSeg_some hg]
  dsimp only
  rw [capChange, onSeg_some (seg?_putSeg_self i _ s), putSeg_putSeg]
  dsimp only
  by_cases hsame : cap = g.effCap
  · exact (if_pos hsame).trans (if_pos hsame).symm
  · by_cases hm : g.cfg.mode = .harvest
    · simp only [hm, true_and]
      rfl
    · simp only [hm, false_and, if_false]
      rfl

theorem recomputeCap_none (hg : seg? s i = none) : recomputeCap i s = s := onSeg_none hg _

/-! ## Every segment -/

/-- What holds of the segment table before segment `i` takes its cap, and what holds from then on, in whatever order the segments
take theirs. -/
theorem recomputeAllCaps_own {before after : Tab Segment → Prop} (hkeys : tabWf 32 s.segs) (hi : (seg? s i).isSome = true)
    (hbefore : ∀ k t, t.composer = s.composer → tabWf 32 t.segs → k ≠ i → before t.segs → before (recomputeCap k t).segs)
    (hown : ∀ t, t.composer = s.composer → tabWf 32 t.segs → before t.segs → after (recomputeCap i t).segs)
    (hafter : ∀ k t, t.composer = s.composer → tabWf 32 t.segs → k ≠ i → after t.segs → after (recomputeCap k t).segs)
    (hs : before s.segs) : after (recomputeAllCaps s).segs := by
  have hstep {k : Nat} {t : State} (ht : t.composer = s.composer ∧ tabWf 32 t.segs) :
      (event (recomputeCap k) t).composer = s.composer ∧ tabWf 32 (event (recomputeCap k) t).segs := by
    obtain ⟨⟨hsegs, _, _, hcomposer, _⟩, _⟩ := event_same (recomputeCap k) t
    rw [hsegs, hcomposer, (recomputeCap_segsOnly k t).same.2.1.2.2.1]
    exact ⟨ht.1, (recomputeCap_by k t).keepsTabWf ht.2⟩
  have hread (k : Nat) (t : State) : (event (recomputeCap k) t).segs = (recomputeCap k t).segs := (event_same (recomputeCap k) t).1.1
  obtain ⟨order, draws, hperm, horder⟩ := forEachFree_eq (segIds s) (fun i => event (recomputeCap i)) s
  have hnodup : order.Nodup := by
    rw [hperm.nodup_iff]
    exact List.pairwise_map.mpr (hkeys.1.imp Nat.ne_of_lt)
  have hmem : i ∈ order := hperm.mem_iff.mpr (tabGet_isSome_iff.mp hi)
  obtain ⟨front, back, rfl⟩ := List.append_of_mem hmem
  rw [List.nodup_middle, List.nodup_cons, List.mem_append, not_or] at hnodup
  obtain ⟨⟨hfront, hback⟩, _⟩ := hnodup
  rw [recomputeAllCaps, horder, forEach_append, forEach_cons]
  have hearly : ∀ t, t = forEach front (fun i => event (recomputeCap i)) { s with draws := draws } →
      (t.composer = s.composer ∧ tabWf 32 t.segs) ∧ before t.segs := by
    rintro t rfl
    refine forEach_keeps (P := fun t => (t.composer = s.composer ∧ tabWf 32 t.segs) ∧ before t.segs) (fun k hk t ht => ⟨hstep ht.1, ?_⟩)
      ⟨⟨rfl, hkeys⟩, hs⟩
    rw [hread]
    exact hbefore k t ht.1.1 ht.1.2 (by rintro rfl; exact hfront hk) ht.2
  obtain ⟨hfacts, hbef⟩ := hearly _ rfl
  refine (forEach_keeps (P := fun t => (t.composer = s.composer ∧ tabWf 32 t.segs) ∧ after t.segs) (fun k hk t ht => ⟨hstep ht.1, ?_⟩)
    ⟨hstep hfacts, ?_⟩).2
  · rw [hread]
    exact hafter k t ht.1.1 ht.1.2 (by rintro rfl; exact hback hk) ht.2
  · rw [hread]
    exact hown _ hfacts.1 hfacts.2 hbef

/-! ## What it leaves of a segment -/

/-- R122: a record as it was, its effective cap, H, controller state, off-delay and step timer apart. -/
abbrev Recapped (g u : Segment) : Prop :=
  { u with effCap := g.effCap, h := g.h, ctl := g.ctl, offTimer := g.offTimer, stepTimer := g.stepTimer } = g

theorem afterRaise_recapped (n : Nat) (g : Segment) : Recapped g (afterRaise n g) := by
  unfold afterRaise
  dsimp only
  split
  · rfl
  · split
    case h_4 => split <;> rfl
    all_goals rfl

theorem Recapped.trans (h : Recapped g u) (k : Recapped u v) : Recapped g v := by
  rw [← h, ← k]

theorem capClamped_recapped (cap : Nat) (g : Segment) : Recapped g (capClamped cap { g with effCap := cap }) := by
  unfold capClamped
  split <;> rfl

theorem CapMove.recapped (h : CapMove g u) : Recapped g u := by
  cases h with
  | rose cap hcap => rfl
  | fell cap hmode hcap => exact capClamped_recapped cap g
  | raised hmove =>
    obtain ⟨n, _⟩ := hmove
    exact afterRaise_recapped n g

/-- R122: one segment's new cap is the effective cap that its own takes, and leaves the others'. -/
theorem recomputeCap_effCap (hkeys : tabWf 32 t.segs) (hg : seg? t i = some g) (hu : seg? (recomputeCap k t) i = some u) :
    u.effCap = if k = i then effectiveCap t.composer g.cfg.cap else g.effCap := by
  cases hv : seg? t k with
  | none =>
    have hne : k ≠ i := by
      rintro rfl
      cases hv.symm.trans hg
    rw [recomputeCap_none hv, hg] at hu
    rw [if_neg hne, Option.some.inj hu]
  | some v =>
    have hput {w x : Segment} (hw : w.effCap = effectiveCap t.composer v.cfg.cap) (hx : seg? (putSeg k w t) i = some x) :
        x.effCap = if k = i then effectiveCap t.composer g.cfg.cap else g.effCap := by
      by_cases hk : k = i
      · subst hk
        rw [seg?_putSeg_self] at hx
        rw [hg] at hv
        obtain rfl := Option.some.inj hv
        rw [if_pos rfl, ← Option.some.inj hx, hw]
      · rw [seg?_putSeg_ne w t (Ne.symm hk), hg] at hx
        rw [if_neg hk, Option.some.inj hx]
    rw [recomputeCap_eq hv] at hu
    split at hu
    · rename_i hsame
      rw [hg] at hu
      obtain rfl := Option.some.inj hu
      by_cases hk : k = i
      · subst hk
        rw [hg] at hv
        obtain rfl := Option.some.inj hv
        rw [if_pos rfl, hsame]
      · rw [if_neg hk]
    · split at hu
      · exact hput (capClamped_effCap _ _) hu
      · split at hu
        · have hwf : tabWf 32 (putSeg k { v with effCap := effectiveCap t.composer v.cfg.cap } t).segs :=
            tabWf_put hkeys (hkeys.2 _ (mem_of_tabGet hv))
          obtain ⟨x, hx, hmoves⟩ := (depthRaise_raises 4 k _).get_some hwf hu
          exact (raiseMoves_effCap hmoves).trans (hput rfl hx)
        · exact hput rfl hu

/-- R122: what a new cap of one segment leaves of every record. -/
theorem recomputeCap_recaps (hkeys : tabWf 32 t.segs) (hg : seg? t i = some g) (k : Nat) :
    ∃ u, seg? (recomputeCap k t) i = some u ∧ Recapped g u
      ∧ u.effCap = if k = i then effectiveCap t.composer g.cfg.cap else g.effCap := by
  have hsome := (recomputeCap_by k t).isSome hkeys i
  obtain ⟨u, hu⟩ := Option.isSome_iff_exists.mp (hsome.trans (by rw [show tabGet t.segs i = some g from hg]; rfl))
  obtain ⟨v, hv, hmoves⟩ := (recomputeCap_by k t).get_some hkeys hu
  rw [show tabGet t.segs i = some g from hg] at hv
  obtain rfl := Option.some.inj hv
  refine ⟨u, hu, ?_, ?_⟩
  · clear hu
    induction hmoves with
    | refl => rfl
    | tail _ hmove ih => exact ih.trans hmove.recapped
  · exact recomputeCap_effCap hkeys hg hu

end Recaps

end Sys2Proof.Machine
end

section
/-! SUPPORT. The record that a floor-wide change of the caps leaves of a segment (R68, R87, R122), and SET FLOOR CAP (R124). -/

namespace Sys2Proof.Machine

section AllCaps

variable {s t : State} {i j k o n : Nat} {g u v w : Segment}

theorem Recapped.cfg_eq (h : Recapped g u) : u.cfg = g.cfg := by rw [← h]

theorem recomputeAllCaps_recaps (hkeys : tabWf 32 s.segs) (hg : seg? s i = some g) :
    ∃ u, seg? (recomputeAllCaps s) i = some u ∧ Recapped g u ∧ u.effCap = effectiveCap s.composer g.cfg.cap := by
  refine recomputeAllCaps_own (before := fun a => ∃ u, tabGet a i = some u ∧ Recapped g u)
    (after := fun a => ∃ u, tabGet a i = some u ∧ Recapped g u ∧ u.effCap = effectiveCap s.composer g.cfg.cap) hkeys
    (by rw [hg]; rfl) ?_ ?_ ?_ ⟨g, hg, rfl⟩
  · rintro k t _ hwf _ ⟨u, hu, hrecapped⟩
    obtain ⟨v, hv, hmore, _⟩ := recomputeCap_recaps hwf hu k
    exact ⟨v, hv, hrecapped.trans hmore⟩
  · rintro t hcomposer hwf ⟨u, hu, hrecapped⟩
    obtain ⟨v, hv, hmore, hcap⟩ := recomputeCap_recaps hwf hu i
    have hcfg : u.cfg = g.cfg := hrecapped.cfg_eq
    rw [if_pos rfl, hcomposer, hcfg] at hcap
    exact ⟨v, hv, hrecapped.trans hmore, hcap⟩
  · rintro k t _ hwf hk ⟨u, hu, hrecapped, hcap⟩
    obtain ⟨v, hv, hmore, hkept⟩ := recomputeCap_recaps hwf hu k
    rw [if_neg hk] at hkept
    exact ⟨v, hv, hrecapped.trans hmore, hkept.trans hcap⟩

/-! ## A segment without an outer link -/

theorem recomputeCap_keepsUnlinked (hki : k ≠ i) (hw : seg? t i = some w) (hnone : w.cfg.outer = none) :
    seg? (recomputeCap k t) i = some w := by
  cases hv : seg? t k with
  | none =>
    rw [recomputeCap_none hv]
    exact hw
  | some v =>
    have hput (x : Segment) : seg? (putSeg k x t) i = some w := (seg?_putSeg_ne x t (Ne.symm hki)).trans hw
    rw [recomputeCap_eq hv]
    split
    · exact hw
    · split
      · exact hput _
      · split
        · exact seg?_depthRaise_unlinked 4 (hput _) hnone
        · exact hput _

theorem recomputeAllCaps_unlinked (hkeys : tabWf 32 s.segs) (hg : seg? s i = some g) (hnone : g.cfg.outer = none)
    (hfits : g.h ≤ effectiveCap s.composer g.cfg.cap ∨ g.cfg.mode = .manual) :
    seg? (recomputeAllCaps s) i = some { g with effCap := effectiveCap s.composer g.cfg.cap } := by
  refine recomputeAllCaps_own (before := fun a => tabGet a i = some g)
    (after := fun a => tabGet a i = some { g with effCap := effectiveCap s.composer g.cfg.cap }) hkeys (by rw [hg]; rfl)
    (fun k t _ _ hk ht => recomputeCap_keepsUnlinked hk ht hnone) (fun t hcomposer _ ht => ?_)
    (fun k t _ _ hk ht => recomputeCap_keepsUnlinked hk ht hnone) hg
  have hnoclamp : ¬(g.cfg.mode = .harvest ∧ effectiveCap s.composer g.cfg.cap < g.h) := by
    rintro ⟨hm, hlt⟩
    rcases hfits with hle | hmanual
    · omega
    · rw [hm] at hmanual
      cases hmanual
  rw [recomputeCap_eq ht, hcomposer]
  rw [if_neg hnoclamp]
  split
  · rename_i hsame
    rw [hsame]
    exact ht
  · split
    · exact seg?_depthRaise_unlinked 4 (seg?_putSeg_self i _ t) hnone
    · exact seg?_putSeg_self i _ t

/-! ## Caps that do not rise -/

/-- No segment's effective cap is below the one that it is to take. -/
def CapsFall (c : Composer) (a : Tab Segment) : Prop := ∀ j v, tabGet a j = some v → effectiveCap c v.cfg.cap ≤ v.effCap

/-- R68: a cap that does not rise: the record alone. -/
theorem recomputeCap_fall (hv : seg? t k = some v) (hfall : effectiveCap t.composer v.cfg.cap ≤ v.effCap) :
    let cap := effectiveCap t.composer v.cfg.cap
    recomputeCap k t =
      if cap = v.effCap then t
      else putSeg k (if v.cfg.mode = .harvest ∧ cap < v.h then capClamped cap { v with effCap := cap } else { v with effCap := cap }) t := by
  intro cap
  rw [recomputeCap_eq hv]
  rw [if_neg (fun h : v.cfg.mode = .harvest ∧ v.effCap < effectiveCap t.composer v.cfg.cap => by omega)]
  refine ite_congr rfl (fun _ => rfl) fun _ => ?_
  split <;> rfl

theorem recomputeCap_capsFall {c : Composer} (hc : t.composer = c) (h : CapsFall c t.segs) (k : Nat) :
    CapsFall c (recomputeCap k t).segs ∧ ∀ j, j ≠ k → seg? (recomputeCap k t) j = seg? t j := by
  subst hc
  cases hv : seg? t k with
  | none =>
    rw [recomputeCap_none hv]
    exact ⟨h, fun _ _ => rfl⟩
  | some v =>
    have hput {x : Segment} (hcfg : x.cfg = v.cfg) (hcap : x.effCap = effectiveCap t.composer v.cfg.cap) :
        CapsFall t.composer (putSeg k x t).segs ∧ ∀ j, j ≠ k → seg? (putSeg k x t) j = seg? t j := by
      refine ⟨fun j y hy => ?_, fun j hj => seg?_putSeg_ne x t hj⟩
      by_cases hj : j = k
      · subst hj
        have hself := (seg?_putSeg_self j x t).symm.trans hy
        rw [← Option.some.inj hself, hcfg, hcap]
      · exact h j y ((seg?_putSeg_ne x t hj).symm.trans hy)
    rw [recomputeCap_fall hv (h k v hv)]
    split
    · exact ⟨h, fun _ _ => rfl⟩
    · split
      · exact hput (capClamped_cfg _ _) (capClamped_effCap _ _)
      · exact hput rfl rfl

theorem recomputeAllCaps_clamped (hkeys : tabWf 32 s.segs) (hg : seg? s i = some g)
    (hfall : ∀ e ∈ s.segs, effectiveCap s.composer e.2.cfg.cap ≤ e.2.effCap) (hm : g.cfg.mode = .harvest) (hlevel : g.h ≤ g.effCap)
    (hclamp : effectiveCap s.composer g.cfg.cap < g.h) :
    seg? (recomputeAllCaps s) i =
      some (capClamped (effectiveCap s.composer g.cfg.cap) { g with effCap := effectiveCap s.composer g.cfg.cap }) := by
  have hkept {w : Segment} (k : Nat) (t : State) (hc : t.composer = s.composer) (hk : k ≠ i)
      (ht : tabGet t.segs i = some w ∧ CapsFall s.composer t.segs) :
      tabGet (recomputeCap k t).segs i = some w ∧ CapsFall s.composer (recomputeCap k t).segs := by
    obtain ⟨hcaps, hothers⟩ := recomputeCap_capsFall hc ht.2 k
    exact ⟨(hothers i (Ne.symm hk)).trans ht.1, hcaps⟩
  refine (recomputeAllCaps_own (before := fun a => tabGet a i = some g ∧ CapsFall s.composer a)
    (after := fun a => tabGet a i =
      some (capClamped (effectiveCap s.composer g.cfg.cap) { g with effCap := effectiveCap s.composer g.cfg.cap })
      ∧ CapsFall s.composer a) hkeys (by rw [hg]; rfl)
    (fun k t hc _ hk ht => hkept k t hc hk ht) (fun t hc _ ht => ⟨?_, (recomputeCap_capsFall hc ht.2 i).1⟩)
    (fun k t hc _ hk ht => hkept k t hc hk ht) ⟨hg, fun j v hv => hfall _ (mem_of_tabGet hv)⟩).1
  have hown := recomputeCap_eq ht.1
  dsimp only at hown
  rw [hc, if_neg (by omega), if_pos ⟨hm, hclamp⟩] at hown
  rw [hown]
  exact seg?_putSeg_self i _ t

/-! ## A segment whose outer segment has no outer link -/

/-- The segment holds `w`; its outer segment is in HARVEST, has no outer link, and its H, `outerH`, fits the cap that it is to
take. -/
def UnderFree (c : Composer) (i o outerH : Nat) (w : Segment) (a : Tab Segment) : Prop :=
  ∃ u, LinkedTo i o w u a ∧ u.cfg.mode = .harvest ∧ u.h = outerH ∧ outerH ≤ effectiveCap c u.cfg.cap

theorem UnderFree.recomputeCap {c : Composer} {outerH : Nat} (hc : t.composer = c) (h : UnderFree c i o outerH w t.segs) (hki : k ≠ i) :
    UnderFree c i o outerH w (recomputeCap k t).segs := by
  subst hc
  obtain ⟨u, hlinked, hum, hlevel, hfits⟩ := h
  cases hv : seg? t k with
  | none =>
    rw [recomputeCap_none hv]
    exact ⟨u, hlinked, hum, hlevel, hfits⟩
  | some v =>
    have hk : k < 32 := hlinked.keys.2 _ (mem_of_tabGet hv)
    by_cases hko : k = o
    · subst hko
      obtain rfl := Option.some.inj (hlinked.outer.symm.trans hv)
      have hput (cap : Nat) : UnderFree t.composer i k outerH w (putSeg k { u with effCap := cap } t).segs :=
        ⟨{ u with effCap := cap },
          ⟨tabWf_put hlinked.keys hk, (seg?_putSeg_ne _ t (Ne.symm hki)).trans hlinked.self, hlinked.link,
            seg?_putSeg_self k _ t, hlinked.unlinked⟩, hum, hlevel, hfits⟩
      rw [recomputeCap_eq hv]
      rw [if_neg (fun hclamp : u.cfg.mode = .harvest ∧ effectiveCap t.composer u.cfg.cap < u.h => by omega)]
      split
      · exact ⟨u, hlinked, hum, hlevel, hfits⟩
      · split
        · rw [depthRaise_unraised (seg?_putSeg_self k _ t) (raised_unlinked (w := { u with effCap := effectiveCap t.composer u.cfg.cap }) hlinked.unlinked _)]
          exact hput _
        · exact hput _
    · have hput (x : Segment) : LinkedTo i o w u (putSeg k x t).segs := hlinked.put_other hki hko hk
      have hkeeps {t' : State} (ht' : LinkedTo i o w u t'.segs) : UnderFree t.composer i o outerH w t'.segs :=
        ⟨u, ht', hum, hlevel, hfits⟩
      rw [recomputeCap_eq hv]
      split
      · exact hkeeps hlinked
      · split
        · exact hkeeps (hput _)
        · split
          · exact hkeeps ((hput _).raise_other 4 hki)
          · exact hkeeps (hput _)

theorem recomputeAllCaps_underFree (hkeys : tabWf 32 s.segs) (hg : seg? s i = some g) (ho : g.cfg.outer = some o)
    (hu : seg? s o = some u) (hum : u.cfg.mode = .harvest) (hnone : u.cfg.outer = none)
    (hfits : u.h ≤ effectiveCap s.composer u.cfg.cap) (hm : g.cfg.mode = .harvest) (hlevel : g.h ≤ g.effCap) :
    let cap := effectiveCap s.composer g.cfg.cap
    let capped : Segment := { g with effCap := cap }
    seg? (recomputeAllCaps s) i =
      some (if cap < g.h then capClamped cap capped else if g.effCap < cap then afterRaise u.h capped else capped) := by
  intro cap capped
  have hlinked {t : State} {x : Segment} (h : UnderFree s.composer i o u.h x t.segs) : seg? t i = some x := by
    obtain ⟨_, hlink, _⟩ := h
    exact hlink.self
  refine hlinked (recomputeAllCaps_own (before := UnderFree s.composer i o u.h g)
    (after := UnderFree s.composer i o u.h
      (if cap < g.h then capClamped cap capped else if g.effCap < cap then afterRaise u.h capped else capped))
    hkeys (by rw [hg]; rfl) (fun k t hc _ hk ht => ht.recomputeCap hc hk) (fun t hc _ ht => ?_)
    (fun k t hc _ hk ht => ht.recomputeCap hc hk) ⟨u, ⟨hkeys, hg, ho, hu, hnone⟩, hum, rfl, hfits⟩)
  obtain ⟨x, hlink, hxm, hxh, hxfits⟩ := ht
  have hi : i < 32 := hlink.keys.2 _ (mem_of_tabGet hlink.self)
  have hput {y : Segment} (hcfg : y.cfg = g.cfg) : LinkedTo i o y x (putSeg i y t).segs :=
    ⟨tabWf_put hlink.keys hi, seg?_putSeg_self i y t, by rw [hcfg]; exact ho, (seg?_putSeg_ne y t hlink.ne).trans hlink.outer,
      hlink.unlinked⟩
  have hkeeps {t' : State} {y : Segment} (ht' : LinkedTo i o y x t'.segs) : UnderFree s.composer i o u.h y t'.segs :=
    ⟨x, ht', hxm, hxh, hxfits⟩
  have hown := recomputeCap_eq hlink.self
  dsimp only at hown
  rw [hc, show effectiveCap s.composer g.cfg.cap = cap from rfl] at hown
  rw [hown]
  by_cases hsame : cap = g.effCap
  · rw [if_pos hsame, if_neg (by omega), if_neg (by omega)]
    have hcapped : capped = g := by
      unfold capped
      rw [hsame]
    rw [hcapped]
    exact hkeeps hlink
  · rw [if_neg hsame]
    by_cases hclamp : cap < g.h
    · rw [if_pos hclamp, if_pos (And.intro hm hclamp)]
      exact hkeeps (hput (capClamped_cfg _ _))
    · rw [if_neg hclamp, if_neg fun h : g.cfg.mode = .harvest ∧ cap < g.h => hclamp h.2]
      by_cases hrise : g.effCap < cap
      · rw [if_pos hrise, if_pos (And.intro hm hrise)]
        have hraised := (hput (y := capped) rfl).raise_self (n := 3) hm hxm
        rw [hxh] at hraised
        exact hkeeps hraised
      · rw [if_neg hrise, if_neg fun h : g.cfg.mode = .harvest ∧ g.effCap < cap => hrise h.2]
        exact hkeeps (hput (y := capped) rfl)

end AllCaps

end Sys2Proof.Machine
end

section
/-! SUPPORT. SET FLOOR CAP (R124). -/

namespace Sys2Proof.Machine

section FloorCap

variable {s : State} {i : Nat} {g : Segment} {body : List Byte}

/-- R124: the floor cap and its enable as a request stores them. -/
def floorCapped (body : List Byte) (c : Composer) : Composer :=
  { c with floorCap := min (word2At body 0) 1000, floorCapOn := byteAt body 2 == 1 }

/-- R122: the effective cap under a stored floor cap. -/
theorem effectiveCap_floorCapped (body : List Byte) (c : Composer) (cap : Nat) :
    effectiveCap (floorCapped body c) cap =
      min (min 1000 cap)
        (min (if byteAt body 2 = 1 then min (word2At body 0) 1000 else 1000) (if c.shedAsserted then 600 else 1000)) := by
  simp only [effectiveCap, floorCapped, beq_iff_eq]
  rfl

theorem exec_setFloorCap_refused (h : body.length < 3 ∨ 1 < byteAt body 2) :
    exec (.setFloorCap body) s = deny .badField 0x60 s := by
  simp only [exec, execSetFloorCap]
  by_cases hlen : body.length < 3
  · rw [if_pos hlen]
  · rw [if_neg hlen, if_pos (h.resolve_left hlen)]

theorem exec_setFloorCap (hlen : 3 ≤ body.length) (henable : byteAt body 2 ≤ 1) :
    exec (.setFloorCap body) s =
      done (answer (if min (word2At body 0) 1000 = word2At body 0 then .ok else .clamped) 0x60
        (bytes2 (min (word2At body 0) 1000) ++ [byte (byteAt body 2)])
        (recomputeAllCaps { s with composer := floorCapped body s.composer })) := by
  have hvalue : takeNum 0 1000 0 (some (word2At body 0)) = (min (word2At body 0) 1000, min (word2At body 0) 1000 != word2At body 0) := by
    simp only [takeNum, clampTo, Nat.zero_max]
  simp only [exec, execSetFloorCap, if_neg (Nat.not_lt.mpr hlen), if_neg (Nat.not_lt.mpr henable), hvalue]
  rw [okOr_eq (p := min (word2At body 0) 1000 = word2At body 0) (by simp)]
  rfl

/-- R50: H of a HARVEST segment does not exceed its effective cap. -/
theorem HarvestOk.level_le (h : HarvestOk s) (hg : seg? s i = some g) (hm : g.cfg.mode = .harvest) : g.h ≤ g.effCap :=
  ((h _ (mem_of_tabGet hg)).1 hm).1

/-- Settles O40: the request's checks, and the record that every segment takes. -/
theorem setFloorCapRecomputesEveryCap : Obligations.SetFloorCapRecomputesEveryCap := by
  intro s body v c capOf
  refine ⟨fun h => refused_of_deny (exec_setFloorCap_refused h), fun ht hh hlen henable => ?_⟩
  have hcapOf (cap : Nat) : effectiveCap (floorCapped body s.composer) cap = capOf cap := effectiveCap_floorCapped body s.composer cap
  have hevent := recomputeAllCaps_eventOnly { s with composer := floorCapped body s.composer }
  have hoverrides := recomputeAllCaps_overrides { s with composer := floorCapped body s.composer }
  obtain ⟨hinputs, ⟨hcomposer, hline, htime, hpending⟩, hport⟩ := hevent.same
  refine ⟨_, exec_setFloorCap hlen henable, hcomposer, fun i g hg => ?_, ?_, hinputs, hoverrides, hline, htime, hpending, hevent.2⟩
  · intro cap dwells capped clamped
    have hkeys : tabWf 32 ({ s with composer := floorCapped body s.composer } : State).segs := ht.2.1
    have hcap : effectiveCap (floorCapped body s.composer) g.cfg.cap = cap := hcapOf g.cfg.cap
    have hclamped : capClamped (effectiveCap (floorCapped body s.composer) g.cfg.cap)
        { g with effCap := effectiveCap (floorCapped body s.composer) g.cfg.cap } = clamped := by
      rw [capClamped_eq, hcap]
    refine ⟨?_, fun hnone hfits => ?_, fun hfall hm hlow => ?_, fun o ho u hu hum hnone hfits hm => ?_⟩
    · obtain ⟨u, hu, _, heff⟩ := recomputeAllCaps_recaps hkeys hg
      exact (congrArg (Option.map Segment.effCap) hu).trans (congrArg some (heff.trans hcap))
    · refine (recomputeAllCaps_unlinked hkeys hg hnone ?_).trans ?_
      · exact hfits.imp_left fun h => hcap.symm ▸ h
      · exact congrArg (fun n => some { g with effCap := n }) hcap
    · refine (recomputeAllCaps_clamped hkeys hg (fun e he => ?_) hm (hh.level_le hg hm) ?_).trans (congrArg some hclamped)
      · exact (hcapOf e.2.cfg.cap).symm ▸ hfall e he
      · exact hcap.symm ▸ hlow
    · have hrecord := recomputeAllCaps_underFree hkeys hg ho hu hum hnone ((hcapOf u.cfg.cap).symm ▸ hfits) hm (hh.level_le hg hm)
      dsimp only at hrecord
      rw [hclamped, hcap] at hrecord
      exact hrecord
  · exact congrArg (fun p : Port => ({ p with offered := _, attn := _ } : Port)) hport

end FloorCap

end Sys2Proof.Machine
end

section
/-! SUPPORT. A tenth (R1, R123, R139): the scan slots, before or after the hand-overs of a changed contact (log 4). -/

namespace Sys2Proof.Machine

section Scans

variable {s t u : State} {i z : LineId} {k code : Nat} {l : FixtureLine}

/-! ## Recompositions leave the scan slots -/

/-- The scan slots stand, and every luminaire keeps its place in the table. -/
structure ScansStand (s t : State) : Prop where
  slot : ∀ i, (lineOf i t).slot = (lineOf i s).slot
  lums : LumsBy LumMoves s t

theorem ScansStand.trans (h : ScansStand s t) (k : ScansStand t u) : ScansStand s u :=
  ⟨fun i => (k.slot i).trans (h.slot i), h.lums.lum_trans k.lums⟩

theorem scansStand_of_same (hlums : t.lums = s.lums) (hlines : ∀ i, lineOf i t = lineOf i s) : ScansStand s t :=
  ⟨fun i => congrArg FixtureLine.slot (hlines i), lumsBy_of_lums hlums⟩

theorem coalesce_ne_nil (q : List QueueEntry) (k code : Nat) : coalesce q k code ≠ [] := by
  unfold coalesce
  split
  · rename_i hany
    obtain ⟨e, he, _⟩ := List.any_eq_true.mp hany
    exact fun hnil => List.ne_nil_of_mem he (List.map_eq_nil_iff.mp hnil)
  · simp

/-- R140: the arbiter takes the scan slot only where no code waits. -/
theorem chooseFrame_slot (h : l.state = .running → l.queue ≠ []) : (chooseFrame l).slot = l.slot := by
  unfold chooseFrame
  split
  · rename_i hidle
    split
    · rfl
    · rfl
    · rename_i hnil _ _
      exact absurd hnil (h hidle.1)
    · rfl
  · rfl

theorem handedLine_slot (l : FixtureLine) (k code : Nat) : (handedLine l k code).slot = l.slot := by
  unfold handedLine
  rw [chooseFrame_slot]
  intro hrunning
  have hup : l.state = .running := hrunning
  dsimp only
  rw [if_pos hup]
  exact coalesce_ne_nil l.queue k code

theorem recomposeLum_scansStand (k : Nat) (s : State) : ScansStand s (recomposeLum k s) := by
  refine ⟨fun i => ?_, recomposeLum_by k s⟩
  cases hl : lum? s k with
  | none => rw [recomposeLum, onLum_none hl]
  | some l =>
    cases hp : l.place with
    | none => rw [recomposeLum_unassigned hl hp]
    | some p =>
      cases hg : seg? s p.segment with
      | none => simp [recomposeLum, onLum_some hl, hp, onSeg_none hg]
      | some g =>
        rw [recomposeLum_eq hl hp hg]
        split
        · rw [lineOf_putLine]
          split
          · rename_i hi
            rw [hi]
            exact handedLine_slot _ _ _
          · rw [lineOf_putLum]
        · rw [lineOf_putLum]

theorem settle_scansStand (s t : State) : ScansStand t (settle s t) :=
  forEachFree_rel (R := ScansStand) .trans (fun _ _ => scansStand_of_same rfl fun i => by cases i <;> rfl)
    (fun i _ u => forEach_rel (R := ScansStand) (fun _ => scansStand_of_same rfl fun _ => rfl) .trans
      (fun k _ v => recomposeLum_scansStand k v) u) t

theorem lineOf_of_fixtures (h : SameFixtures s t) (i : LineId) : lineOf i t = lineOf i s := by
  obtain ⟨_, ha, hb⟩ := h
  cases i
  · exact ha
  · exact hb

theorem recomputeAllCaps_scansStand (s : State) : ScansStand s (recomputeAllCaps s) :=
  forEachFree_rel (R := ScansStand) .trans (fun _ _ => scansStand_of_same rfl fun i => by cases i <;> rfl)
    (fun i _ u => by
      have hsame := (recomputeCap_segsOnly i u).same.1
      exact (scansStand_of_same hsame.1 (lineOf_of_fixtures hsame)).trans (settle_scansStand u (recomputeCap i u))) s

/-! ## The scan slots at a tenth -/

/-- R139: the luminaire that a tenth puts in a line's scan slot. -/
def slotPick (i : LineId) (s : State) : Option Nat :=
  let line := lineOf i s
  let keys := enrolledOn i s
  let above := keys.filter fun k => line.mark.all (· < keyAddress k) && line.mark.isSome
  if line.state = .running ∧ line.slot = none then (if above = [] then keys.head? else above.head?) else none

theorem slotPick_eq (i : LineId) (s : State) : slotPick i s = if scanFills i s then nextScan i s else none := by
  have hnext : nextScan i s =
      (if ((enrolledOn i s).filter fun k => (lineOf i s).mark.all (· < keyAddress k) && (lineOf i s).mark.isSome) = [] then
        (enrolledOn i s).head?
      else ((enrolledOn i s).filter fun k => (lineOf i s).mark.all (· < keyAddress k) && (lineOf i s).mark.isSome).head?) := by
    unfold nextScan
    cases (lineOf i s).mark with
    | none => simp
    | some m =>
      simp only [Option.all_some, Option.isSome_some, Bool.and_true, List.head?_filter]
      cases hfind : (enrolledOn i s).find? fun k => decide (m < keyAddress k) with
      | none => rw [if_pos (List.filter_eq_nil_iff.mpr (List.find?_eq_none.mp hfind))]; rfl
      | some k =>
        rw [if_neg]
        · rfl
        · intro hnil
          have hnone := List.find?_eq_none.mpr (List.filter_eq_nil_iff.mp hnil)
          rw [hfind] at hnone
          cases hnone
  unfold slotPick scanFills
  dsimp only
  rw [← hnext]
  by_cases hempty : (lineOf i s).state = .running ∧ (lineOf i s).slot = none
  · rw [if_pos hempty]
    obtain ⟨hup, hslot⟩ := hempty
    simp only [hup, hslot, beq_self_eq_true, Bool.true_and]
    cases nextScan i s <;> rfl
  · rw [if_neg hempty, if_neg]
    simp only [Bool.and_eq_true, beq_iff_eq, not_and]
    exact fun h => absurd h hempty

/-- R139: a line with its scan slot filled and its mark moved. -/
def filledLine (i : LineId) (s : State) : FixtureLine :=
  { lineOf i s with slot := slotPick i s, mark := (slotPick i s).map keyAddress }

theorem fillScanSlot_eq (i : LineId) (s : State) :
    fillScanSlot i s = if (slotPick i s).isSome then putLine i (chooseFrame (filledLine i s)) s else s := by
  unfold fillScanSlot filledLine
  rw [slotPick_eq]
  by_cases hfills : scanFills i s = true
  · simp only [hfills, if_true]
    cases nextScan i s with
    | none => rfl
    | some k => simp only [Option.isSome_some, if_true, arbitrate_putLine, Option.map_some]
  · simp only [hfills, if_false, Option.isSome_none, Bool.false_eq_true]

theorem slotPick_congr (hline : lineOf i t = lineOf i s) (hlums : t.lums = s.lums) : slotPick i t = slotPick i s := by
  unfold slotPick enrolledOn
  rw [hline, hlums]

theorem state_mark_of_settings {l m : FixtureLine} (h : lineSettings l = lineSettings m) : l.state = m.state ∧ l.mark = m.mark := by
  have hstate : (lineSettings l).state = (lineSettings m).state := by rw [h]
  have hmark : (lineSettings l).mark = (lineSettings m).mark := by rw [h]
  exact ⟨hstate, hmark⟩

/-- R139: the pick depends on the line's state, its slot and its mark, and on which luminaires are enrolled. -/
theorem slotPick_of_stands (hkeys : tabWf 128 s.lums) (h : ScansStand s t)
    (hlines : lineSettings (lineOf i t) = lineSettings (lineOf i s)) : slotPick i t = slotPick i s := by
  obtain ⟨hstate, hmark⟩ := state_mark_of_settings hlines
  unfold slotPick enrolledOn
  dsimp only
  rw [hstate, hmark, h.slot i, h.lums.keys hkeys.1]

theorem lineOf_fillScanSlot (i z : LineId) (s : State) :
    lineOf z (fillScanSlot i s) =
      if z = i ∧ (slotPick i s).isSome = true then chooseFrame (filledLine i s) else lineOf z s := by
  rw [fillScanSlot_eq]
  by_cases hpick : (slotPick i s).isSome = true
  · rw [if_pos hpick, lineOf_putLine]
    by_cases hz : z = i
    · rw [if_pos hz, if_pos ⟨hz, hpick⟩]
    · rw [if_neg hz, if_neg fun h => hz h.1]
  · rw [if_neg hpick, if_neg fun h => hpick h.2]

/-- R139: both lines after their slots are filled. -/
theorem lineOf_fillSlots (z : LineId) (s : State) :
    lineOf z (fillSlots s) = if (slotPick z s).isSome then chooseFrame (filledLine z s) else lineOf z s := by
  have hb : lineOf .b (fillScanSlot .a s) = lineOf .b s := by rw [lineOf_fillScanSlot, if_neg (by simp)]
  have hpickB : slotPick .b (fillScanSlot .a s) = slotPick .b s := slotPick_congr hb (fillScanSlot_lums .a s)
  rw [fillSlots, lineOf_fillScanSlot]
  cases z with
  | a =>
    rw [if_neg (by simp), lineOf_fillScanSlot]
    simp
  | b =>
    unfold filledLine
    rw [hpickB, hb]
    simp

end Scans

end Sys2Proof.Machine
end

section
/-! SUPPORT. A tenth, the countdowns and the contact (R1, R122, R123, R139). -/

namespace Sys2Proof.Machine

section Tenths

variable {s t u : State} {i : LineId} {low : Bool} {g : Segment} {n draws : Nat}

theorem putLine_fixturesOnly (i : LineId) (l : FixtureLine) (s : State) : FixturesOnly s (putLine i l s) := by
  cases i <;> rfl

theorem fillScanSlot_fixturesOnly (i : LineId) (s : State) : FixturesOnly s (fillScanSlot i s) := by
  rw [fillScanSlot_eq]
  split
  · exact putLine_fixturesOnly i _ s
  · rfl

theorem fillSlots_fixturesOnly (s : State) : FixturesOnly s (fillSlots s) :=
  (fillScanSlot_fixturesOnly .a s).trans (fillScanSlot_fixturesOnly .b _)

@[simp] theorem fillSlots_lums (s : State) : (fillSlots s).lums = s.lums :=
  (fillScanSlot_lums .b _).trans (fillScanSlot_lums .a s)

/-! ## The contact (R123) -/

/-- R123: two tenths in a row differ from the contact state. -/
abbrev ContactTurns (s : State) (low : Bool) : Prop := s.composer.shedPinLow = low ∧ s.composer.shedAsserted ≠ low

/-- R123: the composer after a tenth has taken the pin. -/
def pinTaken (low : Bool) (c : Composer) : Composer :=
  { c with shedAsserted := if c.shedPinLow = low ∧ c.shedAsserted ≠ low then low else c.shedAsserted, shedPinLow := low }

theorem contactChanges_iff : contactChanges low s.composer = true ↔ ContactTurns s low := by
  simp [contactChanges]

/-- R123: a changed contact, before the caps are computed again. -/
def contactTaken (low : Bool) (s : State) : State := flagFloor { s with composer := pinTaken low s.composer }

theorem takeShed_turns (h : ContactTurns s low) : takeShed low s = recomputeAllCaps (contactTaken low s) := by
  rw [takeShed, if_pos (contactChanges_iff.mpr h), contactTaken, pinTaken, if_pos h]

theorem takeShed_stands (h : ¬ContactTurns s low) : takeShed low s = { s with composer := pinTaken low s.composer } := by
  rw [takeShed, if_neg (mt contactChanges_iff.mp h), pinTaken, if_neg h]

/-- R123, R139: a tenth at which the contact stands. -/
theorem exec_tenth_stands (h : ¬ContactTurns s low) :
    exec (.tenth low) s = done (fillSlots { tickAll s with composer := pinTaken low s.composer }) := by
  have hsame : contactChanges low (tickAll s).composer = false := Bool.eq_false_iff.mpr (mt contactChanges_iff.mp h)
  have hstands : ¬ContactTurns (tickAll s) low := h
  simp only [exec, execTenth, hsame, Bool.false_and, Bool.false_eq_true, if_false, takeShed_stands hstands]
  rfl

/-- What a tenth at which the contact turns leaves: the caps computed again and the slots filled, in one order or the other. -/
inductive TurnedTenth (s : State) (low : Bool) : State → Prop
  | contactFirst (draws : Nat) : TurnedTenth s low (fillSlots (recomputeAllCaps (contactTaken low { tickAll s with draws := draws })))
  | slotsFirst (draws : Nat) : TurnedTenth s low (recomputeAllCaps (contactTaken low (fillSlots { tickAll s with draws := draws })))

theorem exec_tenth_turns (h : ContactTurns s low) : ∃ u, exec (.tenth low) s = done u ∧ TurnedTenth s low u := by
  have hdrawn (n : Nat) : ContactTurns { tickAll s with draws := n } low := h
  have hfilled (n : Nat) : ContactTurns (fillSlots { tickAll s with draws := n }) low := by
    obtain ⟨⟨_, _, _, hcomposer, _⟩, _⟩ := (fillSlots_fixturesOnly { tickAll s with draws := n }).same
    rw [ContactTurns, hcomposer]
    exact h
  simp only [exec, execTenth]
  split
  · rcases inEitherOrder_cases (takeShed low) fillSlots (tickAll s) with horder | horder
    · rw [horder, takeShed_turns (hdrawn _)]
      exact ⟨_, rfl, .contactFirst _⟩
    · rw [horder, takeShed_turns (hfilled _)]
      exact ⟨_, rfl, .slotsFirst _⟩
  · rw [takeShed_turns (s := tickAll s) h]
    exact ⟨_, rfl, .contactFirst s.draws⟩

/-! ## What a tenth leaves -/

/-- R1: everything that a tenth leaves, the segments and the fixtures apart. -/
structure Ticked (s : State) (low : Bool) (t : State) : Prop where
  composer : t.composer = pinTaken low s.composer
  time : t.time = tickTime s.time
  port : t.port = { s.port with floorChanged := s.port.floorChanged || decide (ContactTurns s low) }
  inputs : t.inputs = tabMap s.inputs tickInput
  overrides : t.overrides = s.overrides
  inputLine : t.inputLine = s.inputLine
  pending : t.pending = s.pending

theorem Ticked.fillSlots (h : Ticked s low t) : Ticked s low (fillSlots t) := by
  obtain ⟨⟨_, hinputs, hoverrides, hcomposer, hline, htime, hpending⟩, hport⟩ := (fillSlots_fixturesOnly t).same
  exact ⟨hcomposer.trans h.composer, htime.trans h.time, hport.trans h.port, hinputs.trans h.inputs, hoverrides.trans h.overrides,
    hline.trans h.inputLine, hpending.trans h.pending⟩

theorem Ticked.recomputeAllCaps (h : Ticked s low t) : Ticked s low (recomputeAllCaps t) := by
  obtain ⟨hinputs, ⟨hcomposer, hline, htime, hpending⟩, hport⟩ := (recomputeAllCaps_eventOnly t).same
  exact ⟨hcomposer.trans h.composer, htime.trans h.time, hport.trans h.port, hinputs.trans h.inputs,
    (recomputeAllCaps_overrides t).trans h.overrides, hline.trans h.inputLine, hpending.trans h.pending⟩

theorem ticked_contactTaken (h : ContactTurns s low) (hcomposer : t.composer = s.composer) (hport : t.port = s.port)
    (htime : t.time = tickTime s.time) (hinputs : t.inputs = tabMap s.inputs tickInput) (hoverrides : t.overrides = s.overrides)
    (hline : t.inputLine = s.inputLine) (hpending : t.pending = s.pending) : Ticked s low (contactTaken low t) := by
  refine ⟨congrArg (pinTaken low) hcomposer, htime, ?_, hinputs, hoverrides, hline, hpending⟩
  have hflagged : (s.port.floorChanged || decide (ContactTurns s low)) = true := by simp [h]
  rw [hflagged]
  exact congrArg (fun p : Port => { p with floorChanged := true }) hport

theorem TurnedTenth.ticked (h : ContactTurns s low) (hu : TurnedTenth s low u) : Ticked s low u := by
  cases hu with
  | contactFirst draws => exact (ticked_contactTaken (t := { tickAll s with draws := draws }) h rfl rfl rfl rfl rfl rfl rfl).recomputeAllCaps.fillSlots
  | slotsFirst draws =>
    obtain ⟨⟨_, hinputs, hoverrides, hcomposer, hline, htime, hpending⟩, hport⟩ :=
      (fillSlots_fixturesOnly { tickAll s with draws := draws }).same
    exact (ticked_contactTaken h hcomposer hport htime hinputs hoverrides hline hpending).recomputeAllCaps

/-- R122: the segments after a tenth at which the contact turns. -/
theorem TurnedTenth.segs (hu : TurnedTenth s low u) :
    ∃ v : State, v.segs = tabMap s.segs tickSeg ∧ v.composer = pinTaken low s.composer ∧ u.segs = (Machine.recomputeAllCaps v).segs := by
  cases hu with
  | contactFirst draws => exact ⟨contactTaken low { tickAll s with draws := draws }, rfl, rfl, fillSlots_segs _⟩
  | slotsFirst draws =>
    obtain ⟨_, _, _, hcomposer, _⟩ := (fillSlots_fixturesOnly { tickAll s with draws := draws }).same.1
    exact ⟨contactTaken low (Machine.fillSlots { tickAll s with draws := draws }), fillSlots_segs _,
      congrArg (pinTaken low) hcomposer, rfl⟩

theorem TurnedTenth.lums (hu : TurnedTenth s low u) (k : Nat) : (lum? u k).map lumSettings = (lum? s k).map lumSettings := by
  cases hu with
  | contactFirst draws =>
    rw [lum?, fillSlots_lums]
    exact (recomputeAllCaps_eventOnly (contactTaken low { tickAll s with draws := draws })).2.1 k
  | slotsFirst draws =>
    refine ((recomputeAllCaps_eventOnly (contactTaken low (Machine.fillSlots { tickAll s with draws := draws }))).2.1 k).trans ?_
    rw [lum?, show (contactTaken low (Machine.fillSlots { tickAll s with draws := draws })).lums = s.lums from fillSlots_lums _]
    rfl

theorem OnlyRecomposed.line (h : OnlyRecomposed s t) (i : LineId) : lineSettings (lineOf i t) = lineSettings (lineOf i s) := by
  cases i
  · exact h.2.1
  · exact h.2.2

/-- R139: the lines after a tenth at which the contact turns. -/
theorem TurnedTenth.line (hkeys : tabWf 128 s.lums) (hu : TurnedTenth s low u) (i : LineId) :
    lineSettings (lineOf i u) = lineSettings (if (slotPick i s).isSome then filledLine i s else lineOf i s) := by
  cases hu with
  | contactFirst draws =>
    have hline : lineOf i (contactTaken low { tickAll s with draws := draws }) = lineOf i s := by cases i <;> rfl
    have hsettings := (recomputeAllCaps_eventOnly (contactTaken low { tickAll s with draws := draws })).2.line i
    have hpick := slotPick_of_stands (s := contactTaken low { tickAll s with draws := draws }) hkeys (recomputeAllCaps_scansStand _)
      hsettings
    rw [slotPick_congr (s := s) hline rfl] at hpick
    rw [hline] at hsettings
    rw [lineOf_fillSlots, filledLine, hpick]
    split
    · rw [lineSettings_chooseFrame]
      obtain ⟨hstate, _⟩ := state_mark_of_settings hsettings
      exact congrArg (fun l : FixtureLine => { l with slot := none, mark := (slotPick i s).map keyAddress }) hsettings
    · exact hsettings
  | slotsFirst draws =>
    refine ((recomputeAllCaps_eventOnly (contactTaken low (Machine.fillSlots { tickAll s with draws := draws }))).2.line i).trans ?_
    have hline : lineOf i (contactTaken low (Machine.fillSlots { tickAll s with draws := draws }))
        = lineOf i (Machine.fillSlots { tickAll s with draws := draws }) := by cases i <;> rfl
    have hticked : lineOf i { tickAll s with draws := draws } = lineOf i s := by cases i <;> rfl
    rw [hline, lineOf_fillSlots, slotPick_congr (s := s) hticked rfl, filledLine, slotPick_congr (s := s) hticked rfl, hticked]
    split
    · rw [lineSettings_chooseFrame]
      rfl
    · rfl

end Tenths

end Sys2Proof.Machine
end

section
/-! SUPPORT. A tenth, record by record (R1, R68, R87, R122, R123, R139). -/

namespace Sys2Proof.Machine

section TenthRecords

variable {s t u v : State} {i a : Nat} {low : Bool} {g : Segment} {n : Input}

/-- R1: an input one tenth on. -/
theorem tickInput_fields (n : Input) :
    (tickInput n).pollTimer = n.pollTimer.map (· - 1)
      ∧ { tickInput n with pollTimer := none, device := n.device } = { n with pollTimer := none }
      ∧ (∀ c m, n.device = .photo c m →
          (tickInput n).device = .photo c { m with quarantineTimer := m.quarantineTimer.map (· - 1) })
      ∧ (deviceKind n.device ≠ .photo → (tickInput n).device = n.device) := by
  refine ⟨rfl, rfl, fun c m hd => ?_, fun hkind => ?_⟩
  · unfold tickInput
    rw [hd]
    rfl
  · unfold tickInput
    cases hd : n.device with
    | photo c m =>
      rw [hd] at hkind
      exact absurd rfl hkind
    | presence coverage last => rfl
    | station scope hold button sequence => rfl

theorem input?_ticked (h : t.inputs = tabMap s.inputs tickInput) (hn : input? s a = some n) : input? t a = some (tickInput n) := by
  rw [input?, h, tabGet_map]
  exact congrArg (Option.map tickInput) hn

theorem seg?_ticked (h : t.segs = tabMap s.segs tickSeg) (i : Nat) : seg? t i = (seg? s i).map tickSeg := by
  rw [seg?, h, tabGet_map]
  rfl

/-- R122: what a changed contact leaves of a segment one tenth on. -/
theorem turned_seg (hv : v.segs = tabMap s.segs tickSeg) (hu : u.segs = (recomputeAllCaps v).segs) (ht : TablesOk s) (hh : HarvestOk s)
    (hg : seg? s i = some g) :
    let cap := effectiveCap v.composer g.cfg.cap
    (∃ w ∈ seg? u i, w.effCap = cap
      ∧ { w with effCap := g.effCap, h := g.h, ctl := g.ctl, offTimer := g.offTimer, stepTimer := g.stepTimer }
        = { tickSeg g with offTimer := g.offTimer, stepTimer := g.stepTimer })
    ∧ (g.cfg.outer = none → g.h ≤ cap ∨ g.cfg.mode = .manual → seg? u i = some { tickSeg g with effCap := cap })
    ∧ (∀ o ∈ g.cfg.outer, ∀ w ∈ seg? s o, w.cfg.mode = .harvest → w.cfg.outer = none → w.h ≤ effectiveCap v.composer w.cfg.cap →
        g.cfg.mode = .harvest → g.h ≤ cap → g.effCap < cap →
        seg? u i = some (afterRaise w.h { tickSeg g with effCap := cap }))
    ∧ ((∀ e ∈ s.segs, effectiveCap v.composer e.2.cfg.cap ≤ e.2.effCap) → g.cfg.mode = .harvest → cap < g.h →
        seg? u i = some (capClamped cap { tickSeg g with effCap := cap })) := by
  intro cap
  have hread (j : Nat) : seg? u j = seg? (recomputeAllCaps v) j := by rw [seg?, hu, seg?]
  have hkeys : tabWf 32 v.segs := by
    rw [hv]
    exact (tabBy_map (R := fun _ _ => True) (fun _ => trivial) s.segs).keepsTabWf ht.2.1
  have hticked : seg? v i = some (tickSeg g) := by rw [seg?_ticked hv, hg, Option.map_some]
  have hlevel (hm : g.cfg.mode = .harvest) : (tickSeg g).h ≤ (tickSeg g).effCap :=
    show g.h ≤ g.effCap from hh.level_le hg hm
  rw [hread]
  refine ⟨?_, fun hnone hfits => recomputeAllCaps_unlinked hkeys hticked hnone hfits, fun o ho w hw hwm hnone hfits hm hle hrise => ?_,
    fun hfall hm hlow => ?_⟩
  · obtain ⟨w, hw, hrecapped, heff⟩ := recomputeAllCaps_recaps hkeys hticked
    exact ⟨w, hw, heff, congrArg (fun x : Segment => { x with offTimer := g.offTimer, stepTimer := g.stepTimer }) hrecapped⟩
  · have hw' : seg? v o = some (tickSeg w) := by rw [seg?_ticked hv, hw, Option.map_some]
    have hrecord := recomputeAllCaps_underFree hkeys hticked ho hw' hwm hnone hfits hm (hlevel hm)
    exact hrecord.trans (congrArg some ((if_neg (Nat.not_lt.mpr hle)).trans (if_pos hrise)))
  · refine recomputeAllCaps_clamped hkeys hticked (fun e he => ?_) hm (hlevel hm) hlow
    rw [hv] at he
    obtain ⟨x, hx, rfl⟩ := List.mem_map.mp he
    exact hfall x hx

/-- Settles O45: the countdowns, and the contact that turns or stands. -/
theorem tenthCountsAndSamples : Obligations.TenthCountsAndSamples := by
  intro s low changes tick ticked pick filled c
  have hpick (i : LineId) : slotPick i s = pick i := rfl
  by_cases hturns : ContactTurns s low
  · obtain ⟨u, hexec, hturned⟩ := exec_tenth_turns hturns
    have h := hturned.ticked hturns
    obtain ⟨v, hvsegs, hvcomposer, husegs⟩ := hturned.segs
    refine ⟨_, hexec, h.composer, h.time, ?_, fun a n hn => ?_, fun hstands => absurd hturns hstands, fun _ ht hh => ⟨?_, ?_, ?_⟩,
      h.overrides, h.inputLine, h.pending⟩
    · exact congrArg (fun p : Port => { p with attn := attnLevel u }) h.port
    · exact ⟨tickInput n, input?_ticked h.inputs hn, tickInput_fields n⟩
    · intro i g hg cap
      have hrecord := turned_seg hvsegs husegs ht hh hg
      rw [hvcomposer] at hrecord
      obtain ⟨hframe, hunlinked, hraised, hclamped⟩ := hrecord
      refine ⟨hframe, hunlinked, hraised, fun hfall hm hlow => (hclamped hfall hm hlow).trans (congrArg some ?_)⟩
      rw [capClamped_eq]
      rfl
    · exact hturned.lums
    · intro i
      have hline := hturned.line ht.1 i
      rw [lineOf_withAttn]
      exact hline
  · have hu := fillSlots_fixturesOnly { tickAll s with composer := pinTaken low s.composer }
    obtain ⟨⟨hsegs, hinputs, hoverrides, hcomposer, hline, htime, hpending⟩, hport⟩ := hu.same
    refine ⟨_, exec_tenth_stands hturns, hcomposer, htime, ?_, fun a n hn => ?_, fun _ => ⟨seg?_ticked hsegs, fillSlots_lums _, ?_⟩,
      fun hyes => absurd hyes hturns, hoverrides, hline, hpending⟩
    · have hflag : (s.port.floorChanged || decide changes) = s.port.floorChanged := by
        rw [decide_eq_false hturns, Bool.or_false]
      rw [hflag]
      exact congrArg (fun p : Port => { p with attn := attnLevel (fillSlots { tickAll s with composer := pinTaken low s.composer }) }) hport
    · exact ⟨tickInput n, input?_ticked hinputs hn, tickInput_fields n⟩
    · intro i
      have hsame : lineOf i { tickAll s with composer := pinTaken low s.composer } = lineOf i s := by cases i <;> rfl
      rw [lineOf_withAttn, lineOf_fillSlots, filledLine, slotPick_congr (s := s) hsame rfl, hsame]
      rfl

end TenthRecords

end Sys2Proof.Machine
end

section
/-! SUPPORT. The override list as PLACE OVERRIDE and the stations leave it (R102, R104 to R107, R113), and its operands (R105). -/

namespace Sys2Proof.Machine

section Lists

variable {l : List Override} {L : OverrideList} {d o r : Override} {origin : Origin} {cls : OvClass} {scope : Scope}
  {action : OvAction} {hold : Option Nat} {s : State} {j k : Nat} {g u : Segment}

/-! ## Operands -/

theorem actionOf_set (v : Int) :
    actionOf 1 v = some (.set (if v < 0 then 0 else min v.toNat 1000), decide (v < 0 ∨ 1000 < v)) := by
  have hvalue : (max 0 (min 1000 v)).toNat = if v < 0 then 0 else min v.toNat 1000 := by split <;> omega
  have hclamped : (((max 0 (min 1000 v)).toNat : Int) != v) = decide (v < 0 ∨ 1000 < v) := by
    rw [Bool.eq_iff_iff, bne_iff_ne, decide_eq_true_eq]
    omega
  simp only [actionOf, hvalue, ← hclamped]

theorem actionOf_nudge (v : Int) :
    actionOf 2 v = some (.nudge (if v < -500 then -500 else if 500 < v then 500 else v), decide (v < -500 ∨ 500 < v)) := by
  have hvalue : max (-500) (min 500 v) = if v < -500 then -500 else if 500 < v then 500 else v := by split_ifs <;> omega
  have hclamped : (max (-500) (min 500 v) != v) = decide (v < -500 ∨ 500 < v) := by
    rw [Bool.eq_iff_iff, bne_iff_ne, decide_eq_true_eq]
    omega
  simp only [actionOf, ← hvalue, ← hclamped]

theorem holdOf_eq (cls : OvClass) (h : Nat) :
    holdOf cls h =
      if h = 65535 then (if cls = .facility then (none, false) else (some 720, true))
      else (some (max 1 (min h 720)), decide (h = 0 ∨ 720 < h)) := by
  unfold holdOf
  by_cases hnone : h = 65535
  · rw [if_pos hnone, if_pos hnone]
    cases cls <;> rfl
  · rw [if_neg hnone, if_neg hnone]
    have hclamped : (clampTo 1 720 h != h) = decide (h = 0 ∨ 720 < h) := by
      rw [Bool.eq_iff_iff, bne_iff_ne, decide_eq_true_eq, clampTo]
      omega
    rw [hclamped]
    rfl

theorem classOf_isSome (n : Nat) : (classOf n).isSome = decide (n ≤ 1) := by
  unfold classOf
  split
  · rfl
  · rfl
  · rename_i h0 h1
    have hge : ¬n ≤ 1 := by
      have : n ≠ 0 := h0
      have : n ≠ 1 := h1
      omega
    rw [decide_eq_false hge]
    rfl

theorem actionOf_isSome (n : Nat) (v : Int) : (actionOf n v).isSome = decide (1 ≤ n ∧ n ≤ 3) := by
  unfold actionOf
  split
  · rfl
  · rfl
  · rfl
  · rename_i h1 h2 h3
    have hout : ¬(1 ≤ n ∧ n ≤ 3) := by
      have : n ≠ 1 := h1
      have : n ≠ 2 := h2
      have : n ≠ 3 := h3
      omega
    rw [decide_eq_false hout]
    rfl

/-! ## The front of a class -/

theorem isFacility_eq (o : Override) : isFacility o = (o.cls == .facility) := rfl

theorem not_isFacility (o : Override) : (!isFacility o) = (o.cls == .occupant) := by
  unfold isFacility
  cases o.cls <;> rfl

/-- R102: in a list of FACILITY records before OCCUPANT records, the former lead. -/
theorem takeWhile_isFacility (h : l.Pairwise fun p q => p.cls = .facility ∨ q.cls = .occupant) :
    l.takeWhile isFacility = l.filter (fun p => p.cls == .facility)
      ∧ l.dropWhile isFacility = l.filter fun p => p.cls == .occupant := by
  induction l with
  | nil => exact ⟨rfl, rfl⟩
  | cons p l ih =>
    obtain ⟨hhead, htail⟩ := List.pairwise_cons.mp h
    obtain ⟨htake, hdrop⟩ := ih htail
    cases hp : p.cls with
    | facility =>
      have hfac : isFacility p = true := by rw [isFacility, hp]; rfl
      rw [List.takeWhile_cons_of_pos hfac, List.dropWhile_cons_of_pos hfac, htake, hdrop]
      simp [hp]
    | occupant =>
      have hocc : ¬isFacility p = true := by rw [isFacility, hp]; decide
      have hall : ∀ q ∈ l, q.cls = .occupant := fun q hq => (hhead q hq).resolve_left (by rw [hp]; decide)
      rw [List.takeWhile_cons_of_neg hocc, List.dropWhile_cons_of_neg hocc]
      refine ⟨?_, ?_⟩
      · symm
        refine List.filter_eq_nil_iff.mpr fun q hq => ?_
        rcases List.mem_cons.mp hq with rfl | hq
        · simp [hp]
        · simp [hall q hq]
      · symm
        refine List.filter_eq_self.mpr fun q hq => ?_
        rcases List.mem_cons.mp hq with rfl | hq
        · simp [hp]
        · simp [hall q hq]

theorem insertFront_eq (o : Override) (h : l.Pairwise fun p q => p.cls = .facility ∨ q.cls = .occupant) :
    insertFront o l =
      if o.cls = .facility then o :: l
      else l.filter (fun p => p.cls == .facility) ++ o :: l.filter fun p => p.cls == .occupant := by
  obtain ⟨htake, hdrop⟩ := takeWhile_isFacility h
  unfold insertFront
  cases o.cls with
  | facility => rfl
  | occupant => rw [htake, hdrop]; rfl

/-! ## The record displaced (R107) -/

theorem lastOccupant_eq (l : List Override) : lastOccupant l = l.reverse.find? fun o => o.cls == .occupant := by
  unfold lastOccupant
  exact congrArg (fun p => l.reverse.find? p) (funext not_isFacility)

theorem lastOccupant_none_iff : lastOccupant l = none ↔ ∀ o ∈ l, o.cls = .facility := by
  rw [lastOccupant, List.find?_eq_none]
  refine forall_congr' fun o => ?_
  rw [List.mem_reverse]
  refine imp_congr Iff.rfl ?_
  simp [isFacility]

theorem roomyList_of_lt (h : L.records.length < 24) : roomyList L = L := if_pos h

theorem roomyList_full (h : L.records.length = 24) (hd : lastOccupant L.records = some d) :
    roomyList L =
      { L with records := L.records.filter fun o => o.handle != d.handle, changed := true } := by
  have hany : (L.records.any fun o => o.handle == d.handle) = true :=
    List.any_eq_true.mpr ⟨d, mem_of_lastOccupant hd, beq_self_eq_true _⟩
  have hfull : ¬L.records.length < Config.overrideRoom := by rw [h]; decide
  rw [roomyList, if_neg hfull, hd]
  simp only [listWithout, hany, Bool.and_self, Bool.or_true]
  rfl

/-- R102: the record of an origin and a scope, where a list holds one. -/
theorem findRecord_of_mem (ho : o ∈ l) (horigin : o.origin = origin) (hscope : o.scope = scope)
    (honly : ∀ r ∈ l, r.origin = origin → r.scope = scope → r = o) : findRecord origin scope l = some o := by
  cases hfind : findRecord origin scope l with
  | none =>
    have hno := List.find?_eq_none.mp hfind o ho
    simp [horigin, hscope] at hno
  | some r =>
    obtain ⟨hr, hro, hrs⟩ := findRecord_some hfind
    rw [honly r hr hro hrs]

theorem findRecord_insertFront (horigin : o.origin = origin) (hscope : o.scope = scope)
    (hnone : ∀ r ∈ l, ¬(r.origin = origin ∧ r.scope = scope)) : findRecord origin scope (insertFront o l) = some o := by
  have hperm := insertFront_perm o l
  refine findRecord_of_mem (hperm.mem_iff.mpr (List.mem_cons_self ..)) horigin hscope fun r hr hro hrs => ?_
  rcases List.mem_cons.mp (hperm.mem_iff.mp hr) with rfl | hr
  · rfl
  · exact absurd ⟨hro, hrs⟩ (hnone r hr)

end Lists

end Sys2Proof.Machine
end

section
/-! SUPPORT. PLACE OVERRIDE (R105 to R108). -/

namespace Sys2Proof.Machine

section Placing

variable {s t : State} {j : Nat} {g u v : Segment} {origin : Origin} {cls : OvClass} {scope : Scope} {action : OvAction}
  {hold : Option Nat} {body : List Byte} {p : Override → Bool} {flag : Bool} {d r : Override}

/-! ## The segments (R118, R64) -/

/-- R64, R65: a record as it was, but for the held flag and the two timers that it stops. -/
abbrev HeldOnly (g u : Segment) : Prop := { u with held := g.held, offTimer := g.offTimer, shortTimer := g.shortTimer } = g

theorem HeldOnly.trans (h : HeldOnly g u) (k : HeldOnly u v) : HeldOnly g v := by
  rw [← h, ← k]

theorem HeldOnly.fields (h : HeldOnly g u) :
    (u.cfg = g.cfg ∧ u.h = g.h ∧ u.ctl = g.ctl ∧ u.changed = g.changed)
      ∧ u.activity = g.activity ∧ u.holdTimer = g.holdTimer ∧ u.setbackTimer = g.setbackTimer := by
  rw [← h]
  exact ⟨⟨rfl, rfl, rfl, rfl⟩, rfl, rfl, rfl⟩

theorem heldAgain_heldOnly (s : State) (j : Nat) (g : Segment) : HeldOnly g (heldAgain s j g) := by
  unfold heldAgain
  split <;> rfl

theorem seg?_retireRecords_heldOnly (hg : seg? s j = some g) :
    ∃ u, seg? (retireRecords p flag s) j = some u ∧ HeldOnly g u := by
  rw [seg?_retireRecords, hg, Option.map_some]
  split
  · exact ⟨_, rfl, heldAgain_heldOnly _ j g⟩
  · exact ⟨g, rfl, rfl⟩

theorem makeRoom_eq (s : State) :
    makeRoom s =
      if s.overrides.records.length < 24 then s
      else ((lastOccupant s.overrides.records).map fun d => retireRecords (fun o => o.handle == d.handle) true s).getD s := by
  unfold makeRoom
  refine ite_congr rfl (fun _ => rfl) fun _ => ?_
  cases lastOccupant s.overrides.records <;> rfl

theorem seg?_makeRoom (hg : seg? s j = some g) : ∃ u, seg? (makeRoom s) j = some u ∧ HeldOnly g u := by
  rw [makeRoom_eq]
  split
  · exact ⟨g, hg, rfl⟩
  · cases lastOccupant s.overrides.records with
    | none => exact ⟨g, hg, rfl⟩
    | some d => exact seg?_retireRecords_heldOnly hg

/-- R64: a segment that a record of the list names is held. -/
theorem heldAgain_named (hr : r ∈ s.overrides.records) (g : Segment) : (heldAgain s r.scope.segment g).held = true := by
  have hheld : isHeld s r.scope.segment g = true := by
    rw [isHeld_eq, Bool.or_eq_true]
    exact .inr (List.any_eq_true.mpr ⟨r, hr, beq_self_eq_true _⟩)
  unfold heldAgain
  split
  · rfl
  · exact hheld

/-- R104, R107: a new record holds the segment that it names. -/
theorem seg?_createRecord (hg : seg? s j = some g) :
    ∃ u, seg? (createRecord origin cls scope action hold s) j = some u ∧ HeldOnly g u ∧ (j = scope.segment → u.held = true) := by
  unfold createRecord
  dsimp only
  rw [seg?_recomputeHeld]
  by_cases hj : j = scope.segment
  · subst hj
    rw [if_pos rfl, show ∀ l, seg? (putOverrides l s) scope.segment = some g from fun _ => hg, Option.map_some]
    refine ⟨_, rfl, heldAgain_heldOnly _ _ g, fun _ => ?_⟩
    refine heldAgain_named (r := ⟨freeHandle s.overrides.records 25 s.overrides.counter, origin, cls, scope, action, hold⟩) ?_ g
    exact (insertFront_perm _ _).mem_iff.mpr (List.mem_cons_self ..)
  · rw [if_neg hj]
    exact ⟨g, hg, rfl, fun h => absurd h hj⟩

/-- R106, R107: what a record placed leaves of a segment. -/
theorem seg?_placeRecord (hg : seg? s j = some g) :
    ∃ u, seg? (placeRecord origin cls scope action hold s) j = some u ∧ HeldOnly g u
      ∧ (findRecord origin scope s.overrides.records = none → j = scope.segment → u.held = true) := by
  unfold placeRecord
  cases findRecord origin scope s.overrides.records with
  | some r => exact ⟨g, hg, rfl, nofun⟩
  | none =>
    obtain ⟨v, hv, hroom⟩ := seg?_makeRoom hg
    obtain ⟨u, hu, hkept, hheld⟩ := seg?_createRecord (origin := origin) (cls := cls) (scope := scope) (action := action) (hold := hold) hv
    exact ⟨u, hu, hroom.trans hkept, fun _ => hheld⟩

/-- R107, R118: the segments that neither the record placed nor the one displaced names are left alone. -/
theorem seg?_placeRecord_other (hs : OverridesOk s) (hj : j ≠ scope.segment)
    (hlast : (lastOccupant s.overrides.records).map (·.scope.segment) ≠ some j) :
    seg? (placeRecord origin cls scope action hold s) j = seg? s j := by
  unfold placeRecord
  cases findRecord origin scope s.overrides.records with
  | some r => rfl
  | none =>
    dsimp only [createRecord]
    rw [seg?_recomputeHeld, if_neg hj]
    change seg? (makeRoom s) j = seg? s j
    rw [makeRoom_eq]
    split
    · rfl
    · cases hd : lastOccupant s.overrides.records with
      | none => rfl
      | some d =>
        refine seg?_retireRecords_other fun o ho hhandle hoj => hlast ?_
        rw [hd, Option.map_some, ← eq_of_handle_eq hs (mem_of_lastOccupant hd) ho (beq_iff_eq.mp hhandle), hoj]

/-! ## The request -/

theorem placeOverride_fits_iff (body : List Byte) (s : State) :
    (byteAt body 1 ≤ 31 ∧ (seg? s (byteAt body 1)).isSome = true ∧ byteAt body 2 ≤ byteAt body 3
      ∧ byteAt body 3 ≤ 15 ∧ byteAt body 0 ≤ 1 ∧ 1 ≤ byteAt body 4 ∧ byteAt body 4 ≤ 3) ↔
      scopeOk s ⟨byteAt body 1, byteAt body 2, byteAt body 3⟩ = true ∧ (classOf (byteAt body 0)).isSome = true
        ∧ (actionOf (byteAt body 4) (signed2 (word2At body 5))).isSome = true := by
  rw [scopeOk_iff, classOf_isSome, actionOf_isSome, decide_eq_true_eq, decide_eq_true_eq]
  tauto

theorem exec_placeOverride_bad
    (h : body.length < 9 ∨ ¬(scopeOk s ⟨byteAt body 1, byteAt body 2, byteAt body 3⟩ = true ∧ (classOf (byteAt body 0)).isSome = true
        ∧ (actionOf (byteAt body 4) (signed2 (word2At body 5))).isSome = true)) :
    exec (.placeOverride body) s = deny .badField 0x50 s := by
  simp only [exec, execPlaceOverride]
  by_cases hlen : body.length < 9
  · rw [if_pos hlen]
  · rw [if_neg hlen]
    have hbad := h.resolve_left hlen
    by_cases hscope : scopeOk s ⟨byteAt body 1, byteAt body 2, byteAt body 3⟩ = true
    · simp only [hscope, Bool.not_true, Bool.false_eq_true, if_false]
      cases hc : classOf (byteAt body 0) with
      | none => rfl
      | some cls =>
        cases ha : actionOf (byteAt body 4) (signed2 (word2At body 5)) with
        | none => rfl
        | some a => exact absurd ⟨hscope, by rw [hc]; rfl, by rw [ha]; rfl⟩ hbad
    · simp only [hscope, Bool.not_false, if_true]

theorem exec_placeOverride (hlen : 9 ≤ body.length) (hscope : scopeOk s ⟨byteAt body 1, byteAt body 2, byteAt body 3⟩ = true)
    (hcls : classOf (byteAt body 0) = some cls) {a : OvAction × Bool}
    (ha : actionOf (byteAt body 4) (signed2 (word2At body 5)) = some a) :
    exec (.placeOverride body) s =
      if (findRecord .floor ⟨byteAt body 1, byteAt body 2, byteAt body 3⟩ s.overrides.records).isNone
          && listRefuses s.overrides.records then deny .full 0x50 s
      else
        done (answer (okOr (a.2 || (holdOf cls (word2At body 7)).2)) 0x50
          (placeAnswer ⟨byteAt body 1, byteAt body 2, byteAt body 3⟩ s
            (event (placeFloor cls ⟨byteAt body 1, byteAt body 2, byteAt body 3⟩ a.1 (holdOf cls (word2At body 7)).1) s))
          (event (placeFloor cls ⟨byteAt body 1, byteAt body 2, byteAt body 3⟩ a.1 (holdOf cls (word2At body 7)).1) s)) := by
  simp only [exec, execPlaceOverride, if_neg (Nat.not_lt.mpr hlen), hscope, hcls, ha, Bool.not_true, Bool.false_eq_true, if_false]

/-- R105 check 4: a list is full for a new record where it has room for none and no OCCUPANT record. -/
theorem listRefuses_iff {l : List Override} : listRefuses l = true ↔ 24 ≤ l.length ∧ ∀ o ∈ l, o.cls = .facility := by
  rw [listRefuses, Bool.and_eq_true, Option.isNone_iff_eq_none, lastOccupant_none_iff, Bool.not_eq_true', decide_eq_false_iff_not,
    Nat.not_lt]
  rfl

end Placing

end Sys2Proof.Machine
end

section
/-! SUPPORT. PLACE OVERRIDE (R105 to R108): the list, the answer and the segments after a record is placed. -/

namespace Sys2Proof.Machine

/-- R108: the motion that an OCCUPANT placement gives, before its record enters. -/
def floorMotion (cls : OvClass) (i : Nat) (s : State) : State := if cls = .occupant then motion true i s else s

section Placed

variable {s t : State} {L : OverrideList} {j : Nat} {g u : Segment} {origin : Origin} {cls : OvClass} {scope : Scope}
  {action : OvAction} {hold : Option Nat} {body : List Byte} {d : Override} {old last : Option Override}

/-- R107: the list in which a record is placed, a full one without the record displaced. -/
def placingRoom (old last : Option Override) (l : List Override) : List Override :=
  if old = none ∧ l.length = 24 then l.filter fun o => some o.handle != last.map (·.handle) else l

/-- R107: the handle of the record displaced, or 0. -/
def placingDisplaced (old last : Option Override) (l : List Override) : Nat :=
  if old = none ∧ l.length = 24 then (last.map (·.handle)).getD 0 else 0

/-- R106, R107: the record placed. -/
def placedRecord (origin : Origin) (cls : OvClass) (scope : Scope) (action : OvAction) (hold : Option Nat)
    (old : Option Override) (h : Nat) : Override :=
  { handle := (old.map (·.handle)).getD h, origin := origin, cls := cls, scope := scope, action := action, hold := hold }

/-- R106, R107: the list with a record placed, refresh and creation alike. -/
theorem listPlaced_eq (h : ListLaws L) (hold' : findRecord origin scope L.records = old) (hlast : lastOccupant L.records = last)
    (hroom : old = none → L.records.length = 24 → last ≠ none) :
    let room := placingRoom old last L.records
    let free := freeHandle room 25 L.counter
    listPlaced origin cls scope action hold L =
      { records := insertFront (placedRecord origin cls scope action hold old free)
          (room.filter fun o => some o.handle != old.map (·.handle))
        counter := if old = none then handleAfter free else L.counter
        changed := L.changed || placingDisplaced old last L.records != 0 } := by
  intro room free
  subst hlast
  unfold listPlaced
  cases old with
  | some r =>
    obtain ⟨_, rfl, rfl⟩ := findRecord_some hold'
    rw [hold']
    have hkept : room = L.records := if_neg fun h => nomatch h.1
    have hnone : placingDisplaced (some r) (lastOccupant L.records) L.records = 0 := if_neg fun h => nomatch h.1
    rw [hkept, hnone]
    simp only [listRefreshed, Option.map_some, reduceCtorEq, if_false, bne_self_eq_false, Bool.or_false, placedRecord,
      Option.getD_some]
    congr 2
  | none =>
    rw [hold']
    dsimp only [listWithNew]
    have hall : (room.filter fun o => some o.handle != (none : Option Override).map (·.handle)) = room :=
      List.filter_eq_self.mpr fun o _ => rfl
    rw [hall]
    by_cases hfull : L.records.length = 24
    · obtain ⟨d, hd⟩ := Option.ne_none_iff_exists'.mp (hroom rfl hfull)
      have hleft : room = L.records.filter fun o => o.handle != d.handle := by
        refine (if_pos ⟨rfl, hfull⟩).trans ?_
        rw [hd]
        refine List.filter_congr fun o _ => ?_
        rw [Bool.eq_iff_iff]
        simp
      have hdisplaced : placingDisplaced none (lastOccupant L.records) L.records = d.handle := by
        refine (if_pos ⟨rfl, hfull⟩).trans ?_
        rw [hd]
        rfl
      have hpos : d.handle ≠ 0 := by
        obtain ⟨hhandle, _⟩ := recordOk_iff.mp (h.2.2.2.2.1 d (mem_of_lastOccupant hd))
        omega
      have hflag : (L.changed || d.handle != 0) = true := by simp [hpos]
      rw [roomyList_full hfull hd, ← hleft, hdisplaced, hflag]
      rfl
    · have hlt : L.records.length < 24 := lt_of_le_of_ne h.1 hfull
      have hleft : room = L.records := if_neg fun h => hfull h.2
      have hdisplaced : placingDisplaced none (lastOccupant L.records) L.records = 0 := if_neg fun h => hfull h.2
      rw [roomyList_of_lt hlt, hdisplaced]
      simp only [bne_self_eq_false, Bool.or_false]
      rw [← hleft]
      rfl

/-- R104: the handle of a new record is free. -/
theorem placingRoom_free (h : ListLaws L) (last : Option Override) :
    ∀ o ∈ placingRoom none last L.records, o.handle ≠ freeHandle (placingRoom none last L.records) 25 L.counter := by
  have hle : (placingRoom none last L.records).length ≤ 24 := by
    unfold placingRoom
    split
    · exact (List.length_filter_le _ _).trans h.1
    · exact h.1
  obtain ⟨_, _, _, _, _, hpos, hmax⟩ := h
  exact freeHandle_free hle hpos hmax

/-- R102: the record placed is the one of its origin and scope. -/
theorem findRecord_placed (h : ListLaws L) (hfound : findRecord origin scope L.records = old) (last : Option Override) (n : Nat) :
    findRecord origin scope (insertFront (placedRecord origin cls scope action hold old n)
        ((placingRoom old last L.records).filter fun o => some o.handle != old.map (·.handle)))
      = some (placedRecord origin cls scope action hold old n) := by
  refine findRecord_insertFront rfl rfl fun r hr ⟨horigin, hscope⟩ => ?_
  obtain ⟨hr, hne⟩ := List.mem_filter.mp hr
  have hmem : r ∈ L.records := by
    unfold placingRoom at hr
    split at hr
    · exact List.mem_of_mem_filter hr
    · exact hr
  cases old with
  | none => exact findRecord_none hfound r hmem ⟨horigin.symm, hscope.symm⟩
  | some o =>
    obtain ⟨ho, hoo, hos⟩ := findRecord_some hfound
    have hdiffers : r ≠ o := by
      rintro rfl
      simp at hne
    obtain ⟨_, hkeys, _⟩ := h
    exact (pairwise_of_mem (fun _ _ hab hba => hab ⟨hba.1.symm, hba.2.symm⟩) hkeys hmem ho hdiffers :)
      ⟨horigin.trans hoo.symm, hscope.trans hos.symm⟩

/-- R107: the answer's displaced handle. -/
theorem displacedHandle_eq (h : ListLaws L) :
    (if (old).isSome then 0 else displacedHandle L.records) = placingDisplaced old (lastOccupant L.records) L.records := by
  unfold placingDisplaced displacedHandle
  cases old with
  | some r => exact (if_neg fun hboth : some r = none ∧ L.records.length = 24 => nomatch hboth.1).symm
  | none =>
    rw [Option.isSome_none, if_neg Bool.false_ne_true]
    by_cases hfull : L.records.length = 24
    · rw [if_pos (And.intro rfl hfull), hfull]
      rfl
    · rw [if_neg fun hboth : (none : Option Override) = none ∧ L.records.length = 24 => hfull hboth.2, if_pos (show L.records.length < Config.overrideRoom from lt_of_le_of_ne h.1 hfull)]

theorem placeFloor_eq (cls : OvClass) (scope : Scope) (action : OvAction) (hold : Option Nat) (s : State) :
    placeFloor cls scope action hold s = placeRecord .floor cls scope action hold (floorMotion cls scope.segment s) := by
  cases cls <;> rfl

theorem floorMotion_list (cls : OvClass) (i : Nat) (s : State) : (floorMotion cls i s).overrides = s.overrides := by
  unfold floorMotion
  split
  · exact motion_list true i s
  · rfl

theorem seg?_floorMotion_other (cls : OvClass) {i : Nat} (hj : j ≠ i) : seg? (floorMotion cls i s) j = seg? s j := by
  unfold floorMotion
  split
  · rw [seg?_motion, if_neg hj]
  · rfl

/-- R92, R108: the segment after that motion, which sets no change flag (R4). -/
theorem seg?_floorMotion (cls : OvClass) (hg : seg? s j = some g) :
    ∃ v, seg? (floorMotion cls j s) j = some v
      ∧ (v.cfg = g.cfg ∧ v.h = g.h ∧ v.ctl = g.ctl ∧ v.changed = g.changed)
      ∧ (cls = .occupant → g.cfg.sensing = true →
          v.activity = .occupied ∧ v.holdTimer = some (g.cfg.occupancyHold * 600) ∧ v.setbackTimer = none) := by
  unfold floorMotion
  by_cases hocc : cls = .occupant
  · rw [if_pos hocc, seg?_motion, if_pos rfl, hg, Option.map_some]
    refine ⟨_, rfl, ?_⟩
    by_cases hsensing : g.cfg.sensing = true
    · have hflag : activityFlag true g = g.changed := by simp [activityFlag]
      obtain ⟨⟨hcfg, hh, hctl, hchanged⟩, hactivity, hhold, hsetback⟩ := (heldAgain_heldOnly s j (occupiedSeg true g)).fields
      rw [motionSeg, if_pos hsensing]
      exact ⟨⟨hcfg, hh, hctl, hchanged.trans hflag⟩, fun _ _ => ⟨hactivity, hhold, hsetback⟩⟩
    · rw [motionSeg, if_neg hsensing]
      exact ⟨⟨rfl, rfl, rfl, rfl⟩, fun _ h => absurd h hsensing⟩
  · rw [if_neg hocc]
    exact ⟨g, hg, ⟨rfl, rfl, rfl, rfl⟩, fun h => absurd h hocc⟩

/-- Settles O38: the operands, the front of a class, the refusals, and the record placed. -/
theorem placeOverridePlacesTheRecord : Obligations.PlaceOverridePlacesTheRecord := by
  refine ⟨fun v => ⟨actionOf_set v, actionOf_nudge v, rfl⟩, holdOf_eq, fun o l h => insertFront_eq o h, fun s body => ?_⟩
  intro scope l old last fits refuses
  have hlast : lastOccupant l.records = last := lastOccupant_eq l.records
  refine ⟨fun h => ?_, fun hlen hfits hnone hfull hall => ?_, fun ht hs hlen hscope cls hcls a ha hroom => ?_⟩
  · exact refused_of_deny (exec_placeOverride_bad (h.imp_right fun hbad hfits => hbad ((placeOverride_fits_iff body s).mpr hfits)))
  · obtain ⟨hscope, hcls, ha⟩ := (placeOverride_fits_iff body s).mp hfits
    obtain ⟨cls, hcls⟩ := Option.isSome_iff_exists.mp hcls
    obtain ⟨a, ha⟩ := Option.isSome_iff_exists.mp ha
    have hfound : (findRecord .floor scope s.overrides.records).isNone = true := by
      rw [Option.isNone_iff_eq_none]
      refine List.find?_eq_none.mpr fun o ho => ?_
      simp only [Bool.and_eq_true, beq_iff_eq, not_and]
      exact hnone o ho
    refine refused_of_deny ((exec_placeOverride hlen hscope hcls ha).trans (if_pos ?_))
    rw [Bool.and_eq_true]
    exact ⟨hfound, listRefuses_iff.mpr ⟨hfull, hall⟩⟩
  · intro hold room h made displaced
    have hlaws : ListLaws s.overrides := hs
    have htaken : ¬((findRecord .floor scope s.overrides.records).isNone && listRefuses s.overrides.records) = true := by
      rw [Bool.and_eq_true, Option.isNone_iff_eq_none, listRefuses_iff, ← lastOccupant_none_iff]
      rintro ⟨hnone, hfull, hnolast⟩
      exact hroom hnone (le_antisymm hlaws.1 hfull) (hlast.symm.trans hnolast)
    have hexec := (exec_placeOverride hlen hscope hcls ha).trans (if_neg htaken)
    have hlist : (placeFloor cls scope a.1 hold.1 s).overrides = _ :=
      (placeFloor_list cls scope a.1 hold.1 s).trans (listPlaced_eq hlaws rfl hlast hroom)
    have hafter : (event (placeFloor cls scope a.1 hold.1) s).overrides = _ := (event_same (placeFloor cls scope a.1 hold.1) s).1.2.2.1.trans hlist
    have hanswer : placeAnswer scope s (event (placeFloor cls scope a.1 hold.1) s) =
        overrideBytes made ++ [byte (if old = none then 0 else 1)] ++ bytes2 displaced := by
      have hfound : findRecord .floor scope (event (placeFloor cls scope a.1 hold.1) s).overrides.records = some made := by
        rw [hafter]
        exact findRecord_placed hlaws rfl last h
      have hdisplaced : (if old.isSome then 0 else displacedHandle l.records) = displaced := by
        rw [displacedHandle_eq hlaws, hlast]
        rfl
      have hflag : (if old.isSome then 1 else 0) = if old = none then 0 else 1 := by cases old <;> rfl
      unfold placeAnswer
      dsimp only
      rw [hfound, show findRecord .floor scope s.overrides.records = old from rfl, hdisplaced, hflag]
      rfl
    rw [hanswer, okOr_ite] at hexec
    obtain ⟨_, hfloor, hinputs, hport, _⟩ := (placeFloor_listOnly cls scope a.1 hold.1 s).same
    obtain ⟨t, hnext, hleaves, hanswered⟩ := next_of_answeredEvent hexec (placeFloor_listOnly cls scope a.1 hold.1 s).recordsOnly hport
    refine ⟨t, hnext, hleaves.overrides.trans hlist, fun o ho hnone => ?_, hanswered, fun g hg => ?_, fun hocc g hg hsensing => ?_,
      fun j hj hjlast => ?_, hleaves.inputs.trans hinputs,
      ⟨hleaves.composer, hleaves.inputLine.trans hfloor.2.1, hleaves.time, hleaves.pending⟩, hleaves.recomposed⟩
    · have hfree := placingRoom_free hlaws last
      have hsame : room = placingRoom none last l.records := by
        unfold room placingRoom
        rw [hnone]
      show o.handle ≠ freeHandle room 25 l.counter
      rw [hsame] at ho ⊢
      exact hfree o ho
    · by_cases hold' : old = none
      · left
        obtain ⟨v, hv, hfields, _⟩ := seg?_floorMotion cls hg
        obtain ⟨u, hu, hkept, hheld⟩ := seg?_placeRecord (origin := .floor) (cls := cls) (scope := scope) (action := a.1)
          (hold := hold.1) hv
        have hnone : findRecord .floor scope (floorMotion cls scope.segment s).overrides.records = none := by
          rw [floorMotion_list]
          exact hold'
        obtain ⟨⟨hcfg, hh, hctl, hchanged⟩, _⟩ := hkept.fields
        obtain ⟨hcfg', hh', hctl', hchanged'⟩ := hfields
        rw [hleaves.seg?, placeFloor_eq, hu, Option.map_some, hheld hnone rfl, hcfg, hh, hctl, hchanged, hcfg', hh', hctl', hchanged']
      · exact .inr hold'
    · obtain ⟨v, hv, _, hmoved⟩ := seg?_floorMotion cls hg
      obtain ⟨u, hu, hkept, _⟩ := seg?_placeRecord (origin := .floor) (cls := cls) (scope := scope) (action := a.1) (hold := hold.1) hv
      obtain ⟨_, hactivity, hholdTimer, hsetback⟩ := hkept.fields
      obtain ⟨hactivity', hholdTimer', hsetback'⟩ := hmoved hocc hsensing
      rw [hleaves.seg?, placeFloor_eq, hu, Option.map_some, hactivity, hholdTimer, hsetback, hactivity', hholdTimer', hsetback']
    · have hs' : OverridesOk (floorMotion cls scope.segment s) := by
        unfold OverridesOk
        rw [floorMotion_list]
        exact hs
      rw [hleaves.seg?, placeFloor_eq, seg?_placeRecord_other hs' hj (by rw [floorMotion_list, hlast]; exact hjlast)]
      exact seg?_floorMotion_other cls hj

end Placed

end Sys2Proof.Machine
end

section
/-! SUPPORT. The held flag through a press (R64, R65, R91, R113): every segment is held or released as the list says. -/

namespace Sys2Proof.Machine

section Held

variable {s t : State} {i j : Nat} {g u m : Segment} {l l' : List Override} {p : Override → Bool} {flag : Bool}
  {origin : Origin} {cls : OvClass} {scope : Scope} {action : OvAction} {hold : Option Nat} {moved : Nat → Segment → Segment}

/-- A record of the list names the segment. -/
abbrev names (l : List Override) (j : Nat) : Bool := l.any fun o => o.scope.segment == j

/-- R64, R65: a record held or released as a list says, its off-delay and shortfall timers stopped while it is held. -/
def heldRecord (l : List Override) (j : Nat) (m : Segment) : Segment :=
  { m with
    held := m.activity != .occupied || names l j
    offTimer := if m.activity != .occupied || names l j then none else m.offTimer
    shortTimer := if m.activity != .occupied || names l j then none else m.shortTimer }

/-- R61, R65: neither the off-delay nor the shortfall timer runs. -/
def TimersRest (m : Segment) : Prop := m.offTimer = none ∧ m.shortTimer = none

theorem heldRecord_of_quiet (hm : m.held = (m.activity != .occupied || names l j)) (hquiet : m.held = true → TimersRest m) :
    heldRecord l j m = m := by
  have hoff : (if m.held = true then none else m.offTimer) = m.offTimer := by
    split
    · exact (hquiet ‹_›).1.symm
    · rfl
  have hshort : (if m.held = true then none else m.shortTimer) = m.shortTimer := by
    split
    · exact (hquiet ‹_›).2.symm
    · rfl
  unfold heldRecord
  rw [← hm, hoff, hshort]

/-- R64: the recomputation at a record whose timers rest while it is held. -/
theorem heldAgain_eq_heldRecord (s : State) (j : Nat) (hquiet : m.held = true → TimersRest m) :
    heldAgain s j m = heldRecord s.overrides.records j m := by
  unfold heldAgain heldRecord
  rw [isHeld_eq]
  cases hnow : (m.activity != .occupied || s.overrides.records.any fun o => o.scope.segment == j) with
  | false => simp
  | true =>
    cases hheld : m.held with
    | false => simp
    | true =>
      obtain ⟨hoff, hshort⟩ := hquiet hheld
      simp [hoff, hshort]

theorem heldRecord_quiet (h : (heldRecord l j m).held = true) : TimersRest (heldRecord l j m) := by
  have hheld : (m.activity != .occupied || names l j) = true := h
  exact ⟨if_pos hheld, if_pos hheld⟩

/-- A record released by one list after another: its timers are as they were where the other named no segment. -/
theorem heldRecord_heldRecord (hquiet : names l j = true → TimersRest m) :
    heldRecord l' j (heldRecord l j m) = heldRecord l' j m := by
  unfold heldRecord
  dsimp only
  cases hactivity : m.activity != .occupied with
  | true => simp
  | false =>
    cases hnames : names l j with
    | false => simp
    | true =>
      obtain ⟨hoff, hshort⟩ := hquiet hnames
      simp [hoff, hshort]

theorem heldRecord_congr (h : names l' j = names l j) : heldRecord l' j m = heldRecord l j m := by
  unfold heldRecord
  rw [h]

/-- From the segments of `s`, each changed by `moved`, every segment is held or released as the list of `t` says. -/
def ReadsHeld (s : State) (moved : Nat → Segment → Segment) (t : State) : Prop :=
  ∀ j u, seg? s j = some u → seg? t j = some (heldRecord t.overrides.records j (moved j u))

/-- The segments that the list of `s` names have no timer running that holding them would stop. -/
def NamedQuiet (s : State) (moved : Nat → Segment → Segment) : Prop :=
  ∀ j u, seg? s j = some u → names s.overrides.records j = true → TimersRest (moved j u)

theorem names_of_subset (hsub : ∀ o ∈ l', o ∈ l) (h : names l' j = true) : names l j = true := by
  obtain ⟨o, ho, hj⟩ := List.any_eq_true.mp h
  exact List.any_eq_true.mpr ⟨o, hsub o ho, hj⟩

/-- R118: records retired. -/
theorem ReadsHeld.retire (h : ReadsHeld s moved t) (hquiet : NamedQuiet s moved) (hsub : ∀ o ∈ t.overrides.records, o ∈ s.overrides.records)
    (p : Override → Bool) (flag : Bool) : ReadsHeld s moved (retireRecords p flag t) := by
  intro j u hu
  have hlist : (retireRecords p flag t).overrides.records = t.overrides.records.filter fun o => !p o := by
    rw [retireRecords_overrides]
  rw [seg?_retireRecords, h j u hu, Option.map_some]
  split
  · rw [heldAgain_eq_heldRecord _ j heldRecord_quiet, heldRecord_heldRecord fun hn => hquiet j u hu (names_of_subset hsub hn)]
  · rename_i hnone
    refine congrArg some (heldRecord_congr ?_)
    rw [hlist, Bool.eq_iff_iff, List.any_eq_true, List.any_eq_true]
    constructor
    · rintro ⟨o, ho, hj⟩
      refine ⟨o, List.mem_filter.mpr ⟨ho, ?_⟩, hj⟩
      rw [Bool.not_eq_true', Bool.eq_false_iff]
      exact fun hp => hnone (List.any_eq_true.mpr ⟨o, ho, by rw [hp, hj]; rfl⟩)
    · rintro ⟨o, ho, hj⟩
      exact ⟨o, List.mem_of_mem_filter ho, hj⟩

/-- R104: a record created. -/
theorem ReadsHeld.create (h : ReadsHeld s moved t) (hquiet : NamedQuiet s moved) (hsub : ∀ o ∈ t.overrides.records, o ∈ s.overrides.records) :
    ReadsHeld s moved (createRecord origin cls scope action hold t) := by
  intro j u hu
  unfold createRecord
  dsimp only
  rw [seg?_recomputeHeld, recomputeHeld_overrides]
  by_cases hj : j = scope.segment
  · rw [if_pos hj, ← hj, show ∀ l, seg? (putOverrides l t) j = some (heldRecord t.overrides.records j (moved j u)) from fun _ => h j u hu,
      Option.map_some, heldAgain_eq_heldRecord _ j heldRecord_quiet,
      heldRecord_heldRecord fun hn => hquiet j u hu (names_of_subset hsub hn)]
  · rw [if_neg hj]
    refine (h j u hu).trans (congrArg some (heldRecord_congr ?_))
    change names t.overrides.records j =
      names (insertFront ⟨freeHandle t.overrides.records 25 t.overrides.counter, origin, cls, scope, action, hold⟩ t.overrides.records) j
    rw [names, names, (insertFront_perm _ _).any_eq, List.any_cons, beq_eq_false_iff_ne.mpr (Ne.symm hj), Bool.false_or]

/-- R106, R113: a record refreshed names what it named. -/
theorem ReadsHeld.refresh (h : ReadsHeld s moved t) {r : Override} (hr : r ∈ t.overrides.records)
    (honly : ∀ o ∈ t.overrides.records, o.handle = r.handle → o = r) :
    ReadsHeld s moved (refreshRecord r cls action hold t) := by
  intro j u hu
  refine (h j u hu).trans (congrArg some (heldRecord_congr ?_))
  change names t.overrides.records j = names (insertFront { r with cls := cls, action := action, hold := hold }
    (t.overrides.records.filter fun o => o.handle != r.handle)) j
  rw [names, names, (insertFront_perm _ _).any_eq, List.any_cons, Bool.eq_iff_iff, Bool.or_eq_true, List.any_eq_true, List.any_eq_true]
  constructor
  · rintro ⟨o, ho, hj⟩
    by_cases hhandle : o.handle = r.handle
    · rw [honly o ho hhandle] at hj
      exact .inl hj
    · exact .inr ⟨o, List.mem_filter.mpr ⟨ho, bne_iff_ne.mpr hhandle⟩, hj⟩
  · rintro (hj | ⟨o, ho, hj⟩)
    · exact ⟨r, hr, hj⟩
    · exact ⟨o, List.mem_of_mem_filter ho, hj⟩

/-- R107, R117: a record placed. -/
theorem ReadsHeld.place (h : ReadsHeld s moved t) (hquiet : NamedQuiet s moved) (hlist : t.overrides = s.overrides) (hs : OverridesOk s) :
    ReadsHeld s moved (placeRecord origin cls scope action hold t) := by
  have hsub : ∀ o ∈ t.overrides.records, o ∈ s.overrides.records := by
    rw [hlist]
    exact fun _ ho => ho
  unfold placeRecord
  cases hfound : findRecord origin scope t.overrides.records with
  | some r =>
    obtain ⟨hr, _⟩ := findRecord_some hfound
    exact h.refresh hr fun o ho hhandle => eq_of_handle_eq hs (hsub r hr) (hsub o ho) hhandle
  | none =>
    refine ReadsHeld.create ?_ hquiet fun o ho => ?_
    · rw [makeRoom_eq]
      split
      · exact h
      · cases lastOccupant t.overrides.records with
        | none => exact h
        | some d => exact h.retire hquiet hsub _ _
    · rw [makeRoom_list] at ho
      exact hsub o (mem_roomyList ho)

/-! ## Motion before the list acts (R91, R92) -/

/-- R92: the record that a press's motion makes OCCUPIED. -/
def pressMoved (i : Nat) (j : Nat) (u : Segment) : Segment :=
  if j = i ∧ u.cfg.sensing = true then occupiedSeg false u else u

theorem pressMoved_timers (i j : Nat) (u : Segment) :
    (pressMoved i j u).offTimer = u.offTimer ∧ (pressMoved i j u).shortTimer = u.shortTimer ∧ (pressMoved i j u).held = u.held := by
  unfold pressMoved
  split <;> exact ⟨rfl, rfl, rfl⟩

/-- R61, R65: a segment that is held has its timers at rest. -/
theorem quiet_of_held (ht : TimersOk s) (hg : seg? s j = some g) (hheld : g.held = true) : TimersRest g := by
  obtain ⟨_, hoff, _, hshort, _⟩ := ht _ (mem_of_seg? hg)
  refine ⟨Option.not_isSome_iff_eq_none.mp fun h => ?_, Option.not_isSome_iff_eq_none.mp fun h => ?_⟩
  · exact Bool.false_ne_true ((hoff h).2.symm.trans hheld)
  · exact Bool.false_ne_true ((hshort h).2.1.symm.trans hheld)

theorem namedQuiet_pressMoved (hs : HeldOk s) (ht : TimersOk s) (i : Nat) : NamedQuiet s (pressMoved i) := by
  intro j u hu hnamed
  obtain ⟨hoff, hshort, _⟩ := pressMoved_timers i j u
  have hheld : u.held = true := by
    rw [hs (j, u) (mem_of_seg? hu), isHeld_eq, Bool.or_eq_true]
    exact .inr hnamed
  obtain ⟨hoff', hshort'⟩ := quiet_of_held ht hu hheld
  exact ⟨hoff.trans hoff', hshort.trans hshort'⟩

theorem readsHeld_motion (hs : HeldOk s) (ht : TimersOk s) (i : Nat) : ReadsHeld s (pressMoved i) (motion false i s) := by
  intro j u hu
  rw [motion_list, seg?_motion]
  have hstands : heldRecord s.overrides.records j u = u :=
    heldRecord_of_quiet ((hs (j, u) (mem_of_seg? hu)).trans (isHeld_eq s j u)) (quiet_of_held ht hu)
  by_cases hj : j = i
  · subst hj
    rw [if_pos rfl, hu, Option.map_some]
    unfold motionSeg pressMoved
    by_cases hsensing : u.cfg.sensing = true
    · rw [if_pos hsensing, if_pos ⟨rfl, hsensing⟩, heldAgain_eq_heldRecord (m := occupiedSeg false u) s j fun hheld => show TimersRest u from quiet_of_held ht hu hheld]
    · rw [if_neg hsensing, if_neg fun h => hsensing h.2, hstands]
  · rw [if_neg hj, hu, pressMoved, if_neg fun h => hj h.1, hstands]

end Held

end Sys2Proof.Machine
end

section
/-! SUPPORT. The press detection of a station (R91, R113 to R117, R155). -/

namespace Sys2Proof.Machine

section Presses

variable {s t x : State} {a i j q r hold : Nat} {g u : Segment} {n : Input} {scope : Scope} {b : Button} {action : OvAction}
  {shown : Option Button} {recorded : Option Nat} {code : Byte} {bytes : List LineByte} {d : Override}

/-- R155: the record of a station after a press. -/
def pressedInput (n : Input) (scope : Scope) (hold : Nat) (b : Button) (q : Nat) : Input :=
  { n with device := .station scope hold (some b) (some q), changed := true }

/-- R155: a press is motion, an act of the list, and the station's own record. -/
theorem stationPress_eq (hn : input? s a = some n) (hd : n.device = .station scope hold shown (some q)) (b : Button) :
    stationPress a scope hold b s =
      putInput a (pressedInput n scope hold b q) (pressList a scope hold b (motion false scope.segment s)) := by
  have hinputs : (pressList a scope hold b (motion false scope.segment s)).inputs = s.inputs :=
    (pressList_listOnly a scope hold b _).same.2.2.1.trans (motion_segsOnly false scope.segment s).same.2.1.1
  have hread : input? (pressList a scope hold b (motion false scope.segment s)) a = some n := by
    rw [input?, hinputs]
    exact hn
  rw [stationPress, onInput_some hread, hd]
  rfl

/-- R155: the reply that is no press is recorded and nothing else. -/
theorem stationReply_quiet (hn : input? s a = some n) (hd : n.device = .station scope hold shown recorded)
    (h : recorded = none ∨ recorded = some q ∨ buttonOfCode code.toNat = none) :
    stationReply a q code s = putInput a { n with device := .station scope hold shown (some q) } s := by
  rw [stationReply, onInput_some hn]
  simp only [hd]
  cases recorded with
  | none => rfl
  | some r =>
    cases hb : buttonOfCode code.toNat with
    | none => rfl
    | some b =>
      rcases h with h | h | h
      · cases h
      · exact if_pos (Option.some.inj h)
      · rw [hb] at h
        cases h

/-- R155: another sequence than the recorded one is one press. -/
theorem stationReply_press (hn : input? s a = some n) (hd : n.device = .station scope hold shown (some r)) (hr : r ≠ q)
    (hb : buttonOfCode code.toNat = some b) :
    stationReply a q code s =
      event (stationPress a scope hold b) (putInput a { n with device := .station scope hold shown (some q) } s) := by
  rw [stationReply, onInput_some hn]
  simp only [hd, hb]
  exact if_neg hr

/-- R113 to R117: what the list does at a press. -/
theorem pressList_eq (hg : seg? s scope.segment = some g) :
    pressList a scope hold b s =
      match pressAction g b ((findRecord (.station a) scope s.overrides.records).map (·.action)) with
      | none => retireRecords (fun o => o.origin == .station a) true s
      | some action =>
        if (findRecord (.station a) scope s.overrides.records).isNone && listRefuses s.overrides.records then s
        else placeRecord (.station a) .occupant scope action (some hold) s := by
  rw [pressList, onSeg_some hg]
  rfl

theorem ReadsHeld.press (h : ReadsHeld s (pressMoved i) t) (hquiet : NamedQuiet s (pressMoved i)) (hlist : t.overrides = s.overrides)
    (hs : OverridesOk s) (hg : seg? t scope.segment = some g) (b : Button) :
    ReadsHeld s (pressMoved i) (pressList a scope hold b t) := by
  rw [pressList_eq hg]
  split
  · exact h.retire hquiet (by rw [hlist]; exact fun _ ho => ho) _ _
  · split
    · exact h
    · exact h.place hquiet hlist hs

/-- R91, R92: the activity of the segment after a press, whatever the list does. -/
theorem seg?_pressList_heldOnly (hg : seg? t j = some g) (hscope : seg? t scope.segment = some u) :
    ∃ v, seg? (pressList a scope hold b t) j = some v ∧ HeldOnly g v := by
  rw [pressList_eq hscope]
  split
  · exact seg?_retireRecords_heldOnly hg
  · split
    · exact ⟨g, hg, rfl⟩
    · obtain ⟨v, hv, hkept, _⟩ := seg?_placeRecord hg
      exact ⟨v, hv, hkept⟩

/-! ## The list after a press -/

section PressList

variable (hg : seg? t scope.segment = some g)

include hg

theorem pressList_resume : (pressList a scope hold .resume t).overrides =
    { t.overrides with
      records := t.overrides.records.filter fun o => o.origin != .station a
      changed := t.overrides.changed || t.overrides.records.any fun o => o.origin == .station a } := by
  rw [pressList_eq hg]
  change (retireRecords (fun o => o.origin == .station a) true t).overrides = _
  rw [retireRecords_overrides, Bool.true_and]
  rfl

theorem pressList_placed (haction : pressAction g b ((findRecord (.station a) scope t.overrides.records).map (·.action)) = some action)
    (hroom : findRecord (.station a) scope t.overrides.records = none → listRefuses t.overrides.records = false) :
    (pressList a scope hold b t).overrides = listPlaced (.station a) .occupant scope action (some hold) t.overrides := by
  have htaken : ¬((findRecord (.station a) scope t.overrides.records).isNone && listRefuses t.overrides.records) = true := by
    rw [Bool.and_eq_true, Option.isNone_iff_eq_none]
    rintro ⟨hnone, hfull⟩
    exact Bool.false_ne_true ((hroom hnone).symm.trans hfull)
  rw [pressList_eq hg, haction]
  dsimp only
  rw [if_neg htaken, placeRecord_list]

theorem pressList_refused (haction : pressAction g b ((findRecord (.station a) scope t.overrides.records).map (·.action)) = some action)
    (hnone : findRecord (.station a) scope t.overrides.records = none) (hfull : listRefuses t.overrides.records = true) :
    pressList a scope hold b t = t := by
  rw [pressList_eq hg, haction]
  dsimp only
  rw [if_pos (by rw [hnone, hfull]; rfl)]

end PressList

theorem listRefuses_of_lt {l : List Override} (h : l.length < 24) : listRefuses l = false := by
  rw [Bool.eq_false_iff, ne_eq, listRefuses_iff]
  exact fun hfull => absurd hfull.1 (Nat.not_le.mpr h)

theorem listRefuses_of_last {l : List Override} (h : lastOccupant l = some d) : listRefuses l = false := by
  simp [listRefuses, h]

end Presses

end Sys2Proof.Machine
end

section
/-! SUPPORT. A station's reply in a state (R113 to R117, R155). -/

namespace Sys2Proof.Machine

section StationReplies

variable {s t : State} {a i j q r hold : Nat} {g u : Segment} {n : Input} {scope : Scope} {b : Button} {action : OvAction}
  {shown : Option Button} {recorded : Option Nat} {code : Byte} {bytes : List LineByte} {d o : Override}

/-- R155: the state where a station's reply has been recorded. -/
def repliedState (a : Nat) (n : Input) (scope : Scope) (hold : Nat) (shown : Option Button) (q : Nat) (s : State) : State :=
  putInput a { heardInput n with device := .station scope hold shown (some q) } (clearPoll s)

section Taken

variable (hf : s.inputLine.flight = some (.due a .live)) (hv : decodeInputReply a bytes = some (.station q code))
  (hn : input? s a = some n) (hd : n.device = .station scope hold shown recorded)

include hf hv hn hd

theorem exec_stationReply : exec (.inputReply bytes) s =
    done (arbitrateInput (stationReply a q code (putInput a (heardInput n) (clearPoll s)))) :=
  exec_inputReply_live hf hv hn (by rw [hd]; rfl)

theorem exec_stationReply_quiet (h : recorded = none ∨ recorded = some q ∨ buttonOfCode code.toNat = none) :
    exec (.inputReply bytes) s = done (arbitrateInput (repliedState a n scope hold shown q s)) := by
  rw [exec_stationReply hf hv hn hd, stationReply_quiet (n := heardInput n) (input?_putInput_self a _ _) hd h, putInput_putInput]
  rfl

theorem exec_stationReply_press (hrecorded : recorded = some r) (hr : r ≠ q) (hb : buttonOfCode code.toNat = some b) :
    exec (.inputReply bytes) s =
      done (arbitrateInput (event (stationPress a scope hold b) (repliedState a n scope hold shown q s))) := by
  subst hrecorded
  rw [exec_stationReply hf hv hn hd, stationReply_press (n := heardInput n) (input?_putInput_self a _ _) hd hr hb, putInput_putInput]
  rfl

end Taken

/-- The list and the segments after a press on the recorded reply. -/
def pressedList (a : Nat) (n : Input) (scope : Scope) (hold : Nat) (shown : Option Button) (b : Button) (q : Nat) (s : State) : State :=
  pressList a scope hold b (motion false scope.segment (repliedState a n scope hold shown q s))

theorem pressedList_listOnly : ListOnly (repliedState a n scope hold shown q s) (pressedList a n scope hold shown b q s) :=
  (motion_segsOnly false scope.segment _).listOnly.trans (pressList_listOnly a scope hold b _)

theorem stationPress_repliedState : stationPress a scope hold b (repliedState a n scope hold shown q s) =
    putInput a (pressedInput { heardInput n with device := .station scope hold shown (some q) } scope hold b q)
      (pressedList a n scope hold shown b q s) :=
  stationPress_eq (input?_putInput_self a _ _) rfl b

/-- R155: what a press leaves, the arbiter of the input line having chosen. -/
theorem pollEnded_press : PollEnded s (stationPress a scope hold b (repliedState a n scope hold shown q s))
    (withAttn (arbitrateInput (event (stationPress a scope hold b) (repliedState a n scope hold shown q s)))) := by
  obtain ⟨_, ⟨_, hline, _⟩, _, hport, _⟩ :=
    (pressedList_listOnly (a := a) (n := n) (scope := scope) (hold := hold) (shown := shown) (b := b) (q := q) (s := s)).same
  have honly : RecordsOnly (repliedState a n scope hold shown q s)
      (stationPress a scope hold b (repliedState a n scope hold shown q s)) := by
    rw [stationPress_repliedState]
    exact pressedList_listOnly.recordsOnly.trans rfl
  have hafter := afterEvent honly
  refine AfterEvent.pollEnded ⟨⟨hafter.segs, hafter.inputs, hafter.overrides, hafter.inputLine, hafter.composer, hafter.time,
    hafter.pending, hafter.recomposed⟩, hafter.port⟩ ?_ ?_
  · rw [stationPress_repliedState]
    exact hline
  · rw [stationPress_repliedState]
    exact hport

theorem seg?_motion_scope (hg : seg? s scope.segment = some g) :
    seg? (motion false scope.segment (repliedState a n scope hold shown q s)) scope.segment =
      some (motionSeg false (repliedState a n scope hold shown q s) scope.segment g) := by
  rw [seg?_motion, if_pos rfl, show seg? (repliedState a n scope hold shown q s) scope.segment = some g from hg]
  rfl

theorem motionSeg_cfg (byRequest : Bool) (s : State) (i : Nat) (g : Segment) : (motionSeg byRequest s i g).cfg = g.cfg := by
  unfold motionSeg
  split
  · exact (heldAgain_activity s i _).1
  · rfl

/-- R91, R92: the segment of the scope is OCCUPIED where its sensing is on, whatever the list does. -/
theorem pressedList_activity (hg : seg? s scope.segment = some g) (hsensing : g.cfg.sensing = true) :
    (seg? (pressedList a n scope hold shown b q s) scope.segment).map (fun u => (u.activity, u.holdTimer, u.setbackTimer)) =
      some (.occupied, some (g.cfg.occupancyHold * 600), none) := by
  have hmoved := seg?_motion_scope (a := a) (n := n) (hold := hold) (shown := shown) (q := q) hg
  obtain ⟨v, hv, hkept⟩ := seg?_pressList_heldOnly (a := a) (hold := hold) (b := b) hmoved hmoved
  obtain ⟨_, hactivity, htimer, hsetback⟩ := hkept.fields
  obtain ⟨_, hactivity', htimer', hsetback'⟩ :=
    heldAgain_activity (repliedState a n scope hold shown q s) scope.segment (occupiedSeg false g)
  rw [motionSeg, if_pos hsensing] at hactivity htimer hsetback
  rw [pressedList, hv, Option.map_some, hactivity, htimer, hsetback, hactivity', htimer', hsetback']
  rfl

/-- R64, R65: every segment after a press. -/
theorem seg?_pressedList (hs : OverridesOk s) (hheld : HeldOk s) (htimers : TimersOk s) (hg : seg? s scope.segment = some g)
    (hu : seg? s j = some u) :
    seg? (pressedList a n scope hold shown b q s) j =
      some (heldRecord (pressedList a n scope hold shown b q s).overrides.records j (pressMoved scope.segment j u)) := by
  have hreads := readsHeld_motion (s := repliedState a n scope hold shown q s) hheld htimers scope.segment
  exact hreads.press (namedQuiet_pressMoved (s := repliedState a n scope hold shown q s) hheld htimers _) (motion_list _ _ _) hs
    (seg?_motion_scope hg) b j u hu

/-! ## The list -/

section PressedList

variable (hg : seg? s scope.segment = some g)

include hg

theorem pressedList_resume : (pressedList a n scope hold shown .resume q s).overrides =
    { s.overrides with
      records := s.overrides.records.filter fun o => o.origin != .station a
      changed := s.overrides.changed || s.overrides.records.any fun o => o.origin == .station a } := by
  rw [pressedList, pressList_resume (seg?_motion_scope hg), motion_list]
  rfl

theorem pressedList_placed (haction : pressAction g b ((findRecord (.station a) scope s.overrides.records).map (·.action)) = some action)
    (hroom : findRecord (.station a) scope s.overrides.records = none → listRefuses s.overrides.records = false) :
    (pressedList a n scope hold shown b q s).overrides = listPlaced (.station a) .occupant scope action (some hold) s.overrides := by
  have hlist : (motion false scope.segment (repliedState a n scope hold shown q s)).overrides = s.overrides := motion_list _ _ _
  rw [pressedList, pressList_placed (action := action) (seg?_motion_scope hg), hlist]
  · rw [hlist, pressAction_congr (motionSeg_cfg ..)]
    exact haction
  · rw [hlist]
    exact hroom

theorem pressedList_refused (haction : pressAction g b ((findRecord (.station a) scope s.overrides.records).map (·.action)) = some action)
    (hnone : findRecord (.station a) scope s.overrides.records = none) (hfull : listRefuses s.overrides.records = true) :
    (pressedList a n scope hold shown b q s).overrides = s.overrides := by
  have hlist : (motion false scope.segment (repliedState a n scope hold shown q s)).overrides = s.overrides := motion_list _ _ _
  rw [pressedList, pressList_refused (action := action) (seg?_motion_scope hg), hlist]
  · rw [hlist, pressAction_congr (motionSeg_cfg ..)]
    exact haction
  · rw [hlist]
    exact hnone
  · rw [hlist]
    exact hfull

end PressedList

theorem pressActions (g : Segment) (v : Nat) (d : Int) :
    pressAction g .raise (some (.set v)) = some (.set (min (v + 100) 1000))
      ∧ pressAction g .raise (some (.nudge d)) = some (.nudge (min (d + 100) 500))
      ∧ pressAction g .raise (some .off) = some (.set 100) ∧ pressAction g .raise none = some (.nudge 100)
      ∧ pressAction g .lower (some (.set v)) = some (.set (v - 100))
      ∧ pressAction g .lower (some (.nudge d)) = some (.nudge (max (d - 100) (-500)))
      ∧ pressAction g .lower (some .off) = some .off ∧ pressAction g .lower none = some (.nudge (-100))
      ∧ (∀ own, pressAction g .on own = some (.set 1000))
      ∧ ∀ own, pressAction g .off own = some (if g.cfg.stationOff then .off else .set g.cfg.setbackLevel) := by
  exact ⟨rfl, rfl, rfl, rfl, rfl, rfl, rfl, rfl, fun _ => rfl, fun _ => rfl⟩

/-- Settles O55: the reply that is no press, and then the press by its records, its segments and the list. -/
theorem stationPressesActOnTheirRecord : Obligations.StationPressesActOnTheirRecord := by
  refine ⟨pressActions, fun s a q code bytes htables hs hf hv n hn scope hold shown recorded hd => ?_⟩
  intro l own last answered fresh
  have hn : input? s a = some n := hn
  refine ⟨fun hquiet => ?_, fun r hr hne b hb g hg => ?_⟩
  · refine ⟨_, exec_stationReply_quiet hf hv hn hd hquiet, ?_, fun c hc => input?_putInput_ne _ (clearPoll s) hc, rfl, rfl, rfl⟩
    refine (input?_putInput_self a _ (clearPoll s)).trans ?_
    simp only [answered, Bool.or_false]
    rfl
  · have hg : seg? s scope.segment = some g := hg
    have hended := pollEnded_press (s := s) (a := a) (n := n) (scope := scope) (hold := hold) (shown := shown) (b := b) (q := q)
    rw [stationPress_repliedState] at hended
    have hlist : _ = (pressedList a n scope hold shown b q s).overrides := hended.overrides
    have hseg (j : Nat) : _ = seg? (pressedList a n scope hold shown b q s) j := hended.seg? j
    refine ⟨_, exec_stationReply_press hf hv hn hd hr hne hb, (hended.input? a).trans ?_, fun c hc => (hended.input? c).trans ?_,
      fun hsensing => ?_, fun hheld htimers j u hu => ?_, fun hresume => ?_, fun act hact => ⟨fun o ho => ?_, fun hnone hlt => ?_,
        fun hnone hfull d hlast => ?_, fun hnone hfull hall => ?_⟩, hended.inputLine, hended.port, hended.composer, hended.time,
      hended.pending, hended.recomposed⟩
    · rw [input?_putInput_self]
      simp only [answered, Bool.or_true, Bool.true_or]
      rfl
    · rw [input?_putInput_ne _ _ hc, input?, pressedList_listOnly.same.2.2.1]
      exact input?_putInput_ne _ (clearPoll s) hc
    · exact (congrArg (Option.map _) (hseg scope.segment)).trans (pressedList_activity hg hsensing)
    · refine (hseg j).trans ((seg?_pressedList hs hheld htimers hg hu).trans ?_)
      obtain ⟨hoff, hshort, _⟩ := pressMoved_timers scope.segment j u
      rw [heldRecord, hoff, hshort, ← hlist]
      rfl
    · subst hresume
      exact hlist.trans (pressedList_resume hg)
    · have ho : findRecord (.station a) scope s.overrides.records = some o := ho
      refine hlist.trans ((pressedList_placed (action := act) hg hact fun h => absurd (ho.symm.trans h) nofun).trans ?_)
      rw [listPlaced, ho]
      rfl
    · refine hlist.trans ((pressedList_placed (action := act) hg hact fun _ => listRefuses_of_lt hlt).trans ?_)
      rw [listPlaced, show findRecord (.station a) scope s.overrides.records = none from hnone]
      dsimp only
      rw [roomyList_of_lt hlt]
      rfl
    · have hlast : lastOccupant s.overrides.records = some d := (lastOccupant_eq _).trans hlast
      refine hlist.trans ((pressedList_placed (action := act) hg hact fun _ => listRefuses_of_last hlast).trans ?_)
      rw [listPlaced, show findRecord (.station a) scope s.overrides.records = none from hnone]
      dsimp only
      rw [roomyList_full hfull hlast]
      rfl
    · refine hlist.trans (pressedList_refused (action := act) hg hact hnone ?_)
      refine listRefuses_iff.mpr ⟨hfull.ge, fun o ho => ?_⟩
      exact beq_iff_eq.mp (List.all_eq_true.mp hall o ho)

end StationReplies

end Sys2Proof.Machine
end

section
/-! SUPPORT. The requests of the luminaire table that are not taken: what each check answers (R3, R7, R177). -/

namespace Sys2Proof.Machine

section DeniedLuminaires

variable {s : State} {body : List Byte} {l : Luminaire} {st : Status} {place : Option Place} {p : Place} {q : Place} {f : LumFields}

/-! ## ENROL LUMINAIRE -/

theorem enrolLuminaire_short (hlen : body.length < 9) : exec (.enrolLuminaire body) s = deny .badField 0x10 s := if_pos hlen

theorem enrolLuminaire_known (hlen : 9 ≤ body.length) (hk : (lum? s (keyOfByte (byteAt body 0))).isSome = true) :
    exec (.enrolLuminaire body) s = deny .existsAlready 0x10 s := by
  obtain ⟨l, hl⟩ := Option.isSome_iff_exists.mp hk
  simp only [exec, execEnrolLuminaire, if_neg (Nat.not_lt.mpr hlen), hl]

theorem carriedAt_isSome (mask bit value : Nat) : (carriedAt mask bit value).isSome = mask.testBit bit := by
  unfold carriedAt
  split
  · exact (‹_ = true› : mask.testBit bit = true).symm
  · exact (Bool.eq_false_iff.mpr ‹_›).symm

theorem enrolLuminaire_placed (hlen : 9 ≤ body.length) (hk : lum? s (keyOfByte (byteAt body 0)) = none)
    (hplace : (byteAt body 1).testBit 0 = true ∨ (byteAt body 1).testBit 1 = true) :
    exec (.enrolLuminaire body) s = deny .badField 0x10 s := by
  have hcarried : ((lumFields body).segment.isSome || (lumFields body).position.isSome) = true := by
    rw [lumFields, carriedAt_isSome, carriedAt_isSome, Bool.or_eq_true]
    exact hplace
  simp only [exec, execEnrolLuminaire, if_neg (Nat.not_lt.mpr hlen), hk, if_pos hcarried]

/-! ## AMEND LUMINAIRE -/

theorem amendLuminaire_short (hlen : body.length < 9) : exec (.amendLuminaire body) s = deny .badField 0x11 s := if_pos hlen

theorem amendLuminaire_unknown (hlen : 9 ≤ body.length) (hk : lum? s (keyOfByte (byteAt body 0)) = none) :
    exec (.amendLuminaire body) s = deny .noRecord 0x11 s := by
  simp only [exec, execAmendLuminaire, if_neg (Nat.not_lt.mpr hlen), hk]

section Amended

variable (hlen : 9 ≤ body.length) (hl : lum? s (keyOfByte (byteAt body 0)) = some l)

include hlen hl

theorem amendLuminaire_error (herror : amendedPlace s l (lumFields body) = .error st) :
    exec (.amendLuminaire body) s = deny st 0x11 s := by
  simp only [exec, execAmendLuminaire, if_neg (Nat.not_lt.mpr hlen), hl, herror]

/-- R7: a position that another luminaire holds is not given again. -/
theorem amendLuminaire_held (hplace : amendedPlace s l (lumFields body) = .ok (some p))
    (hcarried : (byteAt body 1).testBit 0 = true ∨ (byteAt body 1).testBit 1 = true)
    (hheld : ∃ e ∈ s.lums, e.1 ≠ keyOfByte (byteAt body 0) ∧ e.2.place = some p) :
    exec (.amendLuminaire body) s = deny .inUse 0x11 s := by
  obtain ⟨e, he, hkey, hplaced⟩ := hheld
  have hconflict : (((lumFields body).segment.isSome || (lumFields body).position.isSome)
      && ((some p).map (positionHeld s (keyOfByte (byteAt body 0)))).getD false) = true := by
    rw [Bool.and_eq_true, Bool.or_eq_true]
    refine ⟨?_, List.any_eq_true.mpr ⟨e, he, ?_⟩⟩
    · rw [lumFields, carriedAt_isSome, carriedAt_isSome]
      exact hcarried
    · rw [bne_iff_ne.mpr hkey, beq_iff_eq.mpr hplaced]
      rfl
  simp only [exec, execAmendLuminaire, if_neg (Nat.not_lt.mpr hlen), hl, hplace, if_pos hconflict]

end Amended

/-! ## Which place an amendment gives -/

theorem lumFields_segment (body : List Byte) :
    (lumFields body).segment = if (byteAt body 1).testBit 0 = true then some (byteAt body 2) else none := rfl

theorem lumFields_position (body : List Byte) :
    (lumFields body).position = if (byteAt body 1).testBit 1 = true then some (byteAt body 3) else none := rfl

/-- R7: no segment leaves no position to give. -/
theorem amendedPlace_noneAt {pos : Nat} (hsegment : f.segment = some 255) (hposition : f.position = some pos) :
    amendedPlace s l f = .error .badField := by
  rw [amendedPlace, hsegment, hposition]
  rfl

/-- R7: a segment that is carried is defined and has a position beside it. -/
theorem amendedPlace_unfit {sg : Nat} (hsegment : f.segment = some sg) (hsome : sg ≠ 255)
    (hunfit : 31 < sg ∨ seg? s sg = none ∨ f.position = none ∨ ∃ pos, f.position = some pos ∧ 15 < pos) :
    amendedPlace s l f = .error .badField := by
  rw [amendedPlace, hsegment]
  simp only [if_neg hsome]
  split
  · rename_i hdefined
    obtain ⟨hid, hfound⟩ := hdefined
    cases hposition : f.position with
    | none => rfl
    | some pos =>
      refine if_neg fun hpos => ?_
      rw [hposition] at hunfit
      rcases hunfit with h | h | h | ⟨pos', h, hbeyond⟩
      · exact absurd hid (Nat.not_le.mpr h)
      · rw [h] at hfound
        exact Bool.false_ne_true hfound
      · cases h
      · cases h
        exact absurd hpos (Nat.not_le.mpr hbeyond)
  · rfl

/-- R7: a position alone is for a luminaire that is assigned. -/
theorem amendedPlace_movedUnfit {pos : Nat} (hsegment : f.segment = none) (hposition : f.position = some pos)
    (hunfit : l.place = none ∨ 15 < pos) : amendedPlace s l f = .error .badField := by
  rw [amendedPlace, hsegment, hposition]
  cases hplace : l.place with
  | none => rfl
  | some q => exact if_neg (Nat.not_le.mpr (hunfit.resolve_left (by rw [hplace]; exact nofun)))

theorem amendedPlace_moved {pos : Nat} (hsegment : f.segment = none) (hposition : f.position = some pos)
    (hplace : l.place = some q) (hpos : pos ≤ 15) : amendedPlace s l f = .ok (some ⟨q.segment, pos⟩) := by
  rw [amendedPlace, hsegment, hposition, hplace]
  exact if_pos hpos

theorem amendedPlace_assigned {sg pos : Nat} (hsegment : f.segment = some sg) (hsome : sg ≠ 255) (hid : sg ≤ 31)
    (hfound : (seg? s sg).isSome = true) (hposition : f.position = some pos) (hpos : pos ≤ 15) :
    amendedPlace s l f = .ok (some ⟨sg, pos⟩) := by
  rw [amendedPlace, hsegment, hposition]
  simp only [if_neg hsome, if_pos (And.intro hid hfound), if_pos hpos]

/-! ## READ and RETIRE LUMINAIRE -/

theorem luminaire_short (hlen : body.length < 1) :
    exec (.readLuminaire body) s = deny .badField 0x12 s ∧ exec (.retireLuminaire body) s = deny .badField 0x13 s :=
  ⟨if_pos hlen, if_pos hlen⟩

theorem luminaire_unknown (hlen : 1 ≤ body.length) (hk : lum? s (keyOfByte (byteAt body 0)) = none) :
    exec (.readLuminaire body) s = deny .noRecord 0x12 s ∧ exec (.retireLuminaire body) s = deny .noRecord 0x13 s := by
  constructor
  · simp only [exec, execReadLuminaire, if_neg (Nat.not_lt.mpr hlen), hk]
  · simp only [exec, execRetireLuminaire, if_neg (Nat.not_lt.mpr hlen), hk]

end DeniedLuminaires

end Sys2Proof.Machine
end

section
/-! SUPPORT. The requests of the segment table that are not taken: what each check answers (R3, R13, R16, R177). -/

namespace Sys2Proof.Machine

section DeniedSegments

variable {s : State} {body : List Byte} {g : Segment}

theorem segment_shortRow (hlen : body.length < 40) :
    exec (.defineSegment body) s = deny .badField 0x20 s ∧ exec (.amendSegment body) s = deny .badField 0x21 s :=
  ⟨if_pos hlen, if_pos hlen⟩

theorem segment_shortKey (hlen : body.length < 1) :
    exec (.readSegment body) s = deny .badField 0x22 s ∧ exec (.retireSegment body) s = deny .badField 0x23 s :=
  ⟨if_pos hlen, if_pos hlen⟩

theorem segmentRow_beyond (hlen : 40 ≤ body.length) (hid : 31 < byteAt body 0) :
    exec (.defineSegment body) s = deny .badField 0x20 s ∧ exec (.amendSegment body) s = deny .badField 0x21 s :=
  ⟨(if_neg (Nat.not_lt.mpr hlen)).trans (if_pos hid), (if_neg (Nat.not_lt.mpr hlen)).trans (if_pos hid)⟩

theorem segmentKey_beyond (hlen : 1 ≤ body.length) (hid : 31 < byteAt body 0) :
    exec (.readSegment body) s = deny .badField 0x22 s ∧ exec (.retireSegment body) s = deny .badField 0x23 s :=
  ⟨(if_neg (Nat.not_lt.mpr hlen)).trans (if_pos hid), (if_neg (Nat.not_lt.mpr hlen)).trans (if_pos hid)⟩

/-- R13: what the checks of AMEND SEGMENT on its structural fields come to. -/
theorem amendSegment_unfit_iff (s : State) (body : List Byte) (g : Segment) :
    (!segEnumsOk body || (carriesRefs body && !refsFit s (byteAt body 0) (takeSegStructure body g.cfg))) = true ↔
      segEnumsOk body = false ∨ (carriesRefs body = true ∧ refsFit s (byteAt body 0) (takeSegStructure body g.cfg) = false) := by
  rw [Bool.or_eq_true, Bool.and_eq_true, Bool.not_eq_true', Bool.not_eq_true']

section Rows

variable (hlen : 40 ≤ body.length) (hid : byteAt body 0 ≤ 31)

include hlen hid

theorem defineSegment_known (hfound : (seg? s (byteAt body 0)).isSome = true) :
    exec (.defineSegment body) s = deny .existsAlready 0x20 s := by
  obtain ⟨g, hg⟩ := Option.isSome_iff_exists.mp hfound
  simp only [exec, execDefineSegment, if_neg (Nat.not_lt.mpr hlen), if_neg (Nat.not_lt.mpr hid), hg]

theorem defineSegment_unfit (hnone : seg? s (byteAt body 0) = none)
    (hunfit : (segField body 0).isNone = true ∨ segEnumsOk body = false
      ∨ refsFit s (byteAt body 0) (takeSegStructure body segDefaults) = false) :
    exec (.defineSegment body) s = deny .badField 0x20 s := by
  have hbad : ((segField body 0).isNone || !segEnumsOk body
      || !refsFit s (byteAt body 0) (takeSegStructure body segDefaults)) = true := by
    rw [Bool.or_eq_true, Bool.or_eq_true, Bool.not_eq_true', Bool.not_eq_true', or_assoc]
    exact hunfit
  simp only [exec, execDefineSegment, if_neg (Nat.not_lt.mpr hlen), if_neg (Nat.not_lt.mpr hid), hnone, if_pos hbad]

theorem amendSegment_unknown (hnone : seg? s (byteAt body 0) = none) :
    exec (.amendSegment body) s = deny .noRecord 0x21 s := by
  simp only [exec, execAmendSegment, if_neg (Nat.not_lt.mpr hlen), if_neg (Nat.not_lt.mpr hid), hnone]

variable (hg : seg? s (byteAt body 0) = some g)

include hg

theorem amendSegment_unfit (hbad : segEnumsOk body = false
    ∨ (carriesRefs body = true ∧ refsFit s (byteAt body 0) (takeSegStructure body g.cfg) = false)) :
    exec (.amendSegment body) s = deny .badField 0x21 s := by
  simp only [exec, execAmendSegment, if_neg (Nat.not_lt.mpr hlen), if_neg (Nat.not_lt.mpr hid), hg,
    if_pos ((amendSegment_unfit_iff s body g).mpr hbad)]

/-- R13: the row of a segment that others link to does not change. -/
theorem amendSegment_linked (hfit : ¬(segEnumsOk body = false
      ∨ (carriesRefs body = true ∧ refsFit s (byteAt body 0) (takeSegStructure body g.cfg) = false)))
    (hrow : (takeSegStructure body g.cfg).row ≠ g.cfg.row)
    (hlinked : ∃ e ∈ s.segs, e.1 ≠ byteAt body 0 ∧ e.2.cfg.outer = some (byteAt body 0)) :
    exec (.amendSegment body) s = deny .inUse 0x21 s := by
  obtain ⟨e, he, hother, houter⟩ := hlinked
  have hisOuter : isOuter s (byteAt body 0) = true :=
    List.any_eq_true.mpr ⟨e, he, by rw [bne_iff_ne.mpr hother, beq_iff_eq.mpr houter]; rfl⟩
  simp only [exec, execAmendSegment, if_neg (Nat.not_lt.mpr hlen), if_neg (Nat.not_lt.mpr hid), hg,
    if_neg fun h => hfit ((amendSegment_unfit_iff s body g).mp h), if_pos (And.intro hrow hisOuter)]

end Rows

section Keys

variable (hlen : 1 ≤ body.length) (hid : byteAt body 0 ≤ 31)

include hlen hid

theorem segment_unknown (hnone : seg? s (byteAt body 0) = none) :
    exec (.readSegment body) s = deny .noRecord 0x22 s ∧ exec (.retireSegment body) s = deny .noRecord 0x23 s := by
  constructor
  · simp only [exec, execReadSegment, if_neg (Nat.not_lt.mpr hlen), if_neg (Nat.not_lt.mpr hid), hnone]
  · simp only [exec, execRetireSegment, if_neg (Nat.not_lt.mpr hlen), if_neg (Nat.not_lt.mpr hid), hnone]

/-- R16: a segment that something refers to is not retired. -/
theorem retireSegment_referenced (hfound : (seg? s (byteAt body 0)).isSome = true)
    (hreferenced : segReferenced s (byteAt body 0) = true) : exec (.retireSegment body) s = deny .inUse 0x23 s := by
  obtain ⟨g, hg⟩ := Option.isSome_iff_exists.mp hfound
  simp only [exec, execRetireSegment, if_neg (Nat.not_lt.mpr hlen), if_neg (Nat.not_lt.mpr hid), hg, if_pos hreferenced]

end Keys

end DeniedSegments

end Sys2Proof.Machine
end

section
/-! SUPPORT. The requests of the input table that are not taken, and the three tables together (R3, R18, R20, R177). -/

namespace Sys2Proof.Machine

section DeniedInputs

variable {s : State} {body : List Byte} {n : Input} {k : InputKind}

theorem input_shortRow (hlen : body.length < 12) :
    exec (.enrolInput body) s = deny .badField 0x30 s ∧ exec (.amendInput body) s = deny .badField 0x31 s :=
  ⟨if_pos hlen, if_pos hlen⟩

theorem input_shortKey (hlen : body.length < 1) :
    exec (.readInput body) s = deny .badField 0x32 s ∧ exec (.retireInput body) s = deny .badField 0x33 s :=
  ⟨if_pos hlen, if_pos hlen⟩

theorem inputRow_beyond (hlen : 12 ≤ body.length) (ha : 47 < byteAt body 0) :
    exec (.enrolInput body) s = deny .badField 0x30 s ∧ exec (.amendInput body) s = deny .badField 0x31 s :=
  ⟨(if_neg (Nat.not_lt.mpr hlen)).trans (if_pos ha), (if_neg (Nat.not_lt.mpr hlen)).trans (if_pos ha)⟩

theorem inputKey_beyond (hlen : 1 ≤ body.length) (ha : 47 < byteAt body 0) :
    exec (.readInput body) s = deny .badField 0x32 s ∧ exec (.retireInput body) s = deny .badField 0x33 s :=
  ⟨(if_neg (Nat.not_lt.mpr hlen)).trans (if_pos ha), (if_neg (Nat.not_lt.mpr hlen)).trans (if_pos ha)⟩

theorem input_unknown (hlen : 1 ≤ body.length) (ha : byteAt body 0 ≤ 47) (hnone : input? s (byteAt body 0) = none) :
    exec (.readInput body) s = deny .noRecord 0x32 s ∧ exec (.retireInput body) s = deny .noRecord 0x33 s := by
  constructor
  · simp only [exec, execReadInput, if_neg (Nat.not_lt.mpr hlen), if_neg (Nat.not_lt.mpr ha), hnone]
  · simp only [exec, execRetireInput, if_neg (Nat.not_lt.mpr hlen), if_neg (Nat.not_lt.mpr ha), hnone]

/-- R20: a photosensor that a segment names is not retired. -/
theorem retireInput_named (hlen : 1 ≤ body.length) (ha : byteAt body 0 ≤ 47) (hn : input? s (byteAt body 0) = some n)
    (hkind : deviceKind n.device = .photo) (hnamed : namedAsSensor s (byteAt body 0) = true) :
    exec (.retireInput body) s = deny .inUse 0x33 s := by
  simp only [exec, execRetireInput, if_neg (Nat.not_lt.mpr hlen), if_neg (Nat.not_lt.mpr ha), hn, if_pos (And.intro hkind hnamed)]

/-! ## What a kind's device may be given (R17, R18, R19) -/

theorem kindOfCode_eq_none_iff (c : Nat) : kindOfCode c = none ↔ c ∉ [1, 2, 3] := by
  unfold kindOfCode
  split
  · simp
  · simp
  · simp
  · rename_i h1 h2 h3
    refine iff_of_true rfl ?_
    rw [List.mem_cons, List.mem_cons, List.mem_singleton]
    exact fun h => h.elim h1 fun h => h.elim h2 h3

theorem kindOfCode_eq_some (h : kindOfCode (byteAt body 2) = some k) : byteAt body 2 = k.code := by
  revert h
  unfold kindOfCode
  split <;> rintro ⟨⟩ <;> assumption

/-- R19: the mask bits that another kind than the photosensor does not have. -/
theorem carriesForeign_iff (k : InputKind) (body : List Byte) : carriesForeign k body = true ↔
    (k.code ≠ 1 ∧ ((byteAt body 1).testBit 4 = true ∨ (byteAt body 1).testBit 5 = true))
      ∨ (k.code = 2 ∧ (byteAt body 1).testBit 3 = true) := by
  cases k with
  | photo => simp [carriesForeign, InputKind.code]
  | presence =>
    simp [carriesForeign, InputKind.code, inputMask]
    tauto
  | station => simp [carriesForeign, InputKind.code, inputMask]

/-- R18: a device takes what the body carries unless its coverage or its scope is not fit. -/
theorem takeDevice_eq_none_iff (s : State) (body : List Byte) (d : Device) : takeDevice s body d = none ↔
    (byteAt body 1).testBit 2 = true ∧
      ((deviceKind d = .presence ∧ coverageIn s body = none) ∨ (deviceKind d = .station ∧ scopeOk s (scopeIn body) = false)) := by
  cases d with
  | photo c m => simp [takeDevice, deviceKind]
  | presence coverage last =>
    by_cases hcarried : (byteAt body 1).testBit 2 = true <;> simp [takeDevice, deviceKind, inputMask, hcarried]
  | station scope hold b q =>
    by_cases hcarried : (byteAt body 1).testBit 2 = true <;> simp [takeDevice, deviceKind, inputMask, hcarried]

/-! ## ENROL INPUT and AMEND INPUT -/

section Rows

variable (hlen : 12 ≤ body.length) (ha : byteAt body 0 ≤ 47)

include hlen ha

theorem enrolInput_known (hfound : (input? s (byteAt body 0)).isSome = true) :
    exec (.enrolInput body) s = deny .existsAlready 0x30 s := by
  obtain ⟨n, hn⟩ := Option.isSome_iff_exists.mp hfound
  simp only [exec, execEnrolInput, if_neg (Nat.not_lt.mpr hlen), if_neg (Nat.not_lt.mpr ha), hn]

theorem amendInput_unknown (hnone : input? s (byteAt body 0) = none) : exec (.amendInput body) s = deny .noRecord 0x31 s := by
  simp only [exec, execAmendInput, if_neg (Nat.not_lt.mpr hlen), if_neg (Nat.not_lt.mpr ha), hnone]

/-- R17, R18: an enrolment whose kind, mask, coverage or scope is not fit. -/
theorem enrolInput_unfit (hnone : input? s (byteAt body 0) = none)
    (hunfit : ∀ k, kindOfCode (byteAt body 2) = some k →
      carriesForeign k body = true ∨ enrolComplete k body = false ∨ takeDevice s body (freshDevice k) = none) :
    exec (.enrolInput body) s = deny .badField 0x30 s := by
  cases hkind : kindOfCode (byteAt body 2) with
  | none => simp only [exec, execEnrolInput, if_neg (Nat.not_lt.mpr hlen), if_neg (Nat.not_lt.mpr ha), hnone, hkind]
  | some k =>
    by_cases hbad : (carriesForeign k body || !enrolComplete k body) = true
    · simp only [exec, execEnrolInput, if_neg (Nat.not_lt.mpr hlen), if_neg (Nat.not_lt.mpr ha), hnone, hkind, if_pos hbad]
    · have hnotTaken : takeDevice s body (freshDevice k) = none := by
        rw [Bool.or_eq_true, Bool.not_eq_true', not_or] at hbad
        exact ((hunfit k hkind).resolve_left hbad.1).resolve_left hbad.2
      simp only [exec, execEnrolInput, if_neg (Nat.not_lt.mpr hlen), if_neg (Nat.not_lt.mpr ha), hnone, hkind, if_neg hbad, hnotTaken]

/-- R18, R19: an amendment whose kind, mask, coverage or scope is not fit. -/
theorem amendInput_unfit (hn : input? s (byteAt body 0) = some n)
    (hunfit : (byteAt body 2 ≠ 0 ∧ byteAt body 2 ≠ (deviceKind n.device).code) ∨ carriesForeign (deviceKind n.device) body = true
      ∨ takeDevice s body n.device = none) :
    exec (.amendInput body) s = deny .badField 0x31 s := by
  by_cases hbad : (byteAt body 2 ≠ 0 ∧ byteAt body 2 ≠ (deviceKind n.device).code)
      ∨ carriesForeign (deviceKind n.device) body = true
  · simp only [exec, execAmendInput, if_neg (Nat.not_lt.mpr hlen), if_neg (Nat.not_lt.mpr ha), hn, if_pos hbad]
  · have hnotTaken : takeDevice s body n.device = none := by
      rw [← or_assoc] at hunfit
      exact hunfit.resolve_left hbad
    simp only [exec, execAmendInput, if_neg (Nat.not_lt.mpr hlen), if_neg (Nat.not_lt.mpr ha), hn, if_neg hbad, hnotTaken]

end Rows

theorem enrolComplete_eq (k : InputKind) (body : List Byte) :
    enrolComplete k body = false ↔ k.code ≠ 1 ∧ (byteAt body 1).testBit 2 = false := by
  cases k <;> simp [enrolComplete, InputKind.code, inputMask]

theorem deviceKind_freshDevice (k : InputKind) : deviceKind (freshDevice k) = k := by
  cases k <;> rfl

theorem code_inj (k : InputKind) : (k.code = 2 ↔ k = .presence) ∧ (k.code = 3 ↔ k = .station) := by
  cases k <;> decide

/-- Settles O7: each check of the three tables, the earlier ones passing. -/
theorem tableRequestsFailByTheirFirstCheck : Obligations.TableRequestsFailByTheirFirstCheck := by
  intro s body k b mask refused taken scope
  refine ⟨fun h => ⟨refused_of_deny (enrolLuminaire_short h), refused_of_deny (amendLuminaire_short h)⟩,
    fun h => ⟨refused_of_deny (segment_shortRow h).1, refused_of_deny (segment_shortRow h).2⟩,
    fun h => ⟨refused_of_deny (input_shortRow h).1, refused_of_deny (input_shortRow h).2⟩,
    fun h => ⟨refused_of_deny (luminaire_short h).1, refused_of_deny (luminaire_short h).2,
      refused_of_deny (segment_shortKey h).1, refused_of_deny (segment_shortKey h).2,
      refused_of_deny (input_shortKey h).1, refused_of_deny (input_shortKey h).2⟩,
    fun hlen => ⟨fun hk => refused_of_deny (enrolLuminaire_known hlen hk),
      fun hk hplace => refused_of_deny (enrolLuminaire_placed hlen hk hplace),
      fun hk => refused_of_deny (amendLuminaire_unknown hlen hk), fun l hl => ?luminaire⟩,
    fun hlen => ⟨fun hb => ⟨refused_of_deny (segmentRow_beyond hlen hb).1, refused_of_deny (segmentRow_beyond hlen hb).2⟩,
      fun hb => ⟨fun hg => refused_of_deny (defineSegment_known hlen hb hg),
        fun hg => ⟨fun hbad => refused_of_deny (defineSegment_unfit hlen hb hg hbad), refused_of_deny (amendSegment_unknown hlen hb hg)⟩,
        fun g hg => ⟨fun hbad => refused_of_deny (amendSegment_unfit hlen hb hg hbad),
          fun hfit hrow hlinked => refused_of_deny (amendSegment_linked hlen hb hg hfit hrow hlinked)⟩⟩⟩,
    fun hlen => ⟨fun hb => ⟨refused_of_deny (inputRow_beyond hlen hb).1, refused_of_deny (inputRow_beyond hlen hb).2⟩,
      fun hb => ⟨fun hn => refused_of_deny (enrolInput_known hlen hb hn),
        fun hn => ⟨refused_of_deny (amendInput_unknown hlen hb hn), fun hbad => refused_of_deny (enrolInput_unfit hlen hb hn ?enrolled)⟩,
        fun n hn hbad => refused_of_deny (amendInput_unfit hlen hb hn ?amended)⟩⟩,
    fun hlen => ⟨fun hk => ⟨refused_of_deny (luminaire_unknown hlen hk).1, refused_of_deny (luminaire_unknown hlen hk).2⟩,
      fun hb => ⟨refused_of_deny (segmentKey_beyond hlen hb).1, refused_of_deny (segmentKey_beyond hlen hb).2⟩,
      fun hb hg => ⟨refused_of_deny (segment_unknown hlen hb hg).1, refused_of_deny (segment_unknown hlen hb hg).2⟩,
      fun hb hg href => refused_of_deny (retireSegment_referenced hlen hb hg href),
      fun hb => ⟨refused_of_deny (inputKey_beyond hlen hb).1, refused_of_deny (inputKey_beyond hlen hb).2⟩,
      fun hb hn => ⟨refused_of_deny (input_unknown hlen hb hn).1, refused_of_deny (input_unknown hlen hb hn).2⟩,
      fun hb n hn hkind hnamed => refused_of_deny (retireInput_named hlen hb hn hkind hnamed)⟩⟩
  case luminaire =>
    have hsegment := lumFields_segment body
    have hposition := lumFields_position body
    refine ⟨fun ⟨⟨hmask, hsg⟩, hpos⟩ => ?_, fun ⟨⟨hmask, hsg⟩, hunfit⟩ => ?_, fun ⟨⟨hmask, hpos⟩, hunfit⟩ => ?_,
      fun ⟨hmask, hsg⟩ hid hfound hpos hle hheld => ?_, fun q hq ⟨hmask, hpos⟩ hle hheld => ?_⟩
    · rw [if_pos hmask] at hsegment
      rw [if_pos hpos] at hposition
      exact refused_of_deny (amendLuminaire_error hlen hl (amendedPlace_noneAt (hsegment.trans (congrArg some hsg)) hposition))
    · rw [if_pos hmask] at hsegment
      refine refused_of_deny (amendLuminaire_error hlen hl (amendedPlace_unfit hsegment hsg ?_))
      rcases hunfit with hid | hnone | hpos | hpos
      · exact .inl hid
      · exact .inr (.inl hnone)
      · exact .inr (.inr (.inl (hposition.trans (if_neg (Bool.eq_false_iff.mp hpos)))))
      · by_cases hcarried : (byteAt body 1).testBit 1 = true
        · exact .inr (.inr (.inr ⟨_, hposition.trans (if_pos hcarried), hpos⟩))
        · exact .inr (.inr (.inl (hposition.trans (if_neg hcarried))))
    · rw [if_neg (Bool.eq_false_iff.mp hmask)] at hsegment
      rw [if_pos hpos] at hposition
      exact refused_of_deny (amendLuminaire_error hlen hl (amendedPlace_movedUnfit hsegment hposition hunfit))
    · rw [if_pos hmask] at hsegment
      rw [if_pos hpos] at hposition
      exact refused_of_deny (amendLuminaire_held hlen hl (amendedPlace_assigned hsegment hsg hid hfound hposition hle) (.inl hmask) hheld)
    · rw [if_neg (Bool.eq_false_iff.mp hmask)] at hsegment
      rw [if_pos hpos] at hposition
      exact refused_of_deny (amendLuminaire_held hlen hl (amendedPlace_moved hsegment hposition hq hle) (.inr hpos) hheld)
  case enrolled =>
    intro k hkind
    have hcode := kindOfCode_eq_some hkind
    obtain ⟨htwo, hthree⟩ := code_inj k
    rw [carriesForeign_iff, enrolComplete_eq, takeDevice_eq_none_iff, deviceKind_freshDevice, ← htwo, ← hthree, ← hcode]
    rcases hbad with hkinds | ⟨hone, huncarried | hmask⟩ | ⟨hpresence, hmask | hcoverage⟩ | ⟨hstation, hscope⟩
    · rw [(kindOfCode_eq_none_iff _).mpr hkinds] at hkind
      cases hkind
    · exact .inr (.inl ⟨hone, huncarried⟩)
    · exact .inl (.inl ⟨hone, hmask⟩)
    · exact .inl (.inr ⟨hpresence, hmask⟩)
    · cases hcarried : (byteAt body 1).testBit 2 with
      | false => exact .inr (.inl ⟨by rw [hpresence]; decide, rfl⟩)
      | true => exact .inr (.inr ⟨rfl, .inl ⟨hpresence, hcoverage⟩⟩)
    · cases hcarried : (byteAt body 1).testBit 2 with
      | false => exact .inr (.inl ⟨by rw [hstation]; decide, rfl⟩)
      | true => exact .inr (.inr ⟨rfl, .inr ⟨hstation, hscope⟩⟩)
  case amended =>
    obtain ⟨htwo, hthree⟩ := code_inj (deviceKind n.device)
    rw [carriesForeign_iff, takeDevice_eq_none_iff, ← htwo, ← hthree]
    rcases hbad with hkinds | hforeign | ⟨hpresence, hmask | ⟨hcarried, hcoverage⟩⟩ | ⟨hstation, hcarried, hscope⟩
    · rw [List.mem_cons, List.mem_singleton, not_or] at hkinds
      exact .inl hkinds
    · exact .inr (.inl (.inl hforeign))
    · exact .inr (.inl (.inr ⟨hpresence, hmask⟩))
    · exact .inr (.inr ⟨hcarried, .inl ⟨hpresence, hcoverage⟩⟩)
    · exact .inr (.inr ⟨hcarried, .inr ⟨hstation, hscope⟩⟩)

end DeniedInputs

end Sys2Proof.Machine
end

section
/-! SUPPORT. What PhotoRepliesAreSamples (R63) turns on. The laws of the configuration are not among its premises: with an up
interval of 0, a segment that strikes on its outer segment's rise still has its step event due, and whether it ends in STRIKE then
depends on which event is taken earlier. That order is free (log 4), so the statement does not follow from the model. -/

namespace Sys2Proof.Machine

/-- A TRACKING segment without H, in row 1. -/
def darkOuter : Segment :=
  { freshSeg { segDefaults with mode := .harvest, primary := some 5 } 1000 with ctl := .tracking, stepTimer := some 10 }

/-- A DAYLIT segment inside it, its up interval 0 and its step event due. -/
def restlessInner : Segment :=
  { freshSeg { segDefaults with mode := .harvest, primary := some 5, outer := some 0, row := 2, upInterval := 0 } 1000 with
    ctl := .daylit, stepTimer := some 0 }

/-- A photosensor without a spike limit. -/
def bareConfig : PhotoConfig := ⟨0, 50, 0, 1024⟩

/-- A SETTLED record that last read 100. -/
def litMeasurement : Measurement := ⟨.settled, 25600, some 100, 0, false, none, none⟩

def litSensor : Input := ⟨.photo bareConfig litMeasurement, 5, 3, .reporting, 0, some 10, false⟩

/-- The photosensor of both segments is being polled. -/
def polledPair : State :=
  { State.reset with
    segs := [(0, darkOuter), (1, restlessInner)]
    inputs := [(5, litSensor)]
    inputLine := { InputLine.reset with flight := some (.due 5 .live) } }

/-- A photosensor that reads 0. -/
def darkReply : List LineByte := [.sent 1, .sent 5, .sent 0, .sent 0]

/-- The reply recorded, its sky change still to be taken. -/
def sampledPair : State :=
  { putInput 5 { litSensor with device := .photo bareConfig { litMeasurement with acc := 0, f0 := some 0 } } (clearPoll polledPair) with
    draws := 1 }

/-- An event's recompositions leave the records as its own change has them. -/
theorem event_eq (f : State → State) (s : State) :
    ∃ lums lineA lineB draws, event f s = { f s with lums := lums, lineA := lineA, lineB := lineB, draws := draws } :=
  ⟨_, _, _, _, (settle_recomposes s (f s)).1⟩

/-- The outer segment's rise makes the inner one strike with its step event due, that event makes it TRACKING, and its own sky
change raises it there. -/
theorem sampledPair_ascending :
    (seg? (takeSkyEvents [1, 2, 3] sampledPair) 1).map (fun v : Segment => v.ctl) = some .tracking := by
  have hevents : takeSkyEvents [1, 2, 3] sampledPair =
      event (skyChange 1) (event (stepExpiry 1) (event (skyChange 0) sampledPair)) := rfl
  obtain ⟨lums, lineA, lineB, draws, hrise⟩ := event_eq (skyChange 0) sampledPair
  obtain ⟨lums', lineA', lineB', draws', hstep⟩ :=
    event_eq (stepExpiry 1) { skyChange 0 sampledPair with lums := lums, lineA := lineA, lineB := lineB, draws := draws }
  rw [hevents, hrise, hstep, seg?_event]
  rfl

/-- The events of the three keys, where an order takes lower keys earlier. -/
theorem exec_darkReply (hbefore : ∀ n x y : Nat, x < y → Config.before n x y = true) :
    exec (.inputReply darkReply) polledPair = done (arbitrateInput (takeSkyEvents [1, 2, 3] sampledPair)) := by
  have horder : freeOrder 0 [1, 2, 3] = [1, 2, 3] := by
    simp [freeOrder, insertFree, hbefore]
  have hkeys : takeSample 5 0 (putInput 5 (heardInput litSensor) (clearPoll polledPair)) =
      takeSkyEvents (freeOrder 0 [1, 2, 3]) sampledPair := rfl
  rw [exec_inputReply_live (a := 5) (n := litSensor) (v := .photo 0) rfl (by decide) rfl rfl, ← horder, ← hkeys]
  rfl

/-- PhotoRepliesAreSamples fails where the free order takes lower keys earlier. -/
theorem not_photoRepliesAreSamples_of_ascending (hbefore : ∀ n x y : Nat, x < y → Config.before n x y = true) :
    ¬ Obligations.PhotoRepliesAreSamples := by
  intro h
  obtain ⟨t, ht, _, _, _, _, hsegs, _⟩ := h polledPair 5 0 darkReply (by decide) (by decide) rfl (by decide) litSensor rfl
    bareConfig litMeasurement rfl
  rw [exec_darkReply hbefore] at ht
  obtain ⟨u, hu, _, _, _, hstruck⟩ := (hsegs 1 restlessInner rfl (by decide)).2 (by decide)
  have hctl : u.ctl = .tracking := by
    have hfinal := sampledPair_ascending
    cases ht
    exact Option.some.inj ((congrArg (Option.map fun v : Segment => v.ctl) hu).symm.trans hfinal)
  have hstrikes := (hstruck (by decide)).1
  rw [hctl] at hstrikes
  cases hstrikes

end Sys2Proof.Machine
end
